-- ==== Sys2Proof/Word.lean ====
section
/-!
DEFINITION. The plain words of the KX9 manual (R5, R6, R8): bytes, and the sparse tables in which the model
keeps register files and memory. A table is a list of (key, value) pairs; an index it does not list holds the
value its reader names, which is the reset value of the manual's own table.
-/
namespace Sys2Proof

/-- One byte (R5). -/
abbrev Byte := BitVec 8

/-- A 64-bit register or setting value. -/
abbrev Reg64 := BitVec 64

/-- A sparse table, in rising order of its keys. -/
abbrev Table (α : Type) := List (Nat × α)

/-- A Salpor descriptor: 64 bytes, byte 0 in bits 7:0 (R5, R398). -/
abbrev Desc := BitVec 512

/-- What a read of host memory answers: the bytes, or nothing when the read failed on PCI Express. -/
abbrev HostRead := Option (List Byte)

end Sys2Proof
end

