-- ==== Sys2Proof/Syntax.lean ====
section
/-!
DEFINITION. The commands and events a KX9 module answers: one constructor of `Instr` for each row of
spec/opcode_table.json, in the table's order. A Salpor command carries the submission ring it is taken from, its
64-byte descriptor and, where the module reads host memory to run it, what that read answers. A packet, a
codeword header or a drone frame that arrives carries the port or lane it arrives on, and a drone frame that is lost its code
groups, bit a of each in bit 9. An event of a timer
carries what names the timer.
-/
namespace Sys2Proof

/-- A packet (R212). A control packet is the 64 bytes of `hdr`; a data packet is the low 32 bytes of `hdr`, its
payload and its 8-byte trailer. Byte 0 of a header is in bits 7:0 of `hdr` (R5). -/
structure Packet where
  hdr     : BitVec 512
  payload : List Byte
  trailer : BitVec 64
  deriving DecidableEq, Repr, Inhabited

/-- A received codeword as the decoder hands it on (R197, R203, R271): its 5,140 message bits, still scrambled, message bit 0
in bit 0, and the number of symbols corrected; none when it is uncorrectable, and the bits are then as they came (DESIGN
CHOICE, log entry 89). -/
structure Codeword where
  message : BitVec 5140
  symbols : Option (BitVec 5)
  deriving DecidableEq, Repr, Inhabited

/-- The four causes of a host interface reset that are no register write (R389, R444). -/
inductive LinkEvent where
  | functionLevelReset
  | d3hot
  | linkLoss
  | perst
  deriving DecidableEq, Repr, Inhabited

/-- The read of the descriptor at the head of a ring, with the command it finds: its 64 bytes, or a failure on PCI Express (FETCH
of Table 13.15), which finds none. -/
inductive Fetched where
  | read (d : Desc)
  | failed
  deriving DecidableEq, Repr, Inhabited

/-- A write to configuration space: Bus Master Enable (R388), or another field that Tables 13.1 and 13.2 and R390 leave to the
host, each as the PCI Express specification has it (log entry 10). -/
inductive ConfigWrite where
  | busMaster (on : Bool)
  | msix (enable : Bool) (mask : Bool)    -- MSI-X Enable and Function Mask
  | maxPayload (code : BitVec 3)          -- 128 B × 2 ^ code
  | maxRead (code : BitVec 3)
  | bar0 (addr : BitVec 64)
  | bar2 (addr : BitVec 64)
  | power (d3hot : Bool)
  | aerClear (bits : BitVec 32)           -- error status bits, written 1 to clear
  deriving DecidableEq, Repr, Inhabited

/-- A place in one of the two BARs (Table 13.2). -/
inductive BarAddr where
  | bar0 (offset : BitVec 26)
  | bar2 (offset : BitVec 16)
  deriving DecidableEq, Repr, Inhabited

/-- How wide an access is, in bits (R386). -/
inductive AccessWidth where
  | b8
  | b16
  | b32
  | b64
  deriving DecidableEq, Repr, Inhabited

/-- A read of a BAR. -/
structure BarRead where
  addr  : BarAddr
  width : AccessWidth
  deriving DecidableEq, Repr, Inhabited

/-- A write on the management bus (R451): the address, the command code, and the bytes after it. -/
structure SmbusWrite where
  address : BitVec 7
  command : Byte
  data    : List Byte
  deriving DecidableEq, Repr, Inhabited

/-- The parts whose junctions have limits (Table 16.3). -/
inductive Junction where
  | compute
  | bridge
  | skein
  deriving DecidableEq, Repr, Inhabited

/-- The commands and events, one for each row of the table. -/
inductive Instr where
  -- Salpor commands (Table 13.17)
  | nop (sq : BitVec 8) (d : Fetched)
  | programLoad (sq : BitVec 8) (d : Desc) (host : HostRead)
  | programClear (sq : BitVec 8) (d : Desc)
  | programQuery (sq : BitVec 8) (d : Desc)
  | castOn (sq : BitVec 8) (d : Desc) (host : HostRead)
  | bindOff (sq : BitVec 8) (d : Desc)
  | collective (sq : BitVec 8) (d : Desc) (host : HostRead)
  | groupPause (sq : BitVec 8) (d : Desc)
  | groupResume (sq : BitVec 8) (d : Desc)
  | groupSave (sq : BitVec 8) (d : Desc)
  | groupRestore (sq : BitVec 8) (d : Desc) (host : HostRead)
  | recast (sq : BitVec 8) (d : Desc) (host : HostRead)
  | stepRollback (sq : BitVec 8) (d : Desc)
  | shardResend (sq : BitVec 8) (d : Desc)
  | provenance (sq : BitVec 8) (d : Desc)
  | shardWrite (sq : BitVec 8) (d : Desc) (host : HostRead)
  | shardRead (sq : BitVec 8) (d : Desc)
  | securePoint (sq : BitVec 8) (d : Desc)
  | releaseSecure (sq : BitVec 8) (d : Desc)
  | stepRecordRead (sq : BitVec 8) (d : Desc)
  | courseSetup (sq : BitVec 8) (d : Desc)
  | takeover (sq : BitVec 8) (d : Desc)
  | evacuate (sq : BitVec 8) (d : Desc)
  | drain (sq : BitVec 8) (d : Desc)
  | txnBegin (sq : BitVec 8) (d : Desc)
  | txnWrite (sq : BitVec 8) (d : Desc) (host : HostRead)
  | txnCommit (sq : BitVec 8) (d : Desc)
  | txnFrog (sq : BitVec 8) (d : Desc)
  | settingRead (sq : BitVec 8) (d : Desc)
  | routeLoad (sq : BitVec 8) (d : Desc) (host : HostRead)
  | portTableLoad (sq : BitVec 8) (d : Desc) (host : HostRead)
  | droneTableLoad (sq : BitVec 8) (d : Desc) (host : HostRead)
  | pegLoad (sq : BitVec 8) (d : Desc) (host : HostRead)
  | portRestart (sq : BitVec 8) (d : Desc)
  | rowRead (sq : BitVec 8) (d : Desc)
  | rowWait (sq : BitVec 8) (d : Desc)
  | rowAdd (sq : BitVec 8) (d : Desc)
  | inject (sq : BitVec 8) (d : Desc) (host : HostRead)
  -- host interface registers and doorbells (Tables 13.7 to 13.14, R393)
  | moduleReset
  | ifReset
  | hostInterfaceReset (cause : LinkEvent)
  | sqEnable (ring : BitVec 8) (value : BitVec 32)
  | sqDisable (ring : BitVec 8) (value : BitVec 32)
  | cqEnable (ring : BitVec 8) (value : BitVec 64)
  | cqDisable (ring : BitVec 8) (value : BitVec 64)
  | sampleRingEnable (value : BitVec 32)
  | sqTailDoorbell (ring : BitVec 8) (value : BitVec 32)
  | cqHeadDoorbell (ring : BitVec 8) (value : BitVec 32)
  | sampleHeadDoorbell (value : BitVec 32)
  | irqModerationTimeout (ring : BitVec 8)
  -- performance counters (Tables 15.4 to 15.9)
  | perfSelWrite (n : BitVec 6) (addr : Bool) (value : BitVec 64)
  | perfDumpEnable (value : BitVec 64)
  | perfDumpHeadWrite (value : BitVec 64)
  | dumpTick
  -- firmware update and attestation (Tables 14.6, 14.17)
  | stage (value : BitVec 64) (host : HostRead)
  | trial (value : BitVec 64)
  | commit (value : BitVec 64)
  | select (value : BitVec 64)
  | protect (value : BitVec 64) (host : HostRead)
  | attestGo (value : BitVec 32)
  -- register accesses with no behaviour of their own (R11 to R13)
  | registerWrite (offset : BarAddr) (width : AccessWidth) (value : BitVec 64)
  | registerReadClear (access : BarRead)
  | registerHalfAccess (offset : BitVec 26) (write : Bool) (value : BitVec 32)
  -- management reads (Table 16.11); an analogue reading is the sensor's at the read
  | status
  | vin (sample : BitVec 16)
  | iin (sample : BitVec 16)
  | pin (sample : BitVec 16)
  | tj (compute : BitVec 8) (bridge : BitVec 8) (skein : BitVec 8)
  | boot
  | serial
  | info
  | build
  -- power, reset, droop, thermal (chapter 16)
  | pwrgdRise
  | pwrgdFall
  | inputOutOfRange (vin : BitVec 16)
  | resetNLow
  | resetRelease
  | watchdogExpiry (core : BitVec 2)
  | headstockSramError
  | coreRailFault
  | skeinUncorrectableError (hank : BitVec 19)
  | droopBegin (lowest : BitVec 16)
  | droopEnd (vin : BitVec 16)
  | droopThrottleRelease
  | powerThrottleEngage (watts : BitVec 16)
  | powerThrottleRelease (watts : BitVec 16)
  | thermalThrottleEngage (compute : BitVec 8)
  | thermalThrottleRelease (compute : BitVec 8)
  | thermalWarning (part : Junction) (celsius : BitVec 8)
  | thermalTrip (part : Junction) (celsius : BitVec 8)
  | thermalTripRecovery (compute : BitVec 8) (bridge : BitVec 8) (skein : BitVec 8)
  | rateLow (perMicrosecond : BitVec 32)
  -- reference clock (R284, R285)
  | refLock
  | altLaneLock
  | holdoverExpiry
  -- codewords and port timers
  | codewordTx (port : BitVec 7) (lane : BitVec 4)
  | codewordRx (port : BitVec 7) (lane : BitVec 4) (cw : Codeword)
  | ack (port : BitVec 7) (fsn : BitVec 12) (replay : Bool) (rtag : BitVec 2)
  | credit (port : BitVec 7) (sublane : BitVec 4) (count : BitVec 12)
  | time (port : BitVec 7) (value : BitVec 64)
  | flitTimeout (port : BitVec 7)
  | ackTimeout (port : BitVec 7)
  | creditDeadline (port : BitVec 7)
  | lockTimeout (port : BitVec 7)
  | measureTimeout (port : BitVec 7)
  | marginWindowEnd (port : BitVec 7)
  | failedDwellEnd (drone : Bool) (index : BitVec 7)
  | linkInit (port : BitVec 7) (p : Packet)
  -- packets
  | packetRx (port : BitVec 7) (p : Packet)
  | adaptWaitExpiry (port : BitVec 7) (sublane : BitVec 4)
  | ageCheck (port : BitVec 7) (sublane : BitVec 4) (index : BitVec 16)
  | put (p : Packet)
  | getReq (p : Packet)
  | getData (p : Packet)
  | eAck (p : Packet)
  | eNack (p : Packet)
  | resendTimeout (dst : BitVec 16) (seq : BitVec 32)
  | flowStateExpiry (src : BitVec 16)
  | collUp (p : Packet)
  | collDown (p : Packet)
  | a2aUp (p : Packet)
  | a2aDown (p : Packet)
  | barrierArrive (p : Packet)
  | barrierRelease (p : Packet)
  | gcredit (p : Packet)
  | tack (p : Packet)
  | chunkAbort (p : Packet)
  | cNack (p : Packet)
  | rowWaitPkt (p : Packet)
  | castReady (p : Packet)
  | castFail (p : Packet)
  | castGo (p : Packet)
  | castAbort (p : Packet)
  | castOnLimitExpiry (group : BitVec 24)
  | stepSeal (p : Packet)
  | stepSealed (p : Packet)
  | stepSealRetry (group : BitVec 24)
  -- stitches and steps
  | stitchDispatch
  | stitchComplete (front : BitVec 32) (back : BitVec 32)
  | dwellExpiry (group : BitVec 24) (node : BitVec 16) (seq : BitVec 32) (chunk : BitVec 32)
  | chunkComplete (group : BitVec 24) (seq : BitVec 32) (chunk : BitVec 32)
  | generationFlip (group : BitVec 24)
  | snapshotCopy (hank : BitVec 19)
  -- routing banks and transactions
  | bankRetire
  | txnCommitTick
  -- drone lanes
  | droneBeatTx (lane : BitVec 5)
  | beat (lane : BitVec 5) (data : Byte)
  | droneLaneLost (lane : BitVec 5)
  | commaAlign (lane : BitVec 5)
  | tmarkTx (lane : BitVec 5)
  | tmark (lane : BitVec 5) (value : BitVec 64) (crc : Byte)
  | helloTx (lane : BitVec 5)
  | hello (lane : BitVec 5) (body : BitVec 224)
  | delayReq (lane : BitVec 5) (reqId : BitVec 32) (t1 : BitVec 64)
  | delayResp (lane : BitVec 5) (reqId : BitVec 32) (t1 : BitVec 64) (t2 : BitVec 64) (t3 : BitVec 64)
  | moduleLost (lane : BitVec 5) (body : BitVec 192)
  | endpointLost (lane : BitVec 5) (body : BitVec 192)
  | epPortLost (lane : BitVec 5) (body : BitVec 192)
  | draining (lane : BitVec 5) (body : BitVec 192)
  | shardLost (lane : BitVec 5) (body : BitVec 192)
  | risk (lane : BitVec 5) (body : BitVec 192)
  | leadTaken (lane : BitVec 5) (body : BitVec 192)
  | returned (lane : BitVec 5) (body : BitVec 192)
  | course (lane : BitVec 5) (body : BitVec 192)
  | courseRepeat
  | secureReq (lane : BitVec 5) (body : BitVec 192)
  | evacReq (lane : BitVec 5) (body : BitVec 192)
  | evacAck (lane : BitVec 5) (body : BitVec 192)
  | severTimeout
  | drainQuiescent
  | riskUpdate (celsius : BitVec 8)
  | sampleRecordWrite
  | tackDeadline (endpoint : BitVec 15)
  | vectorUnmask (vector : BitVec 11)
  | busMasterEnable (field : ConfigWrite)
  | ringsEn (on : Bool)
  | delayReqTx (lane : BitVec 5)
  | lossOfLock (bridge : BitVec 2)
  | smbusWrite (message : SmbusWrite)
  | droneFrameError (lane : BitVec 5) (groups : List (BitVec 10))
  deriving DecidableEq, Repr, Inhabited

end Sys2Proof
end

