-- ==== Sys2Proof/Decode.lean ====
section
/-!
DEFINITION. A KX9 module has no instruction words: its commands are descriptors, register accesses, packets, frames
and events, and the command table gives none of its rows a bit pattern.
-/
namespace Sys2Proof

/-- The command that a word spells by the table's bits: none, since no row has bits. -/
def decodeTableWord (_nbits _w : Nat) : Option Instr := none

end Sys2Proof
end

