-- ==== Sys2Proof/Machine/Bits.lean ====
section
/-!
DEFINITION. Bit fields, byte order, sparse tables and checksums: how the manual's maps and layouts are read
(R5, R6), the CRC-32C of R213, the CRC-8 of R278 and the CRC-64/XZ of R369.
-/
namespace Sys2Proof.Machine

/-! ## Sparse tables -/

/-- The entry at `k`, or `d` when the table does not list it. -/
def tget {α : Type} (d : α) : Table α → Nat → α
  | [], _ => d
  | (j, v) :: t, k => if j = k then v else tget d t k

/-- The table without `k`. -/
def tdel {α : Type} : Table α → Nat → Table α
  | [], _ => []
  | (j, v) :: t, k => if j = k then tdel t k else (j, v) :: tdel t k

/-- `v` entered at `k` before the first larger key. -/
def tins {α : Type} (k : Nat) (v : α) : Table α → Table α
  | [] => [(k, v)]
  | (j, w) :: t => if k < j then (k, v) :: (j, w) :: t else (j, w) :: tins k v t

/-- The table with `v` at `k`; an entry equal to what an unlisted key reads as is not listed. -/
def tset {α : Type} [DecidableEq α] (d : α) (t : Table α) (k : Nat) (v : α) : Table α :=
  if v = d then tdel t k else tins k v (tdel t k)

/-- The canonical form of a table: keys rising, and no entry equal to the default. -/
def tableWf {α : Type} [DecidableEq α] (d : α) : Table α → Bool
  | [] => true
  | (k, v) :: t => (v != d) && (match t with | [] => true | (j, _) :: _ => decide (k < j)) && tableWf d t

/-! ## Lists -/

/-- The list with `v` at place `n`; unchanged when there is no such place. -/
def lset {α : Type} (l : List α) (n : Nat) (v : α) : List α := l.set n v

/-- The first element that satisfies `p`, replaced by `f` of it. -/
def lupdate {α : Type} (p : α → Bool) (f : α → α) : List α → List α
  | [] => []
  | x :: xs => if p x then f x :: xs else x :: lupdate p f xs

/-- The list cut into pieces of `n` elements; the fuel is the list's length. -/
def chunksOf {α : Type} (n : Nat) (l : List α) : List (List α) :=
  let rec go : Nat → List α → List (List α)
    | 0, _ => []
    | k + 1, l => if l.isEmpty then [] else l.take (max n 1) :: go k (l.drop (max n 1))
  go l.length l

/-! ## Bytes (R5) -/

/-- The number whose little-endian bytes these are. -/
def leNat : List Byte → Nat
  | [] => 0
  | b :: bs => b.toNat + 256 * leNat bs

/-- `n` little-endian bytes of a number. -/
def leBytes : Nat → Nat → List Byte
  | 0, _ => []
  | n + 1, v => BitVec.ofNat 8 v :: leBytes n (v / 256)

/-- `n` big-endian bytes of a number. -/
def beBytes (n v : Nat) : List Byte := (leBytes n v).reverse

/-- The number whose big-endian bytes these are. -/
def beNat (bs : List Byte) : Nat := leNat bs.reverse

/-- `n` bytes from offset `o`; bytes beyond the end read 0. -/
def slice (bs : List Byte) (o n : Nat) : List Byte :=
  let t := (bs.drop o).take n
  t ++ List.replicate (n - t.length) 0

/-- The number in `n` little-endian bytes at offset `o`. -/
def leAt (bs : List Byte) (o n : Nat) : Nat := leNat (slice bs o n)

/-- The list filled with 0x00 to `n` bytes. -/
def padTo (n : Nat) (bs : List Byte) : List Byte := bs ++ List.replicate (n - bs.length) 0

/-- Every byte is 0. -/
def allZero (bs : List Byte) : Bool := bs.all (· == 0)

/-- Bits `hi` to `lo` of a number (R6). -/
def bits (v hi lo : Nat) : Nat := (v >>> lo) % 2 ^ (hi + 1 - lo)

/-- Bit `i` of a number. -/
def bit (v i : Nat) : Bool := v.testBit i

/-- Bytes `o` to `o + n − 1` of a descriptor or control packet, as a number. -/
def field (d : BitVec 512) (o n : Nat) : Nat := bits d.toNat (8 * (o + n) - 1) (8 * o)

/-- Those bytes replaced by the low bytes of `v`. -/
def setField (d : BitVec 512) (o n v : Nat) : BitVec 512 :=
  let mask := (2 ^ (8 * n) - 1) <<< (8 * o)
  BitVec.ofNat 512 (((d.toNat ||| mask) ^^^ mask) ||| ((v % 2 ^ (8 * n)) <<< (8 * o)))

/-- Bits `lo` to `lo + n − 1` of a word replaced by `v`. -/
def setBits {w : Nat} (x : BitVec w) (lo n v : Nat) : BitVec w :=
  let mask := (2 ^ n - 1) <<< lo
  BitVec.ofNat w (((x.toNat ||| mask) ^^^ mask) ||| ((v % 2 ^ n) <<< lo))

/-- Saturating increment of a counter (the register maps' "saturating at"). -/
def satInc {w : Nat} (x : BitVec w) : BitVec w := if x = BitVec.allOnes w then x else x + 1

/-- ⌈a / b⌉. -/
def ceilDiv (a b : Nat) : Nat := (a + b - 1) / b

/-- A Bool as 0 or 1. -/
def b2n (b : Bool) : Nat := if b then 1 else 0

/-- A number that is a power of two in the range a ring's size allows (R392). -/
def ringSizeOk (n : Nat) : Bool := decide (16 ≤ n ∧ n ≤ 65536) && (n &&& (n - 1) == 0)

/-! ## Checksums -/

/-- One bit step of a reflected CRC register. -/
def crcBit (poly r : Nat) : Nat := (r >>> 1) ^^^ (if r % 2 = 1 then poly else 0)

/-- One byte step of a reflected CRC register. -/
def crcByte (poly : Nat) (r : Nat) (b : Byte) : Nat :=
  (List.range 8).foldl (fun r _ => crcBit poly r) (r ^^^ b.toNat)

/-- CRC-32C (R213): Castagnoli polynomial, reflected. -/
def crc32c (bs : List Byte) : BitVec 32 :=
  BitVec.ofNat 32 (bs.foldl (crcByte 0x82F63B78) 0xFFFFFFFF ^^^ 0xFFFFFFFF)

/-- CRC-8 of a TMARK (R278): polynomial 0x07, initial value 0, most significant bit first. -/
def crc8 (bs : List Byte) : Byte :=
  BitVec.ofNat 8 (bs.foldl (fun r b =>
    (List.range 8).foldl (fun r _ => ((r <<< 1) ^^^ (if r.testBit 7 then 0x07 else 0)) % 256)
      (r ^^^ b.toNat)) 0)

/-- The reflected ECMA-182 polynomial, P of R369. -/
def crc64Poly : Nat := 0xC96C5795D7870F42

/-- 64 ones. -/
def ones64 : Nat := 0xFFFFFFFFFFFFFFFF

/-- crc64xz of R369. -/
def crc64xz (bs : List Byte) : BitVec 64 :=
  BitVec.ofNat 64 (bs.foldl (crcByte crc64Poly) ones64 ^^^ ones64)

/-- lin of R369. -/
def crc64lin (bs : List Byte) : Nat := bs.foldl (crcByte crc64Poly) 0

/-- mulmod of R369. -/
def crcMul (a b : Nat) : Nat :=
  ((List.range 64).foldl (fun (s : Nat × Nat) i =>
    (if b.testBit (63 - i) then s.1 ^^^ s.2 else s.1, crcBit crc64Poly s.2)) (0, a)).1

/-- xpow8 of R369: x^(8t) mod P, over the 64 bits of t. -/
def crcPow8 (t : Nat) : Nat :=
  ((List.range 64).foldl (fun (s : Nat × Nat) i =>
    (if t.testBit i then crcMul s.1 s.2 else s.1, crcMul s.2 s.2))
    (0x8000000000000000, 0x0080000000000000)).1

/-- K(N) of R369: crc64xz of N zero bytes. -/
def crcK (n : Nat) : BitVec 64 := BitVec.ofNat 64 (crcMul ones64 (crcPow8 n) ^^^ ones64)

/-- placed(part) of R370: the part at byte offset `o` of a stream of `n` bytes. -/
def crcPlaced (n o : Nat) (part : List Byte) : BitVec 64 :=
  BitVec.ofNat 64 (crcMul (crc64lin part) (crcPow8 (n - o - part.length)))

end Sys2Proof.Machine
end

