-- ==== Sys2Proof/Machine/Flags.lean ====
section
/-!
DEFINITION. The sticky flags of a chunk (R71, R90, R225): NAN_IN, INF_IN, OVF, INVALID, FLUSHED, SAT in bits 0 to 5.
-/
namespace Sys2Proof.Machine

/-- The six sticky flags, in the bit order of R225. -/
abbrev Flags := BitVec 6

def fNone : Flags := 0
def fNanIn : Flags := 1
def fInfIn : Flags := 2
def fOvf : Flags := 4
def fInvalid : Flags := 8
def fFlushed : Flags := 16
def fSat : Flags := 32

/-- A flag that is set when a condition holds. -/
def fIf (c : Bool) (f : Flags) : Flags := if c then f else fNone

/-- The OR over a list of flags (R71, R91). -/
def fOr (l : List Flags) : Flags := l.foldl (· ||| ·) fNone

end Sys2Proof.Machine
end

