-- ==== Sys2Proof/Machine/Operands.lean ====
section
/-!
DEFINITION. Fields of descriptors and packets (Tables 7.5 to 7.11, 13.16), packets built with their CRC-32C (R213),
and the malformed-packet rules that need no state (R212, R236).
-/
namespace Sys2Proof.Machine

/-! ## Descriptors (Table 13.16) -/

def dOpcode (d : Desc) : Nat := field d 0 1
def dFlags (d : Desc) : Nat := field d 1 1
def dFence (d : Desc) : Bool := bit (dFlags d) 0
def dNoIrq (d : Desc) : Bool := bit (dFlags d) 1
def dCq (d : Desc) : Nat := field d 2 2
def dTag (d : Desc) : Nat := field d 4 4
def dGroup (d : Desc) : Nat := field d 8 3

/-- Bytes 8 to 63 outside the given (offset, size) fields are all 0, and flags bits 7:2 (R10, R398). -/
def dRsvdOk (d : Desc) (fields : List (Nat × Nat)) : Bool :=
  let rest := fields.foldl (fun d f => setField d f.1 f.2 0) d
  field rest 8 56 == 0 && bits (dFlags d) 7 2 == 0

/-- A module ID as `src` and `dst` carry it (Table 7.5). -/
def modAddr (label : Nat) : Nat := 0x8000 + label % 2048

/-! ## Packets (Tables 7.5 to 7.10) -/

def pType (p : Packet) : Nat := field p.hdr 0 1
def pIsCtl (p : Packet) : Bool := decide (0x40 ≤ pType p)
def pVl (p : Packet) : Nat := bits (field p.hdr 1 1) 2 0
def pEsc (p : Packet) : Bool := bit (field p.hdr 1 1) 3
def pEpoch (p : Packet) : Bool := bit (field p.hdr 1 1) 4
def pDst (p : Packet) : Nat := field p.hdr 2 2
def pSrc (p : Packet) : Nat := field p.hdr 4 2
/-- `dst_mod` of `dst`. -/
def pDstMod (p : Packet) : Bool := bit (pDst p) 15
def pSrcMod (p : Packet) : Bool := bit (pSrc p) 15
def pUnits (p : Packet) : Nat := bits (field p.hdr 6 2) 5 0
def pAflags (p : Packet) : BitVec 6 := BitVec.ofNat 6 (bits (field p.hdr 6 2) 11 6)
def pAttempt (p : Packet) : Nat := bits (field p.hdr 6 2) 15 12
def pInj (p : Packet) : Nat := field p.hdr 8 3
def pGroup (p : Packet) : Nat := field p.hdr 11 3
def pSeqLo (p : Packet) : Nat := field p.hdr 14 2
/-- `seq` of a PUT or GET_DATA. -/
def pFlowSeq (p : Packet) : Nat := field p.hdr 12 4
def pAddr (p : Packet) : Nat := field p.hdr 16 8
def pIncarn (p : Packet) : Nat := field p.hdr 24 2
def pCode (p : Packet) : Nat := field p.hdr 6 1
/-- Trailer fields (Table 7.7). -/
def pCtr (p : Packet) : Nat := bits p.trailer.toNat 47 32
def pNotify (p : Packet) : Bool := bit p.trailer.toNat 48
def pLast (p : Packet) : Bool := bit p.trailer.toNat 49
def pTrim (p : Packet) : Nat := bits p.trailer.toNat 57 50

/-- A packet's bytes in the stream (R211, R212). -/
def packetBytes (p : Packet) : List Byte :=
  if pIsCtl p then leBytes 64 p.hdr.toNat else leBytes 32 p.hdr.toNat ++ p.payload ++ leBytes 8 p.trailer.toNat

/-- A packet's size in bytes (R307). -/
def packetSize (p : Packet) : Nat := if pIsCtl p then 64 else 40 + 256 * pUnits p

/-- The packet that bytes spell. -/
def packetOf (bs : List Byte) : Packet :=
  if 0x40 ≤ leAt bs 0 1 then { hdr := BitVec.ofNat 512 (leAt bs 0 64), payload := [], trailer := 0 }
  else
    { hdr := BitVec.ofNat 512 (leAt bs 0 32)
      payload := (bs.drop 32).take (bs.length - 40)
      trailer := BitVec.ofNat 64 (leAt bs (bs.length - 8) 8) }

/-- The CRC-32C a packet must carry, byte 1 read as 0 (R213). -/
def crcOf (p : Packet) : Nat :=
  let h := setField p.hdr 1 1 0
  if pIsCtl p then (crc32c (leBytes 60 h.toNat)).toNat
  else (crc32c (leBytes 32 h.toNat ++ p.payload ++ leBytes 4 (p.trailer.toNat / 0x100000000))).toNat

/-- The CRC-32C a packet carries. -/
def crcIn (p : Packet) : Nat := if pIsCtl p then field p.hdr 60 4 else bits p.trailer.toNat 31 0

def crcOk (p : Packet) : Bool := crcIn p == crcOf p

/-- The packet with its CRC-32C computed. -/
def sealCrc (p : Packet) : Packet :=
  if pIsCtl p then { p with hdr := setField p.hdr 60 4 (crcOf p) }
  else { p with trailer := setBits p.trailer 0 32 (crcOf p) }

/-- `esc` and `epoch` set, as modules do hop by hop (R213, R243). -/
def stamp (p : Packet) (esc epoch : Bool) : Packet :=
  { p with hdr := setField p.hdr 1 1 (pVl p + 8 * b2n esc + 16 * b2n epoch) }

/-- The sub-lane of a packet (Table 7.4); none where `lane` names none. -/
def sublane (p : Packet) : Option Nat :=
  match pVl p, pEsc p with
  | 0, false => some 0
  | 1, e => some (1 + b2n e)
  | 2, e => some (3 + b2n e)
  | 3, false => some 5
  | 4, false => some 6
  | 5, e => some (7 + b2n e)
  | _, _ => none

/-- The VL of a sub-lane. -/
def vlOf (sub : Nat) : Nat :=
  match sub with
  | 0 => 0
  | 1 | 2 => 1
  | 3 | 4 => 2
  | 5 => 3
  | 6 => 4
  | _ => 5

/-- The sub-lanes of a VL, the adaptive one first. -/
def subsOf (vl : Nat) : List Nat :=
  match vl with
  | 0 => [0]
  | 1 => [1, 2]
  | 2 => [3, 4]
  | 3 => [5]
  | 4 => [6]
  | _ => [7, 8]

/-- VLs with an adaptive and an escape sub-lane (R247). -/
def adaptiveVl (vl : Nat) : Bool := vl == 1 || vl == 2 || vl == 5

/-! ## Packet types (Table 7.11) -/

/-- The VLs a type may travel on, its level, and whether an endpoint may send it; none for an unassigned type. -/
def typeRow (t : Nat) : Option (List Nat × Nat × Bool) :=
  match t with
  | 0x01 => some ([1, 5], 1, true)
  | 0x02 => some ([2], 1, true)
  | 0x10 => some ([3], 1, true)
  | 0x11 => some ([4], 1, false)
  | 0x12 => some ([3], 2, true)
  | 0x13 => some ([4], 2, false)
  | 0x40 => some ([0], 1, true)
  | 0x41 | 0x42 => some ([2], 1, true)
  | 0x43 => some ([1], 1, true)
  | 0x44 => some ([1], 1, true)
  | 0x45 => some ([2], 1, false)
  | 0x48 => some ([0], 1, false)
  | 0x49 => some ([0], 1, true)
  | 0x4A | 0x4B => some ([0], 1, false)
  | 0x4C => some ([3], 1, true)
  | 0x4D => some ([4], 1, false)
  | 0x50 | 0x51 | 0x52 | 0x53 | 0x54 | 0x55 | 0x56 => some ([0], 1, false)
  | 0x58 | 0x59 => some ([0], 3, false)
  | _ => none

/-- Header bytes (offset, size) that are reserved, by type (Tables 7.6, 7.9, 7.10). Byte 6 of a control packet is `code`, which
Table 7.8 gives as 0 in a type that carries none and does not call rsvd: the model counts it with the reserved bytes there, but
not in an E_ACK, whose Table 7.9 row shares E_NACK's (DESIGN CHOICE, log entry 97). -/
def rsvdFields (t : Nat) : List (Nat × Nat) :=
  match t with
  | 0x01 | 0x02 => [(11, 1), (26, 6)]
  | 0x10 => []
  | 0x11 => [(30, 2)]
  | 0x12 | 0x13 => [(30, 2)]
  | 0x40 => [(6, 2), (30, 2), (45, 15)]
  | 0x41 | 0x42 => [(7, 1), (19, 41)]
  | 0x43 => [(6, 2), (30, 30)]
  | 0x44 => [(6, 2), (10, 2), (24, 36)]
  | 0x45 => [(7, 1), (10, 2), (24, 36)]
  | 0x48 => [(6, 2), (20, 40)]
  | 0x49 => [(6, 2), (21, 1), (26, 34)]
  | 0x4A => [(6, 2), (20, 40)]
  | 0x4B => [(7, 1), (40, 20)]
  | 0x4C => [(6, 2), (24, 36)]
  | 0x4D => [(6, 2), (11, 1), (16, 44)]
  | 0x50 => [(6, 2), (11, 5), (24, 36)]
  | 0x51 | 0x53 => [(7, 1), (11, 49)]
  | 0x52 => [(6, 2), (11, 49)]
  | 0x54 => [(6, 2), (36, 24)]
  | 0x55 => [(6, 2), (11, 49)]
  | 0x56 => [(6, 2), (11, 1), (28, 32)]
  | _ => [(6, 2), (12, 4), (24, 36)]

/-- Reserved bits that share a byte with a field. -/
def rsvdBits (p : Packet) : Bool :=
  let t := pType p
  bits (field p.hdr 1 1) 7 5 != 0 ||
  (!pIsCtl p && bits p.trailer.toNat 63 58 != 0) ||
  (t == 0x10 && bits (field p.hdr 22 2) 15 14 != 0) ||
  (t == 0x40 && (bits (field p.hdr 44 1) 7 1 != 0 || (List.range 8).any fun k => bits (field p.hdr (12 + 2 * k) 2) 15 11 != 0)) ||
  ((t == 0x4A || t == 0x4C) && bits (field p.hdr 11 1) 7 4 != 0) ||
  (t == 0x58 && bits (field p.hdr 11 1) 7 1 != 0) || (t == 0x59 && field p.hdr 11 1 != 0)

/-- The causes of Table 7.13, numbered 1 to 7 in its order, but for those that need a group; 0 when well formed.
`fromEp`: received on an endpoint port; `level`: of the port; `maxPay`: of the receiver. -/
def malformed (p : Packet) (fromEp : Bool) (level maxPay : Nat) : Nat :=
  match typeRow (pType p) with
  | none => 1
  | some (vls, lv, ep) =>
    if (fromEp && !ep) || decide (level < lv) then 1
    else if !vls.contains (pVl p) || (pEsc p && !adaptiveVl (pVl p)) then 2
    else if (rsvdFields (pType p)).any (fun f => field p.hdr f.1 f.2 != 0) || rsvdBits p then 3
    else if !pIsCtl p && (pUnits p == 0 || decide (32 < pUnits p) || decide (maxPay < pUnits p)) then 4
    else if (pDstMod p && bits (pDst p) 14 11 != 0) || (pSrcMod p && bits (pSrc p) 14 11 != 0) ||
        (decide (pType p ≤ 2) && bits (field p.hdr 6 2) 15 6 != 0) then 5
    else if !pIsCtl p && pTrim p != 0 && !pLast p then 6
    else 0

/-! ## Building packets -/

/-- A control packet from its type, VL, destination, source and fields (offset, size, value). -/
def ctlPacket (t vl dst src : Nat) (fs : List (Nat × Nat × Nat)) : Packet :=
  let h := fs.foldl (fun h f => setField h f.1 f.2.1 f.2.2)
    (setField (setField (setField (setField 0 0 1 t) 1 1 vl) 2 2 dst) 4 2 src)
  sealCrc { hdr := h, payload := [], trailer := 0 }

/-- A data packet from its type, VL, destination, source, flags, attempt, injection time, header fields, payload (whole
256 B units), `last` and `trim`, and `ctr` and `notify`. -/
def dataPacket (t vl dst src : Nat) (aflags : BitVec 6) (attempt now : Nat) (fs : List (Nat × Nat × Nat))
    (payload : List Byte) (last : Bool) (trim : Nat) (notify : Option Nat) : Packet :=
  let info := payload.length / 256 + 64 * aflags.toNat + 4096 * attempt
  let h := fs.foldl (fun h f => setField h f.1 f.2.1 f.2.2)
    (setField (setField (setField (setField (setField (setField 0 0 1 t) 1 1 vl) 2 2 dst) 4 2 src) 6 2 info)
      8 3 (now / 256))
  let c := notify.getD 0 + 65536 * b2n notify.isSome + 131072 * b2n last + 262144 * trim
  sealCrc { hdr := h, payload := payload, trailer := BitVec.ofNat 64 (c * 0x100000000) }

/-- `inj_time` set to the time of a new sending (R214). -/
def reInject (p : Packet) (now : Nat) : Packet :=
  if pIsCtl p then p else sealCrc { p with hdr := setField p.hdr 8 3 (now / 256) }

/-- A byte stream filled to whole units and cut into packets' payloads: offset in units, payload, `last`, `trim`
(R223, R224). At least one unit is sent only where there is a byte. -/
def cutStream (units : Nat) (bs : List Byte) : List (Nat × List Byte × Bool × Nat) :=
  let n := ceilDiv bs.length 256
  let filled := padTo (256 * n) bs
  let cs := chunksOf (256 * max 1 units) filled
  cs.mapIdx fun i c =>
    let last := i + 1 == cs.length
    (i * max 1 units, c, last, if last then 256 * n - bs.length else 0)

/-- Serial order of 16-bit numbers: a is newer than b. -/
def newer16 (a b : Nat) : Bool :=
  let d := (a + 65536 - b % 65536) % 65536
  decide (0 < d ∧ d < 32768)

/-- The 32-bit sequence number nearest `near` whose low 16 bits are `lo`. -/
def expandSeq (near lo : Nat) : Nat :=
  let d := (lo + 65536 - near % 65536) % 65536
  if d < 32768 then (near + d) % 2 ^ 32 else (near + 2 ^ 32 + d - 65536) % 2 ^ 32

end Sys2Proof.Machine
end

