-- ==== Sys2Proof/Config.lean ====
section
/-!
DEFINITION. What an assembled module fixes (ordering configuration, identity, boot ROM keys) and the free values:
values the manual leaves open, which no proof can see. State.reset takes its flash from here.
-/
namespace Sys2Proof

/-- The four ordering configurations (R1, Table 0.1), with their MODULE_INFO codes (Table 13.4) in order. -/
inductive PartConfig where
  | b2s2
  | b2s4
  | b4s4
  | b4s6
  deriving DecidableEq, Repr, Inhabited

/-- Bridges of a configuration (Table 0.1). -/
def PartConfig.bridges : PartConfig → Nat
  | .b2s2 | .b2s4 => 2
  | .b4s4 | .b4s6 => 4

/-- Skeins of a configuration (Table 0.1). -/
def PartConfig.skeins : PartConfig → Nat
  | .b2s2 => 2
  | .b2s4 | .b4s4 => 4
  | .b4s6 => 6

/-- The `config` code of MODULE_INFO (Table 13.4). -/
def PartConfig.code : PartConfig → Nat
  | .b2s2 => 0
  | .b2s4 => 1
  | .b4s4 => 2
  | .b4s6 => 3

/-- Maximum input power in W (Table 0.1). -/
def PartConfig.maxPower : PartConfig → Nat
  | .b2s2 => 520
  | .b2s4 => 640
  | .b4s4 => 860
  | .b4s6 => 950

/-- The identity record of the boot flash (Table 14.1, R426), with its CRC-32C (R419). The manual gives the record's fields and no
layout of them (log entry 63). -/
structure IdentityRecord where
  serial    : BitVec 64
  config    : PartConfig
  gradeH    : Bool
  seed      : BitVec 256
  publicKey : BitVec 256
  cert      : BitVec 512
  crc       : BitVec 32
  deriving DecidableEq, Repr, Inhabited

/-- A boot control record (R415), with its CRC-32C. -/
structure BootControl where
  generation : BitVec 32
  preferred  : Bool        -- false A, true B
  trialSlot  : BitVec 8    -- 0, 1, or 0xFF for none
  trialTries : Bool
  floor      : BitVec 32
  crc        : BitVec 32
  deriving DecidableEq, Repr, Inhabited

/-- The boot flash (Table 14.1): the two copies of each record and the two image slots, as bytes. With it stand the two
public signing keys of the boot ROM (R417), which like the flash outlast every reset, and which nothing writes. -/
structure Flash where
  romKey0  : BitVec 256
  romKey1  : BitVec 256
  identity : IdentityRecord
  ctrl0    : BootControl
  ctrl1    : BootControl
  prot0    : List Byte
  prot1    : List Byte
  slotA    : List Byte
  slotB    : List Byte
  deriving DecidableEq, Repr, Inhabited

/-- FREE VALUE: what the boot flash of a module holds when it is first powered: its manufacture, its images and
its protection block (Table 14.1), and the keys of its boot ROM. The manual gives no module's contents and prints no key (log entry 2). -/
opaque Config.flash : Flash

/-- FREE VALUE: the rate of the clockless core in the n-th fabric tick since reset, in hundredths of a handshake a tick (R22
gives only a range, which the model keeps it in; log entry 2). -/
opaque Config.rate : Nat → Nat

/-- FREE VALUE: the rate to which the throttles that are engaged hold the core in the n-th tick (R39, R446; log entry 2). -/
opaque Config.throttledRate : Nat → Nat

/-- FREE VALUE: the voltage at which the headstock holds the core rail in the n-th tick, in mV (R22, R446 give its window; log entry
2). -/
opaque Config.coreVoltage : Nat → Nat

/-- FREE VALUE: the handshakes of the n-th tick in which the stitch on the needle bed waits at the front and at the back
(Table 15.1 names what it waits for, and no rule says when that comes; log entry 4). -/
opaque Config.stitchWaits : Nat → Nat × Nat

/-- FREE VALUE: columns that a last wave of n elements falls on (R31 leaves the distribution open); the model keeps it
between the fewest and the most that can hold them (log entry 2). -/
opaque Config.columnsUsed : Nat → Nat

/-- FREE VALUE: the hanks at which a skein error is corrected in the n-th fabric tick since reset, one entry an error (R36 says
what a corrected error does and no rule when one occurs; log entry 79). -/
opaque Config.corrected : Nat → List Nat

/-- FREE VALUE: headstock cores that serve the watchdog in the n-th tick (R20: the firmware's; log entry 109). -/
opaque Config.services : Nat → List Nat

/-- What a byte-parity error, or an uncorrectable word of the on-die buffer, strikes (R33, Table 1.6). -/
inductive DataFault where
  | cell (pool index : Nat)     -- a cell of the on-die buffer, which is poisoned
  | queued (port sub : Nat)     -- the packet at the head of a port's queue
  | inbox                       -- the oldest packet delivered to this module
  | operand                     -- an operand of the stitch that runs
  deriving DecidableEq, Repr, Inhabited

/-- FREE VALUE: the data errors detected in the n-th fabric tick since reset (R33 says what each does and no rule when one occurs;
log entry 104). -/
opaque Config.dataFaults : Nat → List DataFault

/-- FREE VALUE: SECDED errors of the on-die buffer and the headstock's SRAM corrected in the n-th tick (R36; log entry 105). -/
opaque Config.correctedWords : Nat → Nat

/-- FREE VALUE: whether a packet whose last word comes by a port in the n-th tick had begun to leave by cut-through (R29 says
which packets may, and no rule which do; log entry 95). -/
opaque Config.cutThrough : Nat → Nat → Bool

/-- FREE VALUE: `seq` of a group's REDUCE_APPLY of a step, in the report of a module at which it has not been posted (R337, R345;
log entry 110). -/
opaque Config.unpostedSeq : Nat → Nat → Nat

/-- FREE VALUE: the `arg0` by which a RING_ERROR event names the sample ring (Table 13.23 names SQs and CQs; log entry 7). -/
opaque Config.sampleRingName : Nat

/-- FREE VALUE: the `arg0` by which a RING_ERROR event names the dump ring (Table 13.23 names SQs and CQs; log entry 7). -/
opaque Config.dumpRingName : Nat

/-- FREE VALUE: whether a write of a dump record in the n-th tick fails on PCI Express (R437 says what it does then and no rule when
one fails; log entry 112). -/
opaque Config.dumpWriteFails : Nat → Bool

/-- FREE VALUE: error status that a failed read sets in Advanced Error Reporting in the n-th tick (Table 13.1 names the capability
alone; log entry 10). -/
opaque Config.aerStatus : Nat → BitVec 32

/-- FREE VALUE: whether the flash fails a write or a read-back of a STAGE in the n-th tick (Table 14.4 gives the result and no rule
when it occurs; log entry 8). -/
opaque Config.flashFails : Nat → Bool

/-- FREE VALUE: which of a group's free units of staging hanks a buffer takes (R141 lays buffers out in units of 16 KiB and gives no
order; log entry 78). -/
opaque Config.stagingUnit : List Nat → Nat

end Sys2Proof
end

