-- ==== Sys2Proof/Machine/State.lean ====
section
/-!
DEFINITION. The state of one KX9 module as plain data: every register, table, memory, queue, buffer and pin the
manual gives it, at its reset value, and the queue of waiting commands. Each field's comment names the rule that
gives it; a field without a reset value of the manual's own says which log entry names one. Grouped fields are
structures whose default values are the values after reset (R14). Ticks are fabric ticks of 0.8 ns (R9).
-/
namespace Sys2Proof.Machine

/-- No command faults: the manual gives every command an effect in every state, be it none. Nothing raises a fault,
so the type has no constructor; a claim that no fault happens is true by construction and says nothing (safe). -/
inductive Fault where
  deriving DecidableEq, Repr

/-- Why the machine has no meaning for a command. -/
inductive Refusal where
  /-- Raised by an arm of `exec` whose meaning is not yet written; safe, since the machine stops. -/
  | notModelled (mnemonic : String)
  deriving DecidableEq, Repr

/-! ## Salpor rings (chapter 13) -/

/-- A taken command that has not completed (R394): what its completion entry repeats, and whether its completion
was discarded (R389, R397). -/
structure Tok where
  id      : Nat
  sq      : BitVec 8
  cq      : BitVec 8
  tag     : BitVec 32
  opcode  : BitVec 8
  sqHead  : BitVec 16
  noIrq   : Bool
  dead    : Bool
  deriving DecidableEq, Repr, Inhabited

/-- A submission ring (Tables 13.9 to 13.11, R391 to R397). -/
structure Sq where
  /-- SQ_BASE_n `base`, bits 63:12 of the host address (R391, 13_host_interface.md). -/
  base    : BitVec 64 := 0
  /-- SQ_CTRL_n `enable` (R392). -/
  enable  : Bool := false
  /-- SQ_CTRL_n `weight` (R392). -/
  weight  : BitVec 4 := 1
  /-- SQ_CTRL_n `size` (R392). -/
  size    : BitVec 17 := 0
  /-- SQ_STATUS_n `err` (Table 13.15). -/
  err     : BitVec 8 := 0
  /-- SQ_STATUS_n `stalled` (R394). -/
  stalled : Bool := false
  /-- SQ_STATUS_n `active` (R392, R397). -/
  active  : Bool := false
  /-- SQ_STATUS_n `head` (R394). -/
  head    : BitVec 16 := 0
  /-- The tail the host last named (R393). -/
  tail    : BitVec 16 := 0
  /-- The head descriptor was read and could not be taken: its fence flag and its completion ring (R394). -/
  headWait : Option (Bool × Nat) := none
  deriving DecidableEq, Repr

/-- A completion ring (Tables 13.12 to 13.14, R391 to R397). -/
structure Cq where
  /-- CQ_BASE_n `base` (R391). -/
  base     : BitVec 64 := 0
  /-- CQ_CTRL_n `enable` (R392). -/
  enable   : Bool := false
  /-- CQ_CTRL_n `event` (R404). -/
  event    : Bool := false
  /-- CQ_CTRL_n `irq_en` (R396). -/
  irqEn    : Bool := false
  /-- CQ_CTRL_n `vector` (R390). -/
  vector   : BitVec 11 := 0
  /-- CQ_CTRL_n `mod_count` (R396). -/
  modCount : BitVec 8 := 1
  /-- CQ_CTRL_n `mod_time`, in µs (R396). -/
  modTime  : BitVec 16 := 0
  /-- CQ_CTRL_n `size` (R392). -/
  size     : BitVec 17 := 0
  /-- CQ_STATUS_n `err` (Table 13.15). -/
  err      : BitVec 8 := 0
  /-- CQ_STATUS_n `active` (R392). -/
  active   : Bool := false
  /-- CQ_STATUS_n `tail`: the next entry to be written (R395). -/
  tail     : BitVec 16 := 0
  /-- The next entry the host has not consumed (R393). -/
  head     : BitVec 16 := 0
  /-- The pass of the ring is odd, so its phase bit is 0 (R395). -/
  oddPass  : Bool := false
  /-- Entries reserved for taken commands (R394). -/
  reserved : Nat := 0
  /-- Entries due but not yet written, while `bme` or `rings_en` is 0 (R388): each with whether it is an event and
  whether it is counted for an interrupt (R396). -/
  waiting  : List (BitVec 512 × Bool × Bool) := []
  /-- Entries counted since the last interrupt message (R396). -/
  sinceIrq : Nat := 0
  /-- When the first of them was written (R396). -/
  irqStart : Option Nat := none
  deriving DecidableEq, Repr

/-- The sample ring (R410). -/
structure SampleRing where
  base    : BitVec 64 := 0
  enable  : Bool := false
  size    : BitVec 17 := 0
  err     : BitVec 8 := 0
  active  : Bool := false
  tail    : BitVec 16 := 0
  head    : BitVec 16 := 0
  oddPass : Bool := false
  deriving DecidableEq, Repr

/-- One MSI-X vector (R390): its mask bit and its pending bit. The table is cleared by an interface reset. The PCI
Express specification has every vector masked after reset (PRESUMED, log entry 10). -/
structure MsixVec where
  masked  : Bool := true
  pending : Bool := false
  deriving DecidableEq, Repr

/-- Configuration space of the function (Tables 13.1, 13.2, R383, R385, R390). Where the manual leaves a field to the host it starts
as the PCI Express specification has it (PRESUMED, log entry 10). -/
structure Pcie where
  vendorId   : BitVec 16 := 0x1F3A
  deviceId   : BitVec 16 := 0x0939
  classCode  : BitVec 24 := 0x120000
  revisionId : BitVec 8 := 0x11
  /-- Max payload size and max read request size, 128 B × 2 ^ code. -/
  maxPayload : BitVec 3 := 0
  maxRead    : BitVec 3 := 2
  /-- Base addresses: BAR0 of 64 MiB, BAR2 of 64 KiB, both 64-bit memory. -/
  bar0       : BitVec 64 := 0
  bar2       : BitVec 64 := 0
  /-- MSI-X Enable and Function Mask (R390). -/
  msixEnable : Bool := false
  msixMask   : Bool := false
  /-- Power state D3hot. -/
  d3hot      : Bool := false
  /-- Advanced Error Reporting: errors seen. -/
  aer        : BitVec 32 := 0
  deriving DecidableEq, Repr

/-- The host interface (chapter 13). -/
structure HostIf where
  /-- HOST_CTRL `rings_en` (Table 13.7). -/
  ringsEn     : Bool := false
  /-- HOST_STATUS `bme`, Bus Master Enable of configuration space (Table 13.8, R388). -/
  bme         : Bool := false
  /-- The rest of configuration space (R383, R385, R390). -/
  pcie        : Pcie := {}
  /-- The submission ring whose turn it is, and the descriptors left in its turn (R394); from 255 on, ring 0 comes next. -/
  turn        : Nat := 255
  turnLeft    : Nat := 0
  /-- HOST_STATUS `fw_ready` (Table 13.8). -/
  fwReady     : Bool := false
  /-- HOST_STATUS `event_lost` (Table 13.8, R404). -/
  eventLost   : BitVec 16 := 0
  /-- Events lost for want of an entry since the last event record (R404). -/
  lostSince   : BitVec 16 := 0
  /-- The submission rings 0 to 255 (R391). -/
  sqs         : Table Sq := []
  /-- The completion rings 0 to 255 (R391). -/
  cqs         : Table Cq := []
  /-- The sample ring (R410). -/
  sample      : SampleRing := {}
  /-- The MSI-X vectors 0 to 2,047 (R390). -/
  msix        : Table MsixVec := []
  /-- Words of the MSI-X table in BAR0 other than a vector's mask bit, by offset in the table (Table 13.3). -/
  msixTable   : Table (BitVec 32) := []
  /-- High halves latched by 32-bit reads of low halves, by register offset (R13). -/
  readLatch   : Table (BitVec 32) := []
  /-- Low halves held by 32-bit writes until the high half is written, by register offset (R13). -/
  writeHold   : Table (BitVec 32) := []
  /-- Commands taken and not completed (R394, R397). -/
  outstanding : List Tok := []
  /-- The number the next taken command gets; the model's own, to tell commands apart. -/
  nextTok     : Nat := 0
  deriving DecidableEq, Repr

/-! ## Row counters (R405, R406, R233) -/

/-- A host waiter on a row counter (R406). -/
structure HostWaiter where
  tok       : Tok
  row       : BitVec 16
  threshold : BitVec 64
  deriving DecidableEq, Repr

/-- An endpoint waiter on a row counter (R233). -/
structure EpWaiter where
  src       : BitVec 16
  row       : BitVec 16
  tag       : BitVec 32
  threshold : BitVec 64
  deriving DecidableEq, Repr

/-- The row counters and their waiters. -/
structure Rows where
  /-- The 65,536 row counters, 64 bits each; 0 after module reset (R405). -/
  value   : Table (BitVec 64) := []
  /-- Host waiters, oldest first; at most 4,096 (R406). -/
  hostW   : List HostWaiter := []
  /-- Endpoint waiters, oldest first; at most 16,384 (R233). -/
  epW     : List EpWaiter := []
  deriving DecidableEq, Repr

/-! ## Program store (R97 to R100, R127 to R130) -/

/-- A resident program image: its 64-byte header, its instruction words and its SHA-512 digest. -/
structure Image where
  header : BitVec 512
  words  : List (BitVec 32)
  digest : BitVec 512
  deriving DecidableEq, Repr, Inhabited

/-- A program slot: its image, if any, and its bind count (Table 4.1: EMPTY, LOADED and BOUND follow from them). -/
structure Slot where
  image : Option Image := none
  binds : Nat := 0
  deriving DecidableEq, Repr

/-! ## Cell pools (R165 to R174) -/

/-- One cell pool (R168, R172, R173). The free stack is `stack`, and below it the cells from `fresh` on that no pop
has yet returned, in rising index. -/
structure Pool where
  cells    : Nat := 0
  stack    : List Nat := []
  fresh    : Nat := 0
  /-- `held` of R168: cells reserved and not in use. -/
  held     : Nat := 0
  /-- State bits of R173: the cells allocated. -/
  used     : List Nat := []
  /-- POOL_EMPTY refusals (R170, Table 15.12). -/
  refused  : BitVec 48 := 0
  deriving DecidableEq, Repr

/-- A buffer of a group (R141, R168, R174): its group, its cells as (pool, cell) pairs (none in staging hanks), its reference
count, and its units of 16 KiB in the group's staging hanks, 128 a hank, in the order of its bytes (none in cells). -/
structure Buffer where
  group : Nat
  cells : List (Nat × Nat)
  refs  : Nat
  units : List Nat := []
  deriving DecidableEq, Repr, Inhabited

/-- The on-die buffer (R165 to R174). -/
structure Pools where
  /-- POOL_CARVE_n `cells` as the host last wrote them, before the carve is applied (Table 6.2). -/
  carve   : List (BitVec 21) := [65536, 32768, 16384, 17408]
  /-- The carve has been applied (R166). -/
  applied : Bool := false
  /-- POOL_CARVE_n `carve_err` (Table 6.2). -/
  err     : Bool := false
  pools   : List Pool := [{}, {}, {}, {}]
  /-- BUFFER_DOUBLE_FREE count (R173, Table 15.12). -/
  doubleFree : BitVec 48 := 0
  /-- The groups' buffers in use, by number (R168, R174). -/
  buffers : Table Buffer := []
  /-- The number of the next buffer; the model's own, to tell buffers apart. -/
  nextBuf : Nat := 0
  deriving DecidableEq, Repr

/-! ## Hanks and skein memory (R175 to R179) -/

/-- The states of a hank (Table 6.3). -/
inductive HankState where
  | free
  | firmware
  | staging
  | shard
  | sympathetic
  | snapshot
  | retired
  deriving DecidableEq, Repr, Inhabited

/-- Skein memory. -/
structure Skein where
  /-- The state of each hank, by hank ID (R175, R176); FREE where not listed. -/
  hanks    : Table HankState := []
  /-- Skein bytes, keyed by hank ID × 2 MiB + offset: rising addresses, no byte that reads 0 listed. A byte never
  written reads 0 (log entry 12). -/
  mem      : List Host.Cell := []
  /-- The ordinal of R178: arrays allocated since firmware start. -/
  ordinal  : Nat := 0
  /-- Arrays placed off their skein (R178, Table 15.12). -/
  offSkein : BitVec 32 := 0
  /-- Hanks of the endpoint windows (R425), by window base in units of 2 MiB. -/
  windows  : Table (List Nat) := []
  /-- Protected hanks whose copy is under way, and mirror PUTs that wait for a copy (R189). -/
  copying  : List Nat := []
  waitPuts : List Packet := []
  deriving DecidableEq, Repr

/-! ## Groups (chapters 5 and 6) -/

/-- A rank table entry (Table 5.3). -/
structure Rank where
  endpoint : Nat
  leafPos  : Nat
  outSel   : Nat
  deriving DecidableEq, Repr, Inhabited

/-- A node table entry (Table 5.4). -/
structure Node where
  moduleId  : Nat
  level     : Nat
  slotLevel : Nat
  index     : Nat
  deriving DecidableEq, Repr, Inhabited

/-- A shard table entry (Table 6.5). -/
structure ShardEntry where
  owner     : Nat
  partner   : Nat
  firstSpan : Nat
  base      : Nat
  count     : Nat
  spanCount : Nat
  deriving DecidableEq, Repr, Inhabited

/-- A span entry (Table 6.6). -/
structure Span where
  base  : Nat
  count : Nat
  deriving DecidableEq, Repr, Inhabited

/-- A group record and its tables (Tables 5.2 to 5.4, 6.4 to 6.6). -/
structure Record where
  groupId      : Nat := 0
  firstSeq     : Nat := 0
  seed         : Nat := 0
  dwellLimit   : Nat := 0
  maxChunk     : Nat := 0
  window       : Nat := 0
  opsMask      : Nat := 0
  workFmt      : Nat := 0
  arrival      : Bool := false
  staging      : Nat := 0
  reduceSlot   : Nat := 0
  mapSlot      : Nat := 0
  applySlot    : Nat := 0
  retryLimit   : Nat := 0
  outFmt       : List Nat := []
  outCount     : Nat := 0
  castOnLimit  : Nat := 0
  rowBase      : Nat := 0
  rowCount     : Nat := 0
  hankCount    : Nat := 0
  reduceDigest : Nat := 0
  mapDigest    : Nat := 0
  applyDigest  : Nat := 0
  ranks        : List Rank := []
  nodes        : List Node := []
  totalElems   : Nat := 0
  stateFmts    : List Nat := []   -- `state_fmt0` to `state_fmt2`; 0xFF absent; empty without REDUCE_APPLY
  shards       : List ShardEntry := []
  spans        : List Span := []
  deriving DecidableEq, Repr, Inhabited

/-- What has arrived of one chunk byte stream (R159, R224): packets recorded, as offset in 256 B units and payload; the
OR of their flags; whether every unit is there. -/
structure SlotBuf where
  parts : List (Nat × List Byte) := []
  flags : BitVec 6 := 0
  full  : Bool := false
  deriving DecidableEq, Repr, Inhabited

/-- A chunk buffer outside the stitch contexts (R146, R151): what it is for is `kind`: 0 a forwarded chunk in slot
`slot`, 1 a result from the parent in format `fmt`, 2 and 3 an all-to-all chunk up and down. `cells` is the number of the
buffer that its bytes lie in (R174). -/
structure PartBuf where
  kind  : Nat
  seq   : Nat
  chunk : Nat
  slot  : Nat := 0
  fmt   : Nat := 0
  src   : Nat := 0
  dst   : Nat := 0
  buf   : SlotBuf := {}
  cells : Option Nat := none
  deriving DecidableEq, Repr, Inhabited

/-- Where a stitch context stands. -/
inductive CtxStage where
  | filling   -- awaits slots
  | queued    -- dispatched to the needle bed's queue
  | running   -- on the needle bed
  | done      -- its result is out
  deriving DecidableEq, Repr, Inhabited

/-- A stitch context of a node instance (R141, R158, R159). -/
structure Ctx where
  seq     : Nat
  chunk   : Nat
  attempt : Nat
  slots   : List SlotBuf
  /-- When the dwell timer started (R158); none before the first packet. -/
  start   : Option Nat := none
  /-- Slots in the order in which they became full, each with the tick (R83). -/
  order   : List (Nat × Nat) := []
  stage   : CtxStage := .filling
  spare   : Bool := false
  /-- The numbers of its slot and result buffers (R141, R174). -/
  bufs    : List Nat := []
  deriving DecidableEq, Repr, Inhabited

/-- A node instance at this module (R134, R135, R146). -/
structure Inst where
  node     : Nat
  /-- The shard index, for an instance of the per-shard root (R135). -/
  shard    : Option Nat := none
  /-- The window base: (`seq`, chunk) of the lowest chunk with work not completed (R146). -/
  baseSeq   : Nat
  baseChunk : Nat := 0
  /-- Chunks at or above the base that are complete. -/
  doneAbove : List (Nat × Nat) := []
  ctxs     : List Ctx := []
  /-- Buffers of forwarded chunks, of results on their way down and of all-to-all chunks. -/
  bufs     : List PartBuf := []
  /-- Chunks forwarded up: (`seq`, chunk) (R151). -/
  passed   : List (Nat × Nat) := []
  /-- Retries that wait for the spare context: (`seq`, chunk, attempt) (R160, R375). -/
  retries  : List (Nat × Nat × Nat) := []
  /-- Chunk attempts known to be dropped: (`seq`, chunk, attempt) (R160). -/
  aborted  : List (Nat × Nat × Nat) := []
  /-- The newest window base received from the parent instance, by its module (R226, R135). -/
  parentBase : Table (Nat × Nat) := []
  /-- The newest down base received from each slot whose input is a node instance, and the one last sent to the parent
  (R226). -/
  downBase : Table (Nat × Nat) := []
  ownDown  : Option (Nat × Nat) := none
  /-- A pause holds back the GCREDIT owed to the senders (R163, R226). -/
  creditDue : Bool := false
  /-- And the down credit owed to the parent. -/
  downDue   : Bool := false
  /-- The base and `done` bits of a restored image, placed as operations are posted again (R376). -/
  restored  : Option (Nat × Nat × BitVec 64) := none
  deriving DecidableEq, Repr, Inhabited

/-- A transfer held until its receiver acknowledges it (R155, R227). -/
structure Transfer where
  /-- The sending instance. -/
  node     : Nat
  shard    : Option Nat := none
  seq      : Nat
  chunk    : Nat
  attempt  : Nat := 0
  /-- 0 up, 1 down, 2 all-to-all (Table 7.9, TACK `dir`). -/
  dir      : Nat
  fmt      : Nat := 0
  /-- The sending slot of a transfer down; the receiving slot of a transfer up. -/
  slot     : Nat := 0
  srcRank  : Nat := 0
  dstRank  : Nat := 0
  /-- The receiving node instance; none for an endpoint. -/
  dest     : Option Nat := none
  /-- Destination, as a packet names it. -/
  dst      : Nat
  packets  : List Packet
  /-- It has been sent, not kept back by the receiver's window (R226) or for want of a buffer (R169). -/
  sent     : Bool := false
  /-- When the last of its packets to leave left, on the port of an endpoint (R227). -/
  sentAt   : Option Nat := none
  /-- The buffer that holds it, and the holder it counts as there: a logical port, or 128 and up a node instance here
  (R174). -/
  buf      : Option Nat := none
  via      : Nat := 0
  deriving DecidableEq, Repr, Inhabited

/-- One span's horizontal accumulators during an operation (R122, R123). Each phase of a program has its own (log entry 90). -/
structure SpanAcc where
  shard : Nat
  span  : Nat
  phase : Nat := 1
  /-- The next chunk whose block results are to be added. -/
  next  : Nat
  /-- The last chunk of the span. -/
  last  : Nat
  /-- Block results kept until their turn: chunk, and per accumulator the block results in order. -/
  kept  : List (Nat × List (List Nat)) := []
  /-- Accumulated values, FP32 codes. -/
  acc   : List (Option Nat) := [none, none, none, none]
  deriving DecidableEq, Repr, Inhabited

/-- A chunk of an APPLY whose phase is not complete at its end (R123, R124): the phase, the reduced gradient, the chunk's
flags, and the fabric time its stitch began (R114). -/
structure HeldChunk where
  chunk : Nat
  phase : Nat
  input : List Byte
  flags : BitVec 6
  time  : BitVec 64
  deriving DecidableEq, Repr, Inhabited

/-- An accepted operation of a group (R143, R157). -/
structure Op where
  seq       : Nat
  op        : Nat
  desc      : Desc
  params    : List Nat := []
  tok       : Tok
  /-- It is a SHARD_RESEND (R358), whose `seq` is the restore step's and whose counter is `row`. -/
  resend    : Option Nat := none
  /-- It has completed here already; a chunk that only goes up from here is made again after a late CHUNK_ABORT (R160). -/
  again     : Bool := false
  /-- Its chunks (R145). -/
  chunks    : Nat
  /-- Chunks complete here, failed here, folded into the digest and applied (R154, R156, R161, R372). -/
  complete  : List Nat := []
  failed    : List Nat := []
  folded    : List Nat := []
  applied   : List Nat := []
  /-- The flags of each chunk applied here, which go down with its result whenever that is multicast (R71). -/
  chunkFlags : Table (BitVec 6) := []
  /-- (node, shard, chunk, format) results sent down by an instance here (R156). -/
  downDone  : List (Nat × Option Nat × Nat × Nat) := []
  /-- (chunk, attempt) above 0 started here (Table 5.11). -/
  retries   : List (Nat × Nat) := []
  flags     : BitVec 6 := 0
  digest    : BitVec 64 := 0
  inDigest  : BitVec 64 := 0
  /-- (rank, chunk) contributions folded into the input digest (R379). -/
  inFolded  : List (Nat × Nat) := []
  nondet    : Nat := 0
  /-- Chunks whose mirror PUTs have all been sent (R331). -/
  mirrored  : List Nat := []
  spanAccs  : List SpanAcc := []
  /-- Chunks that have run a phase of an APPLY and wait for their span (R123, R124). -/
  heldChunks : List HeldChunk := []
  /-- ALL_TO_ALL_V: the count vectors that have passed, by rank, the chunks delivered to endpoints here (source rank,
  destination rank, chunk), and those that have crossed an instance here (node, source, destination, chunk) (R152). -/
  matrix    : Table (List Nat) := []
  delivered : List (Nat × Nat × Nat) := []
  crossed   : List (Nat × Nat × Nat × Nat) := []
  /-- BARRIER: the row counter has been signalled (R153). -/
  released  : Bool := false
  /-- REDUCE_APPLY: when STEP_SEAL was last sent, whether it abandons the step, and whether the shards owned here have
  committed (R190, R192). -/
  sealSent  : Option Nat := none
  abandon   : Bool := false
  committed : Option Bool := none
  /-- REDUCE_APPLY: shards partnered here, sealed (true) or abandoned (R157). -/
  partnered : Option Bool := none
  /-- State digests of the owned shards before the step and after it (R378). -/
  preState  : List (BitVec 64) := [0, 0, 0]
  postState : List (BitVec 64) := [0, 0, 0]
  deriving DecidableEq, Repr, Inhabited

/-- A completed operation's place in the order of chunks (R226), and what a late CHUNK_ABORT needs of it: its parameters and
the chunk attempts known to be dropped, by instance (R160). -/
structure PastOp where
  seq     : Nat
  desc    : Desc
  chunks  : Nat
  params  : List Nat := []
  aborted : List ((Nat × Option Nat) × (Nat × Nat × Nat)) := []
  deriving DecidableEq, Repr

/-- A COLLECTIVE or SHARD_RESEND in its group's queue (R193, R399, R400). -/
structure Posted where
  tok    : Tok
  desc   : Desc
  host   : HostRead
  resend : Bool
  deriving DecidableEq, Repr

/-- The hanks of one array of a shard held here (R178, R185, R186). -/
structure ArrayHanks where
  /-- 0, 1, 2 for A1 to A3; 4 to 7 for S4 to S7. -/
  array : Nat
  set0  : List Nat
  set1  : List Nat
  deriving DecidableEq, Repr

/-- A secure point of a shard (R342, R343): the set it protects, and each protected hank with the hank reserved for its
copy and whether the copy is made. -/
structure Secure where
  set   : Bool
  hanks : List (Nat × Nat × Bool)
  deriving DecidableEq, Repr, Inhabited

/-- A shard held here (R188, R332, R357). -/
structure Shard where
  index   : Nat
  owner   : Bool
  arrays  : List ArrayHanks
  /-- The generation bit (R188). -/
  gen     : Bool := false
  /-- The step it last committed or sealed. -/
  step    : Nat := 0
  lost    : Bool := false
  /-- Its other copy is lost, so it runs solo (R352). -/
  solo    : Bool := false
  refill  : Bool := false
  secure  : Option Secure := none
  /-- The newest step whose values have begun to overwrite the other set: its phase A, or its mirror writes (R356). -/
  begun   : Nat := 0
  /-- Bytes of the step's mirror writes received (R190 step 3). -/
  mirrorBytes : Nat := 0
  deriving DecidableEq, Repr, Inhabited

/-- By which port a packet came here, and in which tick (R83); whether its slot was acknowledged while a pause held it (R227). -/
structure Via where
  port  : Nat
  tick  : Nat
  acked : Bool := false
  deriving DecidableEq, Repr, Inhabited

/-- Where a group stands (R138, R142, R163, R339). -/
inductive GroupPhase where
  | casting
  | active
  | binding
  | faulted
  deriving DecidableEq, Repr, Inhabited

/-- Pausing (R163). -/
inductive PauseState where
  | running
  | pausing
  | paused
  deriving DecidableEq, Repr, Inhabited

/-- What is kept of a completed operation for a provenance record (R378): bytes 0 to 383 of the record. -/
structure Prov where
  seq     : Nat
  content : List Byte
  deriving DecidableEq, Repr

/-- A RECAST that waits for its old group's operations (R142, R357). -/
structure Recast where
  tok  : Tok
  desc : Desc
  host : HostRead
  deriving DecidableEq, Repr, Inhabited

/-- A packet refused with TARGET_LEAVING: its header as a C_NACK names it, when its refusals began, and when it may be sent
again; none where it has been sent again, or refusals have gone on for 1 s (R232, Table 7.12). -/
structure Leaving where
  key   : Nat
  since : Nat
  due   : Option Nat
  deriving DecidableEq, Repr, Inhabited

/-- A group at this module. -/
structure Group where
  id       : Nat
  phase    : GroupPhase := .casting
  record   : Record
  /-- Check value of R138. -/
  check    : BitVec 64
  /-- The cast-on's command, and when it started (R138). -/
  castTok  : Option Tok := none
  castAt   : Nat := 0
  /-- At the coordinator: modules that have reported READY, and that it has sent GO (R138, R139). -/
  ready    : List Nat := []
  goSent   : Bool := false
  /-- The restore step of a RECAST (R357). -/
  restore  : Option Nat := none
  insts    : List Inst := []
  /-- Accepted operations, oldest first. -/
  ops      : List Op := []
  past     : List PastOp := []
  /-- Commands queued for the group (R193, R400). -/
  queue    : List Posted := []
  /-- `seq` of the next operation to be accepted (R143). -/
  nextSeq  : Nat := 0
  /-- Last committed step (R157). -/
  lastStep : Nat := 0
  /-- Non-determinism counter (R364). -/
  nondet   : BitVec 64 := 0
  pause    : PauseState := .running
  pauseToks : List Tok := []
  bindTok  : Option Tok := none
  recast   : Option Recast := none
  transfers : List Transfer := []
  /-- Held packets that a leaving module has refused (R232, Table 7.12). -/
  leaving  : List Leaving := []
  /-- Packets held in slot buffers, with how they came: of operations not yet posted, or for chunks without a
  context in a pause (R158, R163); and the buffers they lie in, by the chunk stream (R168). -/
  held     : List (Via × Packet) := []
  heldBufs : List (List Nat × Nat) := []
  /-- Chunk aborts received before the operation was posted (R160). -/
  earlyAborts : List Packet := []
  shards   : List Shard := []
  /-- Staging hanks of the group (Table 5.6). -/
  staging  : List Nat := []
  /-- Cells reserved in each pool (R168). -/
  reserved : List Nat := [0, 0, 0, 0]
  /-- Steps sealed (true) or abandoned by the owner of the shards partnered here, not yet taken up by a completion
  (R157). -/
  seals    : List (Nat × Bool) := []
  /-- The last abandoned step that a completion has taken up (R256). -/
  abandoned : Option Nat := none
  /-- A secure point is requested (R342). -/
  secureReq : Bool := false
  /-- A generation flip is due, with the step it commits (R190). -/
  flipDue  : Option Nat := none
  /-- A seal of a step awaits its mirror chunks at the partner (R190 step 3). -/
  sealDue  : Option Nat := none
  /-- The role swap of an evacuation is due at the end of the step (R344): of the shards owned here (true), of those partnered
  here (false). -/
  swapDue  : List Bool := []
  /-- Later REDUCE_APPLYs are held after a hand-over (R344). -/
  handedOver : Bool := false
  provs    : List Prov := []
  /-- Each committed REDUCE_APPLY step with its `seq` and descriptor, newest first (R118, R358). -/
  stepSeqs : List (Nat × Nat × Desc) := []
  /-- The 16 newest steps sealed for the shards partnered here, newest first, with their state digests (R337, R345). -/
  sealed   : List (Nat × List (BitVec 64)) := []
  /-- Modules that had handed their shards over when the group came to name them as partners only (R339, R344). -/
  handed   : List Nat := []
  deriving DecidableEq, Repr, Inhabited

/-! ## Needle bed (R30, R126, R430) -/

/-- What a stitch computes. -/
inductive StitchKind where
  | reduce
  | map
  | apply1
  | apply2
  deriving DecidableEq, Repr, Inhabited

/-- A dispatched stitch (R30). -/
structure Stitch where
  kind    : StitchKind
  group   : Nat
  node    : Nat
  shard   : Option Nat := none
  seq     : Nat
  chunk   : Nat
  attempt : Nat
  /-- The value stream it works on, for MAP and APPLY: the chunk's reduced values (working format) and flags. -/
  input   : List Byte := []
  flags   : BitVec 6 := 0
  /-- For phase 2 of an APPLY: the fabric time at which the stitch began its phase 1 (R102, R114). -/
  time    : Option (BitVec 64) := none
  /-- For MAP of a forwarded chunk: the slot buffer it lies in (R174). -/
  buf     : Option Nat := none
  deriving DecidableEq, Repr, Inhabited

/-- The work of a stitch (R126): its elements, the handshake slots of one element and of its preambles, the columns its last
wave falls on (R31), and whether its result is discarded as a duplicate (R154). -/
structure Load where
  elems : Nat := 0
  cost  : Nat := 0
  pre   : Nat := 0
  last  : Nat := 0
  dup   : Bool := false
  deriving DecidableEq, Repr, Inhabited

/-- What the needle bed has still to pass, in handshakes (R126, R430): the rest of a change of program; a stitch, of which so many
handshakes are done; waits at the front and at the back. -/
inductive Work where
  | change (left : Nat)
  | stitch (load : Load) (done : Nat)
  | wait (front back : Nat)
  deriving DecidableEq, Repr, Inhabited

/-- The needle bed. -/
structure Bed where
  /-- Dispatched stitches in dispatch order (R30). -/
  queue   : List Stitch := []
  /-- The stitch that runs, and the fabric time at which it began (R30, TIME of Table 4.5; log entry 91). -/
  running : Option (Stitch × BitVec 64) := none
  /-- The group of the stitch that runs has ended: it runs to completion without effect (R30). -/
  void    : Bool := false
  /-- The work that has not yet passed, in order; that of a stitch may still pass after the row that ends it (log entry 4). -/
  work    : List Work := []
  /-- The program of the stitch that runs or ran last (R126, R130). -/
  program : Option Image := none
  deriving DecidableEq, Repr

/-! ## Fabric ports (chapters 7, 8, 9, 10) -/

/-- Lane and port states (Table 9.9). -/
inductive LaneState where
  | disabled
  | waitRef
  | lock
  | hello
  | measure
  | margin
  | init
  | up
  | quarantined
  | failed
  deriving DecidableEq, Repr, Inhabited

/-- A queued packet: the port it came by (128: this module; 129 + b: a NACK of bridge b), when it joined, and whether it is
held (R254, R306). -/
structure QPkt where
  pkt    : Packet
  inPort : Nat
  enq    : Nat
  held   : Bool := false
  /-- Its sub-lane at ingress, whose credit returns when its buffer is released (R208, R253); 9 when it has none, 10 when the
  link it came by is down and its buffer still belongs to that port's reservation (R168). -/
  inSub  : Nat := 9
  /-- Its cell: pool and index (R167, R168). -/
  cell   : Option (Nat × Nat) := none
  /-- The origin of its work (R432): 0 fabric, 1 host, 2 firmware. -/
  priv   : Nat := 0
  /-- When it came to the head of its queue (R249, R317). -/
  headAt : Option Nat := none
  /-- It had begun to leave by cut-through when its last word came (R29, R321). -/
  cut    : Bool := false
  /-- A test of age asked for at the head, made as the tick ends unless it has started by then (R317). -/
  test   : Bool := false
  deriving DecidableEq, Repr, Inhabited

/-- Lock progress of one port lane (R290): consecutive good codewords, consecutive lost ones, and what the last good one
carried; `count` runs on through lost ones. -/
structure LaneLock where
  run     : Nat := 0
  missed  : Nat := 0
  idx     : Nat := 0
  width   : Nat := 0
  count   : Nat := 0
  locked  : Bool := false
  deriving DecidableEq, Repr

/-- Credits of one sub-lane (R207, R208). -/
structure Credit where
  init   : BitVec 12 := 0
  limit  : BitVec 12 := 0
  sent   : BitVec 12 := 0
  /-- The receiver's count for this sub-lane (R208). -/
  freed  : BitVec 12 := 0
  /-- Since when a CREDIT header for it is due (R199). -/
  dueAt  : Option Nat := none
  deriving DecidableEq, Repr

/-- Fixed counters of a port (Table 15.10, section 3). -/
structure PortCounts where
  pktRx    : BitVec 48 := 0
  pktTx    : BitVec 48 := 0
  bytesRx  : BitVec 48 := 0
  bytesTx  : BitVec 48 := 0
  symbols  : BitVec 48 := 0
  replays  : BitVec 48 := 0
  dropped  : BitVec 48 := 0
  aged     : BitVec 48 := 0
  deriving DecidableEq, Repr

/-- Depth and delay of one egress queue (R321). -/
structure QueueStat where
  depthMax  : Nat := 0
  delayLast : Nat := 0
  delayMax  : Nat := 0
  deriving DecidableEq, Repr

/-- A codeword's 20-bit header and 640-byte flit. -/
structure Message where
  header : BitVec 20
  flit   : List Byte
  deriving DecidableEq, Repr, Inhabited

/-- A logical fabric port. -/
structure Port where
  /-- Its port table entry in force, Table 9.2, and the one loaded for the next LOCK (R273). -/
  entry    : BitVec 256 := 0
  nextEntry : BitVec 256 := 0
  /-- PORT_STATUS_n (Table 9.12). -/
  state    : LaneState := .disabled
  delay    : BitVec 10 := 0
  worstSym : BitVec 4 := 0
  failLane : BitVec 4 := 0
  qCause   : BitVec 8 := 0
  level    : BitVec 2 := 0
  restarts : BitVec 8 := 0
  /-- When it entered its state. -/
  since    : Nat := 0
  /-- LOCK (R290): per lane; the peer's `rx_locked` was seen; `go` was sent; the period in which the peer's was seen. -/
  locks    : Table LaneLock := []
  peerLocked : Bool := false
  goSent   : Bool := false
  goCount  : Option Nat := none
  /-- Periods since the entry into LOCK, and the `flags` of the running one. -/
  cwCount  : Nat := 0
  txFlags  : BitVec 2 := 0
  /-- MEASURE (R291): samples, measurements that failed, when the running one began, updates or echoes sent and when the
  last was; the update to be echoed, with its arrival. -/
  samples  : List Nat := []
  tries    : Nat := 0
  measureAt : Nat := 0
  updates  : Nat := 0
  updateAt : Nat := 0
  echo     : Option (Nat × Nat) := none
  /-- Time update under way (R234): its value and the next part; one being received: its arrival and the next part. -/
  txTime   : Option (Nat × Nat) := none
  rxTime   : Option (Nat × Nat) := none
  /-- MARGIN (R292): per lane, corrected symbols of the worst codeword and of all. -/
  marginLanes : Table (Nat × Nat) := []
  /-- The peer's LINK_INIT, whether it is accepted, and whether one was sent (R210). -/
  peerInit : Option Packet := none
  peerOk   : Bool := false
  initSent : Bool := false
  /-- Sender of flits (R201 to R204). -/
  txFsn    : BitVec 12 := 0
  /-- Flits held: FSN, when sent, and bytes (none: the mark of an idle flit). -/
  retry    : List (BitVec 12 × Nat × Option (List Byte)) := []
  lastAck  : Option (BitVec 12) := none
  lastRtag : Option (BitVec 2) := none
  /-- A replay to be opened from the flit after this FSN, and FSNs still to be sent again in the one under way. -/
  replayFrom : Option (BitVec 12) := none
  replay   : List (BitVec 12) := []
  /-- Receiver of flits (R203). -/
  rxFsn    : BitVec 12 := 0
  rxLoss   : Bool := false
  rxTag    : BitVec 2 := 0
  ackDue   : Bool := false
  sinceAck : Nat := 0
  sinceSeq : Nat := 0
  lastFlit : Nat := 0
  /-- The last 58 bits that each lane has sent and received, its oldest bit first: the scrambler's state (R271). The manual
  gives it no value before the first codeword (DESIGN CHOICE, log entry 106). -/
  txLine   : Table (BitVec 58) := []
  rxLine   : Table (BitVec 58) := []
  /-- Codewords received that wait for those of the lanes before them in their period, by lane, and the lane whose turn it is
  (R290). -/
  deskew   : Table (List (Option Message)) := []
  rxLane   : Nat := 0
  /-- Packet stream (R211): bytes received and not yet a packet, and the fabric time at which the first of them came; packets
  delivered, each with the time its first word came (R320); bytes to be sent. -/
  rxBytes  : List Byte := []
  rxAt     : Nat := 0
  rxQueue  : List (Nat × Packet) := []
  txBytes  : List Byte := []
  /-- Packets being sent, and sent and not acknowledged: bytes of `txBytes` up to its end, or the FSN of its last word. -/
  sending  : List (Nat × QPkt) := []
  unacked  : List (BitVec 12 × QPkt) := []
  /-- Credits of the nine sub-lanes (R206 to R209). -/
  credits  : Table Credit := []
  /-- Packets sent to an endpoint whose credit has not returned: sub-lane, cumulative count, when sent (R209). -/
  creditAt : List (Nat × BitVec 12 × Nat) := []
  /-- Egress queues of the nine sub-lanes, oldest first (R306). -/
  queues   : Table (List QPkt) := []
  /-- Deficit round robin (R307): per VL deficit, granted; whose turn, first VL1's (DESIGN CHOICE, log entry 3); per VL the sub-lane
  taken last. -/
  deficit  : Table (BitVec 32) := []
  granted  : Table Bool := []
  turn     : Nat := 1
  lastSub  : Table Nat := []
  overruns : Nat := 0
  /-- Sampler (R319): eligible packets counted, samples taken, samples lost since the last record. -/
  smpCount : Nat := 0
  smpNo    : BitVec 32 := 0
  smpLost  : BitVec 32 := 0
  /-- Queue captures (R321), by sub-lane. -/
  stats    : Table QueueStat := []
  counts   : PortCounts := {}
  /-- NO_PEG has been posted for these port lanes (R413). -/
  noPeg    : List Nat := []
  /-- Cells reserved for the receive buffers in each pool (R168). -/
  cells    : List Nat := [0, 0, 0, 0]
  deriving DecidableEq, Repr

/-! ## Drone lanes, reference and fabric time (chapter 9) -/

/-- A code group of a drone lane (R275, R276): data, or a K-code by its octet. -/
inductive CodeGroup where
  | data (b : Byte)
  | k (b : Byte)
  deriving DecidableEq, Repr, Inhabited

/-- A frame or ordered set that a drone lane is given to send: its bytes as a number, its times as they are then. -/
inductive DroneOut where
  | beat (data : Byte)
  | tmark (value : BitVec 64) (crc : Byte)
  | hello (body : BitVec 224)
  | delayReq (reqId : BitVec 32) (t1 : BitVec 64)
  | delayResp (reqId : BitVec 32) (t1 t2 t3 : BitVec 64)
  | urgent (ftype : BitVec 8) (body : BitVec 192)
  deriving DecidableEq, Repr, Inhabited

/-- A drone lane. -/
structure Drone where
  /-- Its drone table entry (Table 9.13). -/
  entry     : BitVec 192 := 0
  /-- DRONE_STATUS_m (Table 9.15). -/
  state     : LaneState := .disabled
  delayFine : BitVec 16 := 0
  qCause    : BitVec 8 := 0
  level     : BitVec 2 := 0
  codeErr   : BitVec 8 := 0
  since     : Nat := 0
  /-- Arrival of the last valid BEAT (R277); none before the first. -/
  lastBeat  : Option Nat := none
  peerState : BitVec 2 := 0
  beatNo    : BitVec 6 := 0
  /-- When the last BEAT began to leave (R277); and the last TMARK, below. -/
  beatAt    : Option Nat := none
  helloAt   : Option Nat := none
  /-- The hello accepted (R296). -/
  accepted  : Option (BitVec 224) := none
  /-- MEASURE (R300): next request number, when the last was sent, samples, failed measurements, start of this one. -/
  reqId     : BitVec 32 := 0
  reqAt     : Option Nat := none
  /-- A response to the last request is awaited. -/
  waiting   : Bool := false
  samples   : List Nat := []
  tries     : Nat := 0
  measureAt : Nat := 0
  measured  : Bool := false
  tmarkAt   : Option Nat := none
  /-- Consecutive TMARKs more than 640 fine units off (R304). -/
  skew      : Nat := 0
  noPeg     : Bool := false
  frameErrs : Nat := 0
  /-- Transmitter (R275 to R280): the code group on its pins, none at electrical idle; its running disparity (positive: true),
  whose start the manual does not give (DESIGN CHOICE, log entry 108); code groups since the last COMMA; the rest of the ordered
  set and of the frame under way; the ordinary frame under way, none in an urgent one; and what waits. -/
  pins      : Option (BitVec 10) := none
  txDisp    : Bool := false
  sinceComma : Nat := 0
  txSet     : List CodeGroup := []
  txRest    : List CodeGroup := []
  txFrame   : Option DroneOut := none
  txSets    : List DroneOut := []
  txUrgent  : List DroneOut := []
  txFrames  : List DroneOut := []
  deriving DecidableEq, Repr

/-- Reference clock and fabric time. -/
structure Clock where
  /-- Ticks since reset, by which every limit is counted (R24). -/
  now       : Nat := 0
  /-- Fine time: fabric time × 64 plus the phase (R299). -/
  fine      : Nat := 0
  /-- Fine units still to be absorbed at half rate (R302). -/
  slew      : Nat := 0
  /-- REF_CTRL (Table 9.5). -/
  refCtrl   : BitVec 32 := 0
  /-- FTIME_INIT (Table 9.16). -/
  ftimeInit : BitVec 64 := 0
  /-- LANE_CTRL (Table 9.11): `margin_us` 1,000 and `retry_ms` 100. -/
  laneCtrl  : BitVec 32 := 0x03E86400
  /-- REF_STATUS (Table 9.6). -/
  refLosses : BitVec 16 := 0
  timeSteps : BitVec 8 := 0
  spreadSeen : Bool := false
  timeValid : Bool := false
  onAlt     : Bool := false
  holdover  : Bool := false
  locked    : Bool := false
  holdoverAt : Nat := 0
  /-- The reference was lost under R285, or lock under R19; a restart is at step 2 of R284. -/
  lost      : Bool := false
  /-- Bridges that have lost lock to the reference clock (R19). -/
  bridgeLost : List Nat := []
  /-- Such losses reported to the headstock (R19). -/
  lockLosses : Nat := 0
  /-- The lane that was upstream until a REF_RELAY commit, and the tick of that commit (R285). -/
  relayFrom : Option (Nat × Nat) := none
  /-- D of R301, in 1/64 tick. -/
  relayDelay : Nat := 0
  /-- REF_RELAY has been taken from REF_CTRL: the first fabric port has left DISABLED (Table 13.25). -/
  portsLeft : Bool := false
  deriving DecidableEq, Repr

/-! ## Routing and transactions (chapter 8) -/

/-- Bank states (Table 8.3). -/
inductive BankState where
  | retired
  | loaded
  | current
  | draining
  deriving DecidableEq, Repr, Inhabited

/-- A configuration transaction (R264): its records and, once COMMIT is accepted, its commit time and command. -/
structure Txn where
  records : List (BitVec 32 × BitVec 64)
  due     : Option (BitVec 64 × Tok)
  deriving DecidableEq, Repr

/-- Routing state. -/
structure Routing where
  /-- FABRIC_ID `dim` and `module_id` (Table 8.1). -/
  dim       : BitVec 4 := 0
  label     : BitVec 11 := 0
  /-- The first fabric port has been brought up: FABRIC_ID and the carve are fixed (R237, R166). -/
  idFixed   : Bool := false
  bank0     : BankState := .retired
  bank1     : BankState := .retired
  /-- The current epoch (R242). -/
  epoch     : Bool := false
  /-- When the DRAINING bank's drain began (R260). -/
  drainAt   : Nat := 0
  /-- The port-down vector (R28): every bit set after module reset. -/
  down      : BitVec 128 := BitVec.allOnes 128
  /-- Committed settings, by setting address (Tables 8.10, 13.24); route entries are settings. An address not
  listed holds its reset value. -/
  settings  : Table (BitVec 64) := []
  txn       : Option Txn := none
  /-- Adaptive-choice and fall-back counts of VL1, VL2 and VL5 (R250). -/
  adapt     : List (BitVec 48) := [0, 0, 0]
  fallback  : List (BitVec 48) := [0, 0, 0]
  /-- The peg table, 16 B entries by peg index, and the entries in force in the lanes (R287, R288, R413). -/
  pegs      : Table (BitVec 128) := []
  pegsUsed  : Table (BitVec 128) := []
  /-- Packets delivered to this module and not yet consumed (R256); control packets at most 16,384. -/
  inbox     : List QPkt := []
  /-- Control packets discarded by the full queue (R256). -/
  inboxLost : BitVec 48 := 0
  /-- NACKs built and not yet sent, per bridge limit 64 (R318); those lost to a full queue. -/
  nackLost  : Nat := 0
  /-- When a packet last left or was resident (R348 step 5). -/
  quietAt   : Nat := 0
  deriving DecidableEq, Repr

/-! ## Traffic (chapter 10) -/

/-- A meter's buckets, in 1/1,250 B, and its counts (R313, R314). -/
structure Meter where
  tc    : Nat := 0
  te    : Nat := 0
  last  : Nat := 0
  green  : BitVec 48 := 0
  yellow : BitVec 48 := 0
  red    : BitVec 48 := 0
  greenB : BitVec 48 := 0
  yellowB : BitVec 48 := 0
  redB   : BitVec 48 := 0
  discards : BitVec 48 := 0
  deriving DecidableEq, Repr

/-- A sample waiting for the host's ring (R320): record bytes 0 to 191. -/
structure Sample where
  time : Nat
  port : Nat
  bytes : List Byte
  cell : Nat
  deriving DecidableEq, Repr

structure Traffic where
  meters  : Table Meter := []
  /-- The headstock's sample queue; at most 4,096 (R320). -/
  samples : List Sample := []
  samplesLost : BitVec 48 := 0
  deriving DecidableEq, Repr

/-! ## Flows (R216 to R221) -/

/-- Why this module sent a PUT or GET_REQ. -/
inductive Purpose where
  | inject (tok : Tok)                      -- R409
  | mirror (group seq chunk : Nat)          -- R331
  | shardWrite (tok : Tok)                  -- R187
  | report                                  -- R345, R347; nothing follows from its acknowledgement
  deriving DecidableEq, Repr, Inhabited

/-- An unacknowledged packet of a flow of this module (R216, R220, R221): when it was last sent (none while the window of
256 holds it back), the earliest moment of the next resend, when refusals of it began, and how often it was resent for
STALE_EPOCH or AGED_OUT (R409). -/
structure TxPkt where
  seq     : BitVec 32
  pkt     : Packet
  sentAt  : Option Nat
  due     : Nat
  refused : Option Nat
  resends : Nat
  /-- A GET_REQ acknowledged under R218 whose data is not all there (R219). -/
  acked   : Bool := false
  /-- The cell of an injected packet that the window still holds back (R170, R409). -/
  cell    : Option (Nat × Nat) := none
  purpose : Purpose
  deriving DecidableEq, Repr, Inhabited

structure TxFlow where
  incarn  : BitVec 16
  next    : BitVec 32
  unacked : List TxPkt
  deriving DecidableEq, Repr, Inhabited

/-- The receiver's state of a flow (R217): started, or awaiting an incarnation newer than `incarn`. -/
structure RxFlow where
  started : Bool
  incarn  : BitVec 16
  cum     : BitVec 32
  bits    : List (BitVec 32)
  last    : Nat
  deriving DecidableEq, Repr, Inhabited

structure Flows where
  /-- Flows of this module, by destination as a packet names it. -/
  tx : Table TxFlow := []
  /-- Flows towards this module, by source. -/
  rx : Table RxFlow := []
  /-- GET_DATA placed for requests of this module: the request (its destination, incarnation, `seq` and tag), offset, bytes
  (R219). -/
  got : List ((Nat × BitVec 16 × BitVec 32 × BitVec 32) × Nat × List Byte) := []
  /-- Refusals of packets reported to the host (Table 7.12): the NACK code and the packet's header. Table 13.23 has no event for
  them (log entry 26). -/
  refused : List (Nat × BitVec 512) := []
  deriving DecidableEq, Repr

/-! ## Courses and recovery (chapter 11) -/

/-- Course states (Table 11.2). -/
inductive CourseState where
  | unset
  | refused
  | paired
  | solo
  | refill
  | severed
  | lost
  deriving DecidableEq, Repr, Inhabited

/-- Module states of the fault table (Table 11.7). -/
inductive FaultState where
  | up
  | draining
  | drained
  | lost
  | returned
  deriving DecidableEq, Repr, Inhabited

/-- A kept step (R347): its commit reports and its step notes by endpoint. -/
structure StepRec where
  step    : Nat
  reports : List (List Byte)
  notes   : List (Nat × List Byte)
  deriving DecidableEq, Repr

structure Course where
  /-- COURSE_CFG (Table 11.1), and whether it is fixed (R323). -/
  cfg       : BitVec 32 := 0
  fixed     : Bool := false
  /-- COURSE_STATUS (Table 11.3). -/
  risk      : BitVec 8 := 0
  overrides : BitVec 8 := 0
  state     : CourseState := .unset
  /-- `lead_now`, once COURSE_SETUP is accepted or LEAD_TAKEN arrives; before, `lead_id` of the configuration. -/
  leadNow   : Option (BitVec 11) := none
  setupTok  : Option Tok := none
  setupAt   : Option Nat := none
  /-- The partner's COURSE frame: `feed_id` and `override` (R325). -/
  partner   : Option (BitVec 16 × Bool) := none
  faults    : Table FaultState := []
  /-- The level that each neighbour offered in the first hello accepted since its lanes were last all lost (R297); 0 none. -/
  levels    : Table Nat := []
  /-- Modules whose loss this module has itself declared, and those for which it holds another's MODULE_LOST. -/
  ownLost   : List Nat := []
  otherLost : List Nat := []
  /-- When this module lost every drone lane to its partner (R337). -/
  partnerLostAt : Option Nat := none
  /-- The partner's label is adopted (R337). -/
  adopted   : Bool := false
  noticeNo  : BitVec 16 := 0
  /-- Relay keys (`ftype`, `subject`, `cause`) and when relayed; at most 1,024 (R335). -/
  relayed   : List ((BitVec 8 × BitVec 16 × BitVec 8) × Nat) := []
  /-- Levels of R341 that are armed: WATCH, SECURE, EVACUATE. -/
  armed     : List Bool := [true, true, true]
  /-- Inputs 0, 1, 2 and 4, 5 of Table 11.8 in the running interval (input 3 is read at the update). -/
  inputs    : List Nat := [0, 0, 0, 0, 0, 0]
  riskAt    : Nat := 0
  /-- Evacuation under way (R344): requested, or accepted. -/
  evacSent  : Bool := false
  evacuating : Bool := false
  /-- DRAINING (R348). -/
  draining  : Bool := false
  drainTok  : Option Tok := none
  drained   : Bool := false
  /-- In REFILL: this module is the one that returned (Table 11.2). -/
  refillHere : Bool := false
  /-- This module has returned, and its refill has not begun (Table 11.2). -/
  back      : Bool := false
  /-- HANDOVER reports to the lead: its label and the group (R344). No packet carries them (log entry 16). -/
  toLead    : List (Nat × Nat) := []
  /-- Endpoints of the home course whose port here is lost, and whose port at the partner is lost, with the fabric times
  of their detection (R351). -/
  epLost    : Table Nat := []
  epPartner : Table Nat := []
  /-- Step records (R347), oldest first; what was discarded and counted. -/
  records   : List StepRec := []
  recDiscards : Nat := 0
  /-- New losses compared bitwise with the stored ones: step, endpoint, and whether they are equal (R359). -/
  verified  : List (Nat × Nat × Bool) := []
  deriving DecidableEq, Repr

/-! ## Performance counters (chapter 15) -/

structure Perf where
  /-- NB_SLOTS (Table 15.2). -/
  retired    : BitVec 48 := 0
  wasted     : BitVec 48 := 0
  front      : BitVec 48 := 0
  back       : BitVec 48 := 0
  handshakes : BitVec 48 := 0
  rateLast   : BitVec 32 := 0
  /-- Handshakes measured in the running microsecond, and hundredths of one (R25). -/
  rateNow    : Nat := 0
  rateFrac   : Nat := 0
  /-- Whole microseconds in a row with a rate below 1.2 G handshakes/s (R25). -/
  lowFor     : Nat := 0
  /-- Corrected SECDED errors of the on-die buffer and the headstock's SRAM (R36). -/
  secded     : Nat := 0
  /-- PERF_SEL_n and PERF_ADDR_n in force, and held writes (R434). -/
  sel        : Table (BitVec 64) := []
  addr       : Table (BitVec 64) := []
  heldSel    : Table (BitVec 64) := []
  heldAddr   : Table (BitVec 64) := []
  /-- PERF_CNT_n (Table 15.6). -/
  cnt        : Table (BitVec 48) := []
  /-- PERF_DUMP_CTRL (Table 15.7). -/
  enable     : Bool := false
  sections   : BitVec 7 := 0
  slotSize   : BitVec 6 := 0
  interval   : BitVec 20 := 0
  size       : BitVec 17 := 0
  /-- PERF_DUMP_BASE and PERF_DUMP_HEAD (Table 15.8). -/
  base       : BitVec 64 := 0
  head       : BitVec 16 := 0
  /-- PERF_DUMP_STATUS (Table 15.9). -/
  missed     : BitVec 32 := 0
  selErr     : Bool := false
  active     : Bool := false
  err        : BitVec 8 := 0
  tail       : BitVec 16 := 0
  /-- Dump ticks since the enable, those skipped since the last record, and the last dump tick served. -/
  dumpSeq    : BitVec 64 := 0
  missedRec  : BitVec 32 := 0
  lastDump   : BitVec 64 := 0
  /-- The record of the running dump tick, as its tick began (R436); and one that waits for host memory (R388, R438). -/
  capture    : Option (List Byte) := none
  waitRec    : Option (List Byte) := none
  deriving DecidableEq, Repr

/-! ## Boot and protection (chapter 14) -/

/-- What the module is doing (R418, R419, R443, R447). -/
inductive Life where
  | off        -- rails down, awaiting PWRGD
  | inReset    -- awaiting reset release
  | tripped    -- held after a thermal trip
  | running
  | resetHold
  deriving DecidableEq, Repr, Inhabited

/-- Where a STAGE stands (Table 14.6): its bytes are to be verified, its slot erased, written, and read back. -/
inductive StagePhase where
  | verify
  | erase
  | write
  | check
  deriving DecidableEq, Repr, Inhabited

/-- A STAGE in progress: its slot and the bytes read from the host. -/
structure Staging where
  slot  : Bool
  bytes : List Byte
  phase : StagePhase
  deriving DecidableEq, Repr, Inhabited

structure Boot where
  life       : Life := .inReset
  /-- BOOT_STATUS (Table 14.11). -/
  stage      : BitVec 4 := 0
  lastReset  : BitVec 8 := 1
  /-- A reset took effect in the running tick (R444). -/
  justReset  : Bool := false
  resultA    : BitVec 8 := 0xFF
  resultB    : BitVec 8 := 0xFF
  protSrc    : BitVec 2 := 0
  idValid    : Bool := false
  protLocked : Bool := false
  fellBack   : Bool := false
  trial      : Bool := false
  /-- The running slot, build, security version and image digest. -/
  slot       : Bool := false
  build      : BitVec 32 := 0
  security   : BitVec 32 := 0
  digest     : BitVec 512 := 0
  /-- FW_UPDATE_ADDR, FW_UPDATE_CTRL, FW_UPDATE_STATUS (Tables 14.13 to 14.15). -/
  fwAddr     : BitVec 64 := 0
  raiseFloor : Bool := false
  fwLength   : BitVec 24 := 0
  fwSlot     : Bool := false
  busy       : Bool := false
  overrun    : Bool := false
  result     : BitVec 8 := 0xFF
  lastOp     : BitVec 4 := 0
  staging    : Option Staging := none
  /-- PROT_STATUS (Table 14.16). -/
  blocked    : BitVec 32 := 0
  windowHanks : BitVec 8 := 0
  /-- The protection block in force; empty under the defaults (R422). -/
  prot       : List Byte := []
  /-- Attestation (Table 14.9, 14.10, 14.17). -/
  nonce      : BitVec 256 := 0
  report     : List Byte := []
  attErr     : Bool := false
  /-- Signed PROVENANCE requests made while a report is in progress, oldest first: command, host address and record (R426). -/
  toSign     : List (Tok × Nat × List Byte) := []
  attDone    : Bool := false
  attBusy    : Bool := false
  /-- When each headstock core last served the watchdog, or it was armed (R20, R419). -/
  serviced   : List Nat := [0, 0, 0, 0]
  /-- The identity key is loaded into the signing unit (R419 step 5). -/
  keyLoaded  : Bool := false
  deriving DecidableEq, Repr

/-! ## Power (chapter 16) -/

structure Power where
  /-- Pins and rails (R443, R444). -/
  pwrgd     : Bool := true
  resetN    : Bool := true
  railsGood : Bool := true
  smbAlert  : Bool := false
  thermTrip : Bool := false
  /-- SMB_ADDR[1:0], straps of the board, which gives them (R451; log entry 117). -/
  smbAddr   : BitVec 2 := 0
  /-- The core rail in mV: 750 when every rail is in regulation (Table 16.2, R22). -/
  coreMv    : BitVec 16 := 750
  /-- PWR_CFG (Table 16.6). -/
  tjThrottle : BitVec 8 := 95
  droopCv    : BitVec 16 := 4500
  /-- PWR_STATUS and THERM_STATUS (Tables 16.7, 16.8). -/
  vin       : BitVec 16 := 0
  iin       : BitVec 16 := 0
  pin       : BitVec 16 := 0
  tjCompute : BitVec 8 := 0
  tjBridge  : BitVec 8 := 0
  tjSkein   : BitVec 8 := 0
  /-- THROTTLE_STATUS (Table 16.9). -/
  droops    : BitVec 32 := 0
  droopThr  : Bool := false
  thermThr  : Bool := false
  powerThr  : Bool := false
  /-- A droop is in progress; when the last one ended. -/
  drooping  : Bool := false
  droopEndAt : Nat := 0
  deriving DecidableEq, Repr

/-! ## What the module drives -/

/-- A codeword on a lane. -/
structure TxCodeword where
  port   : Nat
  lane   : Nat
  header : BitVec 20
  flit   : List Byte
  /-- Its message bits as the lane carries them, scrambled (R197, R271). -/
  line   : BitVec 5140
  deriving DecidableEq, Repr

/-- The module's pins, as logs of what it has driven, oldest first. -/
structure Out where
  /-- Writes to host memory: address and bytes. -/
  hostWrites : List (Nat × List Byte) := []
  /-- MSI-X messages, by vector. -/
  msix       : List Nat := []
  codewords  : List TxCodeword := []
  drone      : List (Nat × DroneOut) := []
  /-- Answers to register reads: offset and value. -/
  reads      : List (Nat × BitVec 64) := []
  /-- Answers of the management port; a NACK is empty. -/
  mgmt       : List (List Byte) := []
  /-- The Packet Error Code of each read's answer, which follows it where the host clocks it out (R451). -/
  mgmtPec    : List Byte := []
  deriving DecidableEq, Repr

/-- A KX9 module. -/
structure State where
  /-- Boot flash (R414); kept without power. Reset: `Config.flash`, a free value. -/
  flash    : Flash
  host     : HostIf := {}
  rows     : Rows := {}
  /-- Program slots 0 to 63 (R97). -/
  slots    : Table Slot := []
  pools    : Pools := {}
  skein    : Skein := {}
  groups   : List Group := []
  bed      : Bed := {}
  ports    : Table Port := []
  drones   : Table Drone := []
  clock    : Clock := {}
  routing  : Routing := {}
  traffic  : Traffic := {}
  flows    : Flows := {}
  course   : Course := {}
  perf     : Perf := {}
  boot     : Boot := {}
  power    : Power := {}
  /-- Packets dropped, by port × 64 + cause (R236). -/
  drops    : Table Nat := []
  out      : Out := {}
  /-- The model's own field: commands waiting, first in, first out (log entry 1). -/
  pending  : List Instr := []
  deriving DecidableEq, Repr

/-- A module just reset, with this flash: every register at its reset value, nothing in memory (R14). State that is no
register, and for which the manual gives no value, starts empty or at 0 (DESIGN CHOICE, log entry 3). -/
def State.initial (f : Flash) : State := { flash := f }

/-- The machine right after power-on reset, before reset release: every field at the value the manual states for
reset, and the flash as manufactured (free, log entry 2). Where the model starts is log entry 1. -/
def State.reset : State := State.initial Config.flash

end Sys2Proof.Machine
end

