-- ==== Sys2Proof/Machine/Ops.lean ====
section
/-!
DEFINITION. The named operations that commands share: table entries of the state, fabric time, performance events
(R428 to R433), host memory and MSI-X (R388, R390, R424), completion entries and events (R394 to R397, R401, R404),
skein memory and hanks (R175 to R178), cell pools (R165 to R174), settings and routing (R241 to R258), the egress
queues with their meters (R306, R312 to R314) and row counters (R405, R406, R233).
-/
namespace Sys2Proof.Machine

/-! ## Parts of the state -/

/-- Bytes o to o + n − 1 of a little-endian structure. -/
def efield {w : Nat} (e : BitVec w) (o n : Nat) : Nat := bits e.toNat (8 * (o + n) - 1) (8 * o)

def State.config (s : State) : PartConfig := s.flash.identity.config
/-- Enabled columns (R2, Table 13.4). -/
def State.columns (s : State) : Nat := if s.flash.identity.gradeH then 30 else 32
/-- The module's label (Table 8.1). -/
def State.label (s : State) : Nat := s.routing.label.toNat
/-- The course partner's label (R239, R323). -/
def State.partnerLabel (s : State) : Nat := s.label ^^^ 1

def getSq (s : State) (n : Nat) : Sq := tget {} s.host.sqs n
def updSq (n : Nat) (f : Sq → Sq) (s : State) : State :=
  { s with host := { s.host with sqs := tset {} s.host.sqs n (f (getSq s n)) } }
def getCq (s : State) (n : Nat) : Cq := tget {} s.host.cqs n
def updCq (n : Nat) (f : Cq → Cq) (s : State) : State :=
  { s with host := { s.host with cqs := tset {} s.host.cqs n (f (getCq s n)) } }
def getPort (s : State) (p : Nat) : Port := tget {} s.ports p
def updPort (p : Nat) (f : Port → Port) (s : State) : State :=
  { s with ports := tset {} s.ports p (f (getPort s p)) }
def getDrone (s : State) (m : Nat) : Drone := tget {} s.drones m
def updDrone (m : Nat) (f : Drone → Drone) (s : State) : State :=
  { s with drones := tset {} s.drones m (f (getDrone s m)) }
def getSlot (s : State) (n : Nat) : Slot := tget {} s.slots n
def updSlot (n : Nat) (f : Slot → Slot) (s : State) : State :=
  { s with slots := tset {} s.slots n (f (getSlot s n)) }

def findGroup (s : State) (id : Nat) : Option Group := s.groups.find? (·.id == id)
def updGroup (id : Nat) (f : Group → Group) (s : State) : State :=
  { s with groups := lupdate (·.id == id) f s.groups }

/-- The stitch on the needle bed, unless its group has ended. -/
def liveStitch (s : State) : Option Stitch := if s.bed.void then none else s.bed.running.map (·.1)

/-- The work of a group that has ended leaves the needle bed: its stitches that wait are dropped, and one that runs runs to completion
without effect (R30). -/
def voidBed (gid : Nat) (b : Bed) : Bed :=
  { b with queue := b.queue.filter (·.group != gid), void := b.void || b.running.any (·.1.group == gid) }

/-- A function applied for each number below n, or each element of a list, in order. -/
def forEach {α : Type} (l : List α) (f : α → State → State) (s : State) : State := l.foldl (fun s a => f a s) s

/-! ## Time (R9, R24, R299) -/

/-- Fabric time in ticks. -/
def fabricTime (s : State) : Nat := s.clock.fine / 64 % 2 ^ 64

/-- Fabric time, or 0 while it is not valid (Table 13.22). -/
def validTime (s : State) : Nat := if s.clock.timeValid then fabricTime s else 0

/-- Ticks since a moment. -/
def since (s : State) (t : Nat) : Nat := s.clock.now - t

/-- Ticks in 10 µs, 20 µs, 1 s and 1 hour (R220, R221, R217). -/
def ticks10us : Nat := 12500
def ticks20us : Nat := 25000
def ticks1s : Nat := 1250000000
def ticks1h : Nat := 4500000000000

/-! ## Performance events (R428 to R433) -/

/-- An event with the attributes it carries (Table 15.3). Privilege: 0 fabric, 1 host, 2 firmware. -/
structure PEv where
  code : Nat
  priv : Option Nat := none
  port : Option Nat := none
  src  : Option Nat := none
  hank : Option Nat := none
  sub  : Option Nat := none

/-- A filter on an attribute (R433). -/
def attrOk (enabled : Bool) (a : Option Nat) (f : Nat → Bool) : Bool :=
  !enabled || (match a with | some x => f x | none => false)

/-- The counter of a selection counts the event (R433). -/
def selMatches (sel addr : Nat) (e : PEv) : Bool :=
  let pm := bits sel 50 48
  let mk := bits sel 47 46
  let mv := bits sel 45 31
  let cm := bits sel 21 13
  bit sel 63 && bits sel 7 0 == e.code &&
  attrOk (pm != 0) e.priv (fun x => bit pm x) &&
  attrOk (mk == 1) e.port (· == mv) && attrOk (mk == 2) e.src (· == mv) &&
  attrOk (bit addr 63) e.hank (fun h => decide (bits addr 18 0 ≤ h ∧ h ≤ bits addr 50 32)) &&
  attrOk (cm != 0) e.sub (fun x => bit cm x)

/-- An event counted `n` times by every programmable counter that selects it; counters wrap at 2⁴⁸. -/
def count (e : PEv) (n : Nat) (s : State) : State :=
  s.perf.sel.foldl (fun s q =>
    if selMatches q.2.toNat (tget 0 s.perf.addr q.1).toNat e then
      { s with perf := { s.perf with
          cnt := tset 0 s.perf.cnt q.1 (BitVec.ofNat 48 ((tget 0 s.perf.cnt q.1).toNat + n)) } }
    else s) s

/-- The same event counted in the counters alone. -/
def countIn (e : PEv) (n : Nat) (p : Perf) : Perf :=
  { p with cnt := p.sel.foldl (fun c q =>
      if selMatches q.2.toNat (tget 0 p.addr q.1).toNat e then tset 0 c q.1 (BitVec.ofNat 48 ((tget 0 c q.1).toNat + n))
      else c) p.cnt }

/-- A counted drop, by port and cause (R236). -/
def drop (port cause : Nat) (s : State) : State :=
  let k := port * 64 + cause
  { s with drops := tset 0 s.drops k (tget 0 s.drops k + 1) }

/-! ## Host memory, MSI-X (R388, R390, R424) -/

/-- The KX9 may address host memory (R388). -/
def hostOk (s : State) : Bool := s.host.bme && s.host.ringsEn && !s.host.pcie.d3hot

/-- The module answers the host: firmware runs, or the boot ROM in reset-hold (R419, Table 14.5). -/
def hostUp (s : State) : Bool := s.boot.life == .running || s.boot.life == .resetHold

/-- An access of the host, lost while the module is in reset. -/
def hostAccess (f : State → State) (s : State) : State := if hostUp s then f s else s

/-- The range lies wholly within one host window, or there is none (R424). -/
def inHostWindow (s : State) (addr len : Nat) : Bool :=
  let n := leAt s.boot.prot 6 1
  n == 0 || (List.range n).any fun i =>
    let base := leAt s.boot.prot (64 + 16 * i) 8
    let size := leAt s.boot.prot (72 + 16 * i) 8
    decide (base ≤ addr ∧ addr + len ≤ base + size)

/-- A write to host memory, issued or counted as blocked (R424). -/
def hostWrite (addr : Nat) (bs : List Byte) (s : State) : State :=
  if inHostWindow s addr bs.length then { s with out := { s.out with hostWrites := s.out.hostWrites ++ [(addr, bs)] } }
  else { s with boot := { s.boot with blocked := satInc s.boot.blocked } }

/-- What a read of `len` bytes at `addr` gives: the answer carried by the command, or a failed read outside every
window (R424). -/
def hostRead (s : State) (addr len : Nat) (h : HostRead) : Option (List Byte) :=
  if inHostWindow s addr len then h.map fun bs => slice bs 0 len else none

/-- A read that fails on PCI Express sets error status in Advanced Error Reporting (Table 13.1; which is a FREE VALUE, log entry
10). -/
def setAer (s : State) : State :=
  { s with host := { s.host with pcie := { s.host.pcie with aer := s.host.pcie.aer ||| Config.aerStatus s.clock.now } } }

/-- What a read of host memory leaves when it has failed; one outside every window is not issued (R424). -/
def noteRead (addr len : Nat) (h : HostRead) (s : State) : State :=
  if inHostWindow s addr len && h.isNone then setAer s else s

/-- A vector's messages go out: it is not masked, nor is the function, and MSI-X and Bus Master Enable are set (R390; PRESUMED, log
entry 10). -/
def vectorOpen (s : State) (v : Nat) : Bool :=
  !(tget {} s.host.msix v : MsixVec).masked && s.host.pcie.msixEnable && !s.host.pcie.msixMask && s.host.bme

/-- An MSI-X message, or its pending bit while it may not go (R390). -/
def sendMsix (v : Nat) (s : State) : State :=
  if vectorOpen s v then { s with out := { s.out with msix := s.out.msix ++ [v] } }
  else { s with host := { s.host with
    msix := tset {} s.host.msix v { (tget {} s.host.msix v : MsixVec) with pending := true } } }

/-- The message that is pending on a vector, sent once it may go (R390). -/
def releaseVector (v : Nat) (s : State) : State :=
  let m : MsixVec := tget {} s.host.msix v
  if m.pending && vectorOpen s v then
    { s with host := { s.host with msix := tset {} s.host.msix v { m with pending := false } }
             out := { s.out with msix := s.out.msix ++ [v] } }
  else s

/-! ## Completion rings (R394 to R396) -/

/-- Entries written and not released. -/
def cqUsed (c : Cq) : Nat := (c.tail.toNat + c.size.toNat - c.head.toNat) % c.size.toNat

/-- An entry is neither unreleased nor reserved (R394). -/
def cqHasRoom (c : Cq) : Bool := decide (cqUsed c + c.reserved + c.waiting.length + 1 < c.size.toNat)

/-- A completion ring that a descriptor may name. -/
def cqOpen (s : State) (c : Nat) : Bool := decide (c < 256) && (getCq s c).active

/-- The head descriptor of a ring was read, and its completion ring is full (R394). -/
def waitsForCq (s : State) (q : Sq) : Bool :=
  match q.headWait with
  | some (_, c) => cqOpen s c && !cqHasRoom (getCq s c)
  | none => false

/-- The ring's vector is sent when its conditions hold (R396). -/
def cqModerate (n : Nat) (s : State) : State :=
  let c := getCq s n
  let timeUp := match c.irqStart with
    | some t => decide (c.modTime.toNat * 1250 ≤ since s t)
    | none => false
  if c.irqEn && c.sinceIrq != 0 && (decide (max c.modCount.toNat 1 ≤ c.sinceIrq) || timeUp) then
    sendMsix c.vector.toNat (updCq n (fun c => { c with sinceIrq := 0, irqStart := none }) s)
  else s

/-- An entry written at the tail: bytes 8 to 63, then bytes 0 to 7 with the phase bit (R395). -/
def cqWrite (n : Nat) (e : BitVec 512) (counted : Bool) (s : State) : State :=
  let c := getCq s n
  let bs := leBytes 64 (setBits e 56 1 (b2n !c.oddPass)).toNat
  let addr := c.base.toNat + 64 * c.tail.toNat
  let last := c.tail.toNat + 1 == c.size.toNat
  s |> hostWrite (addr + 8) (bs.drop 8) |> hostWrite addr (bs.take 8)
    |> updCq n (fun c =>
      { c with
        tail := if last then 0 else c.tail + 1
        oddPass := if last then !c.oddPass else c.oddPass
        sinceIrq := if counted then c.sinceIrq + 1 else c.sinceIrq
        irqStart := if counted && c.irqStart.isNone then some s.clock.now else c.irqStart })
    |> cqModerate n

/-- An entry that is due: written, or waiting while host memory may not be written (R388). -/
def cqPut (n : Nat) (e : BitVec 512) (isEvent counted : Bool) (s : State) : State :=
  if hostOk s then cqWrite n e counted s
  else updCq n (fun c => { c with waiting := c.waiting ++ [(e, isEvent, counted)] }) s

/-! ## Events (R404) -/

/-- An event record's bytes without `lost` and phase (Table 13.22). -/
def eventRecord (code lost time arg0 arg1 : Nat) (body : List Byte) : BitVec 512 :=
  BitVec.ofNat 512 (leNat (leBytes 2 code ++ leBytes 2 lost ++ [0, 0, 0, 2] ++ leBytes 8 time ++ leBytes 8 arg0 ++
    leBytes 8 arg1 ++ (padTo 32 body).take 32))

/-- An event posted to the lowest enabled ring with `event` = 1 (R404). -/
def postEvent (code arg0 arg1 : Nat) (body : List Byte) (s : State) : State :=
  match s.host.cqs.find? fun q => q.2.active && q.2.event with
  | none => { s with host := { s.host with eventLost := satInc s.host.eventLost } }
  | some (n, c) =>
    if cqHasRoom c then
      let e := eventRecord code s.host.lostSince.toNat (validTime s) arg0 arg1 body
      cqPut n e true true { s with host := { s.host with lostSince := 0 } }
    else { s with host := { s.host with lostSince := satInc s.host.lostSince } }

/-- A RING_ERROR event (R397, Table 13.23). -/
def ringError (isCq : Bool) (n code tag : Nat) (s : State) : State :=
  postEvent 0x000D (256 * b2n isCq + n) code (leBytes 4 tag) s

/-- A dump record written into slot `tail`: bytes from 8 on, then bytes 0 to 7 (R439). A write that fails stops the ring, with its
RING_ERROR event (R397, R437) and error status (Table 13.1). -/
def writeRecord (bs : List Byte) (s : State) : State :=
  if Config.dumpWriteFails s.clock.now then
    postEvent 0x000D Config.dumpRingName 0x04 (leBytes 4 0)
      (setAer { s with perf := { s.perf with active := false, err := 0x04, waitRec := none } })
  else
    let addr := s.perf.base.toNat + s.perf.slotSize.toNat * 4096 * s.perf.tail.toNat
    let s := s |> hostWrite (addr + 8) (bs.drop 8) |> hostWrite addr (bs.take 8)
    { s with perf := { s.perf with
      tail := BitVec.ofNat 16 ((s.perf.tail.toNat + 1) % s.perf.size.toNat), waitRec := none } }

/-- Every entry that waits is written, ring by ring, and a dump record (R388). -/
def flushWaiting (s : State) : State :=
  if hostOk s then
    let s := s.host.cqs.foldl (fun s q =>
      let w := (getCq s q.1).waiting
      let s := updCq q.1 (fun c => { c with waiting := [] }) s
      w.foldl (fun s e => cqWrite q.1 e.1 e.2.2 s) s) s
    match s.perf.waitRec with
    | some bs => writeRecord bs s
    | none => s
  else s

/-! ## Completions (R401) -/

def stOK : Nat := 0
def stBadDescriptor : Nat := 1
def stNoSlots : Nat := 2
def stDropped : Nat := 3
def stPattern : Nat := 4
def stLevel : Nat := 5
def stFeedShared : Nat := 6
def dtOpcode : Nat := 1
def dtReserved : Nat := 2
def dtRange : Nat := 3
def dtState : Nat := 4
def dtHostRead : Nat := 5
def dtLength : Nat := 6
def dtOrder : Nat := 7
def dtRole : Nat := 8
def dtFull : Nat := 9

/-- A completion entry without its phase bit (Table 13.19). -/
def completionEntry (t : Tok) (status detail arg : Nat) (result : List Byte) : BitVec 512 :=
  BitVec.ofNat 512 (leNat (leBytes 4 t.tag.toNat ++ leBytes 1 status ++ leBytes 1 detail ++ [t.opcode, 0] ++
    leBytes 2 t.sq.toNat ++ leBytes 2 t.sqHead.toNat ++ leBytes 4 0 ++ leBytes 8 arg ++ leBytes 8 0 ++
    (padTo 32 result).take 32))

/-- A command completes: its completion is written against its reservation, unless it was discarded (R389, R397). The last one of
its ring may end the ring's activity, and a fence for which the head waited: it then waits for its completion ring, if that is full
(R394). -/
def complete (t : Tok) (status detail arg : Nat) (result : List Byte) (s : State) : State :=
  match s.host.outstanding.find? (·.id == t.id) with
  | none => s
  | some t =>
    let rest := s.host.outstanding.filter (·.id != t.id)
    let s := { s with host := { s.host with outstanding := rest } }
    let s := if rest.any (·.sq == t.sq) then s
      else updSq t.sq.toNat (fun q => { q with active := q.active && q.enable, stalled := q.stalled || waitsForCq s q }) s
    if t.dead then s
    else
      s |> updCq t.cq.toNat (fun c => { c with reserved := c.reserved - 1 })
        |> cqPut t.cq.toNat (completionEntry t status detail arg result) false (!t.noIrq)

/-- Completion with OK. -/
def ok (t : Tok) (arg : Nat) (result : List Byte) (s : State) : State := complete t stOK 0 arg result s
/-- Completion with BAD_DESCRIPTOR and a detail. -/
def bad (t : Tok) (detail : Nat) (s : State) : State := complete t stBadDescriptor detail 0 [] s

/-! ## Skein memory and hanks (R175 to R179, R185) -/

/-- Bytes of a hank. -/
def hankBytes : Nat := 2097152
/-- Hanks of a skein: 72 GiB (R175). -/
def hanksPerSkein : Nat := 36864

def memGet (m : List Host.Cell) (a : Nat) : Byte := tget 0 m a
def memSet (m : List Host.Cell) (a : Nat) (b : Byte) : List Host.Cell := tset 0 m a b

/-- n bytes from an address. -/
def memRead (m : List Host.Cell) (a n : Nat) : List Byte := (List.range n).map fun i => memGet m (a + i)
/-- Bytes written at rising addresses. -/
def memWrite (m : List Host.Cell) (a : Nat) : List Byte → List Host.Cell
  | [] => m
  | b :: bs => memWrite (memSet m a b) (a + 1) bs

/-- Address of byte o of an array laid in these hanks (R185). -/
def hankAddr (hanks : List Nat) (o : Nat) : Nat := hanks.getD (o / hankBytes) 0 * hankBytes + o % hankBytes

/-- Bytes read from an array of hanks, and counted (Table 15.3). -/
def arrayRead (s : State) (hanks : List Nat) (o n : Nat) : List Byte :=
  (List.range n).map fun i => memGet s.skein.mem (hankAddr hanks (o + i))

/-- A run of bytes cut where it crosses a hank: hank place, offset in it, length. The fuel is the number of hanks. -/
def hankRuns : Nat → Nat → Nat → List (Nat × Nat × Nat)
  | 0, _, _ => []
  | k + 1, o, n =>
    if n = 0 then []
    else
      let m := min n (hankBytes - o % hankBytes)
      (o / hankBytes, o % hankBytes, m) :: hankRuns k (o + m) (n - m)

/-- SKEIN_RD (0x20) or SKEIN_WR (0x21) counted for the hanks of a run. -/
def countSkein (code : Nat) (priv : Nat) (hanks : List Nat) (o n : Nat) (s : State) : State :=
  (hankRuns (hanks.length + 1) o n).foldl (fun s r =>
    count { code := code, priv := some priv, hank := some (hanks.getD r.1 0) } r.2.2 s) s

/-- Bytes written to an array of hanks. -/
def arrayWrite (hanks : List Nat) (o : Nat) (bs : List Byte) (s : State) : State :=
  let m := (hankRuns (hanks.length + 1) o bs.length).foldl
    (fun (a : List Host.Cell × List Byte) r =>
      (memWrite a.1 (hanks.getD r.1 0 * hankBytes + r.2.1) (a.2.take r.2.2), a.2.drop r.2.2)) (s.skein.mem, bs)
  { s with skein := { s.skein with mem := m.1 } }

/-- Memory without the bytes of a hank: it reads all 0 (R186). -/
def memZeroHank (m : List Host.Cell) (h : Nat) : List Host.Cell :=
  m.filter fun c => c.1 / hankBytes != h

/-- A hank's bytes copied to another hank (R189). -/
def memCopyHank (m : List Host.Cell) (src dst : Nat) : List Host.Cell :=
  (m.filter fun c => c.1 / hankBytes == src).foldl
    (fun m c => memSet m (dst * hankBytes + c.1 % hankBytes) c.2) (memZeroHank m dst)

def hankState (s : State) (h : Nat) : HankState := tget .free s.skein.hanks h
def setHank (st : HankState) (h : Nat) (s : State) : State :=
  { s with skein := { s.skein with hanks := tset .free s.skein.hanks h st } }
/-- A hank returned to FREE; a RETIRED hank stays retired (R177). -/
def releaseHank (h : Nat) (s : State) : State := if hankState s h = .retired then s else setHank .free h s

/-- The lowest FREE hank of a skein (R178): the first index, from 0, that the table does not list. -/
def lowestFree (s : State) (skein : Nat) : Option Nat :=
  let taken := (s.skein.hanks.filter fun q => q.1 / 65536 == skein).map fun q => q.1 % 65536
  let i := taken.foldl (fun i k => if k = i then i + 1 else i) 0
  if i < hanksPerSkein then some (skein * 65536 + i) else none

/-- FREE hanks of a skein. -/
def freeHanks (s : State) (skein : Nat) : Nat :=
  hanksPerSkein - (s.skein.hanks.filter fun q => q.1 / 65536 == skein).length

/-- Hank k of an array of ordinal a (R178): the hank, and whether it lies off its skein. -/
def placeHank (s : State) (a k : Nat) : Option (Nat × Bool) :=
  let n := s.config.skeins
  match lowestFree s ((k + a) % n) with
  | some h => some (h, false)
  | none =>
    let best := (List.range n).foldl (fun b j => if freeHanks s b < freeHanks s j then j else b) 0
    (lowestFree s best).map fun h => (h, true)

/-- `n` hanks allocated as one array in a state, zeroed; none when memory is short (R177, R178, R186). An array of 0
hanks is not counted. -/
def allocArray (st : HankState) (n : Nat) (s : State) : Option (List Nat × State) :=
  if n = 0 then some ([], s)
  else
    let a := s.skein.ordinal % s.config.skeins
    let r := (List.range n).foldl (fun (r : Option (List Nat × Bool × State)) k =>
      match r with
      | none => none
      | some (hs, off, s) =>
        match placeHank s a k with
        | none => none
        | some (h, o) =>
          let s := setHank st h s
          some (hs ++ [h], off || o, { s with skein := { s.skein with mem := memZeroHank s.skein.mem h } }))
      (some ([], false, s))
    r.map fun (hs, off, s) =>
      (hs, { s with skein := { s.skein with
        ordinal := s.skein.ordinal + 1
        offSkein := if off then s.skein.offSkein + 1 else s.skein.offSkein } })

/-! ## Cell pools (R165 to R174) -/

/-- Cell size of a pool (Table 6.1). -/
def cellSize (n : Nat) : Nat := 256 * 4 ^ n

/-- The carve applied, at the first moment of R166. -/
def applyCarve (s : State) : State :=
  if s.pools.applied then s
  else
    let c := s.pools.carve.map BitVec.toNat
    let okCarve := decide (((List.range 4).map fun n => c.getD n 0 * cellSize n).sum ≤ 402653184) &&
      c.all fun n => decide (1024 ≤ n)
    let c := if okCarve then c else [65536, 32768, 16384, 17408]
    { s with pools := { s.pools with
        applied := true, err := !okCarve
        pools := c.mapIdx fun i n => { s.pools.pools.getD i {} with cells := n, stack := [], fresh := 0 } } }

def getPool (s : State) (n : Nat) : Pool := s.pools.pools.getD n {}
def updPool (n : Nat) (f : Pool → Pool) (s : State) : State :=
  { s with pools := { s.pools with pools := s.pools.pools.set n (f (getPool s n)) } }

/-- `free` of R168. -/
def poolFreeCount (p : Pool) : Nat := p.stack.length + (p.cells - p.fresh)

/-- The smallest pool that fits b bytes, b ≤ 16 KiB (R167). -/
def poolFor (b : Nat) : Nat := if b ≤ 256 then 0 else if b ≤ 1024 then 1 else if b ≤ 4096 then 2 else 3

/-- Cells of a buffer of b bytes, per pool (R141, R167). -/
def bufferCells (b : Nat) : List Nat :=
  let big := b / 16384
  let rem := b % 16384
  (List.range 4).map fun n => (if n = 3 then big else 0) + (if rem ≠ 0 ∧ poolFor rem = n then 1 else 0)

/-- Cells reserved in every pool as one change (R168, R171); none when a pool is short. -/
def reserveCells (cs : List Nat) (s : State) : Option State :=
  if (List.range 4).all fun n =>
      cs.getD n 0 == 0 || decide (cs.getD n 0 + (getPool s n).held ≤ poolFreeCount (getPool s n)) then
    some ((List.range 4).foldl (fun s n => updPool n (fun p => { p with held := p.held + cs.getD n 0 }) s) s)
  else none

/-- Unused cells of a reservation given back (R168). -/
def unreserveCells (cs : List Nat) (s : State) : State :=
  (List.range 4).foldl (fun s n => updPool n (fun p => { p with held := p.held - cs.getD n 0 }) s) s

/-- A double free counted and reported (R173). -/
def doubleFree (pool cell : Nat) (s : State) : State :=
  postEvent 0x0005 pool cell []
    (count { code := 0x31 } 1 { s with pools := { s.pools with doubleFree := s.pools.doubleFree + 1 } })

/-- A cell popped (R172, R173). A pointer whose bit is already 1 is discarded and counted; the fuel is the depth. -/
def popCell : Nat → Nat → State → Option (Nat × State)
  | 0, _, _ => none
  | k + 1, n, s =>
    let p := getPool s n
    let r : Option (Nat × Pool) := match p.stack with
      | c :: cs => some (c, { p with stack := cs })
      | [] => if p.fresh < p.cells then some (p.fresh, { p with fresh := p.fresh + 1 }) else none
    match r with
    | none => none
    | some (c, p') =>
      if p.used.contains c then popCell k n (doubleFree n c (updPool n (fun _ => p') s))
      else some (c, updPool n (fun _ => { p' with used := c :: p'.used }) s)

/-- A cell allocated against a reservation (R168). -/
def allocReserved (n : Nat) (s : State) : Option (Nat × State) :=
  popCell ((getPool s n).stack.length + (getPool s n).cells + 1) n (updPool n (fun p => { p with held := p.held - 1 }) s)

/-- An unreserved allocation (R170); none with POOL_EMPTY, counted. -/
def allocUnreserved (b priv : Nat) (s : State) : Option (Nat × Nat) × State :=
  let s := applyCarve s
  let n := poolFor b
  let p := getPool s n
  if p.held < poolFreeCount p then
    match popCell (p.stack.length + p.cells + 1) n s with
    | some (c, s) => (some (n, c), s)
    | none => (none, s)
  else
    (none, count { code := 0x30, priv := some priv } 1 (updPool n (fun p => { p with refused := p.refused + 1 }) s))

/-- A cell freed (R173), and added to `held` again when it belongs to a reservation (R168). -/
def freeCell (pool cell : Nat) (reserved : Bool) (s : State) : State :=
  let p := getPool s pool
  if p.used.contains cell then
    updPool pool (fun p => { p with
      used := p.used.filter (· != cell), stack := cell :: p.stack
      held := if reserved then p.held + 1 else p.held }) s
  else doubleFree pool cell s

/-! ## Settings (R263, R411) -/

/-- Reset value of a setting (Tables 8.2, 8.4, 8.6, 8.7, 10.1 to 10.10, 11.9 to 11.11). REF_RELAY follows REF_CTRL. -/
def settingReset (a : Nat) : BitVec 64 :=
  if a = 0x20000 then 0x0000000801000007
  else if a = 0x20001 then BitVec.ofNat 64 (10000 * 2 ^ 40 + 62500 * 2 ^ 8)
  else if 0x30000 ≤ a ∧ a < 0x30080 then BitVec.ofNat 64 (64 * 2 ^ 40 + 0x0820200404)
  else if a = 0x39000 then BitVec.ofNat 64 (10000 * 2 ^ 40 + 10000 * 2 ^ 20 + 10000)
  else if a = 0x39001 then BitVec.ofNat 64 (10000 * 2 ^ 20 + 10000)
  else if a = 0x50000 then 0x000080FF20401010
  else if a = 0x50001 then BitVec.ofNat 64 (14 * 2 ^ 5)
  else if a = 0x50002 then 0x0000041055C08040
  else 0

/-- The committed value of a setting. -/
def setting (s : State) (a : Nat) : Nat := (tget (settingReset a) s.routing.settings a).toNat

def writeSetting (a : Nat) (v : BitVec 64) (s : State) : State :=
  { s with routing := { s.routing with settings := tset (settingReset a) s.routing.settings a v } }

/-! ## Ports (Table 9.2) -/

def peEnable (p : Port) : Bool := bit (efield p.entry 0 1) 0
def peModule (p : Port) : Bool := bit (efield p.entry 0 1) 1
def peReverse (p : Port) : Bool := bit (efield p.entry 0 1) 2
def peWidth (p : Port) : Nat := 2 ^ efield p.entry 1 1
def peBridge (p : Port) : Nat := efield p.entry 2 1
def peFirst (p : Port) : Nat := efield p.entry 3 1
def peDim (p : Port) : Nat := efield p.entry 4 1
def peMaxLevel (p : Port) : Nat := efield p.entry 5 1
def pePeer (p : Port) : Nat := efield p.entry 6 2
def peSerial (p : Port) : Nat := efield p.entry 8 8
def peBuild (p : Port) : Nat := efield p.entry 16 4
def peMaxSym (p : Port) : Nat := efield p.entry 20 1
def peMaxTotal (p : Port) : Nat := efield p.entry 24 4

/-- The port's bit in the port-down vector (R28). -/
def portDown (s : State) (p : Nat) : Bool := s.routing.down.getLsbD p
/-- A port that the neighbour table assigns to a module. -/
def isModPort (s : State) (p : Nat) : Bool := peEnable (getPort s p) && peModule (getPort s p)
/-- A dimension-0 port. -/
def isDim0 (s : State) (p : Nat) : Bool := isModPort s p && peDim (getPort s p) == 0
/-- The lowest live port that satisfies a condition. -/
def lowestLive (s : State) (f : Nat → Bool) : Option Nat := (List.range 128).find? fun p => !portDown s p && f p
/-- The port that leads to an endpoint here. -/
def epPort (s : State) (e : Nat) : Option Nat :=
  (List.range 128).find? fun p => peEnable (getPort s p) && !peModule (getPort s p) && pePeer (getPort s p) == e

def queueOf (s : State) (p sub : Nat) : List QPkt := tget [] (getPort s p).queues sub

/-- The moment at which a packet came to the head of its queue, noted (R249). -/
def headed (now : Nat) : List QPkt → List QPkt
  | [] => []
  | x :: xs => { x with headAt := some (x.headAt.getD now) } :: xs

def updQueue (p sub : Nat) (f : List QPkt → List QPkt) (s : State) : State :=
  updPort p (fun q => { q with queues := tset [] q.queues sub (headed s.clock.now (f (tget [] q.queues sub))) }) s

/-- `max_payload` in units that a packet to this destination may have: the peer's on an endpoint port here, else 32. -/
def unitsTo (s : State) (dst : Nat) : Nat :=
  match (if dst < 0x8000 then epPort s dst else none) with
  | some p => match (getPort s p).peerInit with
    | some i => max 1 (min 32 (field i.hdr 10 2))
    | none => 32
  | none => 32

/-! ## Route lookup (R243 to R252) -/

/-- What a lookup decides. -/
inductive Decision where
  | here
  | refuse (code : Nat)
  | stale
  | out (port sub : Nat)
  | hold (port sub : Nat)
  deriving DecidableEq, Repr

def bankState (s : State) (b : Bool) : BankState := if b then s.routing.bank1 else s.routing.bank0
/-- A bank is CURRENT (R242). -/
def curValid (s : State) : Bool := s.routing.bank0 == .current || s.routing.bank1 == .current

/-- Setting address of a destination's entry in a bank (Table 8.10). -/
def routeAddr (b : Bool) (dst : Nat) : Nat :=
  0x10000 * b2n b + (if 0x8000 ≤ dst then 0x8000 + dst % 2048 else dst)
/-- A destination's route entry. -/
def routeEntry (s : State) (b : Bool) (dst : Nat) : Nat := setting s (routeAddr b dst)

/-- The twist rule (R238). -/
def neighbour (x k d : Nat) : Nat :=
  let y := x ^^^ (1 <<< k)
  if 1 ≤ k ∧ k + 2 ≤ d - 1 then y ^^^ ((bits x (k + 1) (k + 1)) <<< (k + 2)) else y

/-- The dimension R244 names from c towards module t; none where c = t. -/
def escapeDim (c t d : Nat) : Option Nat :=
  match (List.range (d - 1)).find? fun k => bit (c ^^^ t) (k + 1) with
  | some k => some (k + 1)
  | none => if c ≠ t then some 0 else none

/-- A destination the module delivers to itself: its label, or its partner's adopted label (R337). -/
def forMe (s : State) (dst : Nat) : Bool :=
  dst == modAddr s.label || (s.course.adopted && dst == modAddr s.partnerLabel)

/-- The adaptive candidate of R248. -/
def chooseCandidate (s : State) (e vl : Nat) : Option Nat :=
  let thresh := bits (setting s 0x20000) 39 32
  let sub := (subsOf vl).headD 0
  let cands := ((List.range 4).map fun i => bits e (8 * i + 15) (8 * i + 8)).filter fun c =>
    bit c 7 && !portDown s (c % 128) && decide ((queueOf s (c % 128) sub).length < thresh)
  (cands.foldl (fun (b : Option (Nat × Nat)) c =>
    let n := (queueOf s (c % 128) sub).length
    match b with
    | some (m, _) => if n < m then some (n, c % 128) else b
    | none => some (n, c % 128)) none).map (·.2)

/-- The class is routed adaptively (Table 8.4). -/
def classAdaptive (s : State) (vl : Nat) : Bool :=
  let r := setting s 0x20000
  (vl == 1 && bit r 0) || (vl == 2 && bit r 1) || (vl == 5 && bit r 2)

/-- The local detour of a lookup whose escape port is lost (R252): a port, or none to hold the packet. -/
def detour (s : State) (dst inPort p : Nat) : Option Nat :=
  let e := getPort s p
  let dim0 := lowestLive s (isDim0 s)
  match lowestLive s fun q => peModule e && isModPort s q && q != p && pePeer (getPort s q) == pePeer e with
  | some q => some q
  | none =>
    if isDim0 s inPort then none
    else if peModule e then (if 1 ≤ peDim e then dim0 else none)
    else if dst < 0x8000 ∧ pePeer e = dst then dim0 else none

/-- The lookup of R243 for a packet stamped already; `escOnly` for R249. -/
def lookupStamped (s : State) (pkt : Packet) (inPort : Nat) (escOnly : Bool) : Packet × Decision :=
  if bankState s (pEpoch pkt) = .retired then (pkt, .stale)
  else if forMe s (pDst pkt) then (pkt, .here)
  else
    let e := routeEntry s (pEpoch pkt) (pDst pkt)
    if !bit e 63 then (pkt, .refuse 4)
    else
      let vl := pVl pkt
      let cand := if classAdaptive s vl && !pEsc pkt && !escOnly then chooseCandidate s e vl else none
      match cand with
      | some p => (pkt, .out p ((subsOf vl).headD 0))
      | none =>
        let p := bits e 6 0
        let sub := (subsOf vl).getLastD 0
        match if portDown s p then detour s (pDst pkt) inPort p else some p with
        | some q => (stamp pkt (adaptiveVl vl) (pEpoch pkt), .out q sub)
        | none => (pkt, .hold p sub)

/-- The lookup of R243, with the fresh stamp of a stale control packet (R258). Where no bank is CURRENT there is no epoch to
stamp it with, and it stays stale: it is dropped and counted as one (DESIGN CHOICE, log entry 100). -/
def lookup (s : State) (pkt : Packet) (inPort : Nat) (injected escOnly : Bool) : Packet × Decision :=
  if injected then
    if curValid s then lookupStamped s (stamp pkt false s.routing.epoch) inPort escOnly else (pkt, .refuse 4)
  else
    match lookupStamped s pkt inPort escOnly with
    | (q, .stale) =>
      if pIsCtl pkt && pType pkt != 0x43 && pType pkt != 0x4C && curValid s then
        lookupStamped s (stamp pkt (pEsc pkt) s.routing.epoch) inPort escOnly
      else (q, .stale)
    | r => r

/-- A live route: the packet goes out, or is for this module. -/
def isLive : Decision → Bool
  | .out _ _ | .here => true
  | _ => false

/-- A lookup resolved by rules 1 to 3 of R252 (DETOUR of Table 15.3). -/
def isDetour (s : State) (pkt : Packet) : Decision → Bool
  | .out q _ => pEsc pkt == adaptiveVl (pVl pkt) && bits (routeEntry s (pEpoch pkt) (pDst pkt)) 6 0 != q &&
      portDown s (bits (routeEntry s (pEpoch pkt) (pDst pkt)) 6 0)
  | _ => false

/-! ## Receive buffers and credits (R168, R208) -/

/-- The receiver's count of a sub-lane moved on, and a CREDIT due (R199, R208). -/
def freeCredit (now sub : Nat) (q : Port) : Port :=
  let c : Credit := tget {} q.credits sub
  { q with credits := tset {} q.credits sub { c with freed := c.freed + 1, dueAt := some (c.dueAt.getD now) } }

/-- A received packet's buffer released: its cell freed, its credit returned (R208). -/
def releaseBuf (q : QPkt) (s : State) : State :=
  let s := { s with routing := { s.routing with quietAt := s.clock.now } }
  let s := match q.cell with
    | some (n, c) => freeCell n c (q.inSub != 9) s
    | none => s
  if q.inSub < 9 ∧ q.inPort < 128 then
    updPort q.inPort (freeCredit s.clock.now q.inSub) s
  else s

/-! ## Meters and egress queues (R306, R312 to R314) -/

/-- A control packet that cannot leave flushed and counted (R253, R315). -/
def flush (port sub : Nat) (q : QPkt) (s : State) : State :=
  let e : PEv :=
    { code := 0x08, priv := some q.priv, port := some port, src := if pSrcMod q.pkt then none else some (pSrc q.pkt)
      sub := some sub }
  let s := updPort port (fun p => { p with counts := { p.counts with aged := p.counts.aged + 1 } }) s
  releaseBuf q (drop port 12 (count e 1 s))

/-- Colours of a metered packet. -/
inductive Colour where
  | green
  | yellow
  | red
  deriving DecidableEq, Repr

/-- Arithmetic of R313: unsigned, 64 bit. -/
def u64 (n : Nat) : Nat := n % 2 ^ 64
def sub64 (a b : Nat) : Nat := u64 (a + 2 ^ 64 - u64 b)

/-- `meter` of R313 on METER_A and METER_B. -/
def meterColour (a b : Nat) (m : Meter) (t cost : Nat) : Colour × Meter :=
  let cir := bits a 19 0
  let pir := bits a 39 20
  let mode := bit a 62
  let capC := bits b 23 0 * 1250
  let capE := bits b 47 24 * 1250
  if cir = 0 ∨ (mode ∧ pir = 0) then (.red, m)
  else
    let n := sub64 t m.last
    if !mode then
      let add := min (u64 (n * cir)) (sub64 capC m.tc)
      let tc := u64 (m.tc + add)
      let te := min (sub64 (m.te + n * cir) add) capE
      if cost ≤ tc then (.green, { m with last := t, tc := tc - cost, te := te })
      else if cost ≤ te then (.yellow, { m with last := t, tc := tc, te := te - cost })
      else (.red, { m with last := t, tc := tc, te := te })
    else
      let tp := min (u64 (m.te + n * pir)) capE
      let tc := min (u64 (m.tc + n * cir)) capC
      if tp < cost then (.red, { m with last := t, tc := tc, te := tp })
      else if tc < cost then (.yellow, { m with last := t, tc := tc, te := tp - cost })
      else (.green, { m with last := t, tc := tc - cost, te := tp - cost })

/-- The meter of a packet that joins a VL5 queue of a port, if any (R312). -/
def meterOf (s : State) (port : Nat) (p : Packet) : Option Nat :=
  let map := setting s (0x40000 + pSrc p)
  if pVl p == 5 && bit (setting s (0x30000 + port)) 52 && !pSrcMod p && bit map 15 &&
      bit (setting s (0x38000 + bits map 9 0)) 63 then some (bits map 9 0) else none

/-- VL5 packets queued at a port, over both sub-lanes. -/
def vl5Queued (s : State) (port : Nat) : Nat := (queueOf s port 7).length + (queueOf s port 8).length

/-- The privilege of a queued packet's work (R432). -/
def privOf (q : QPkt) : Nat := q.priv
/-- The endpoint a packet comes from, as an attribute. -/
def srcAttr (p : Packet) : Option Nat := if pSrcMod p then none else some (pSrc p)

/-- A packet joins an egress queue (R306), metered on VL5 (R312 to R314). -/
def enqueue (port sub : Nat) (q : QPkt) (s : State) : State :=
  let join (s : State) : State :=
    let s := updQueue port sub (· ++ [{ q with enq := s.clock.now, headAt := none }]) s
    updPort port (fun p =>
      let st : QueueStat := tget {} p.stats sub
      let n := min 65535 (tget [] p.queues sub).length
      { p with stats := tset {} p.stats sub { st with depthMax := max st.depthMax n } }) s
  match meterOf s port q.pkt with
  | none => join s
  | some n =>
    let size := packetSize q.pkt
    let m : Meter := tget {} s.traffic.meters n
    let (c, m) := meterColour (setting s (0x38000 + n)) (setting s (0x38400 + n)) m (fabricTime s) (size * 1250)
    let z := BitVec.ofNat 48 size
    let full := decide (bits (setting s (0x30000 + port)) 51 40 ≤ vl5Queued s port)
    let m := match c with
      | .green => { m with green := m.green + 1, greenB := m.greenB + z }
      | .yellow => { m with yellow := m.yellow + 1, yellowB := m.yellowB + z,
                            discards := if full then m.discards + 1 else m.discards }
      | .red => { m with red := m.red + 1, redB := m.redB + z }
    let s := { s with traffic := { s.traffic with meters := tset {} s.traffic.meters n m } }
    match c with
    | .green => join s
    | .yellow => if full then releaseBuf q (drop port 14 s) else join s
    | .red => releaseBuf q (drop port 14 s)

/-- Types that a module does nothing with when they are addressed to it. -/
def isIdleType (t : Nat) : Bool := t == 0x40 || t == 0x45 || t == 0x54 || t == 0x55 || t == 0x56

/-- Control packets in the headstock's queue are at most 16,384 (R256). -/
def deliver (q : QPkt) (s : State) : State :=
  if isIdleType (pType q.pkt) then releaseBuf q s
  else if pIsCtl q.pkt && decide (16384 ≤ (s.routing.inbox.filter fun x => pIsCtl x.pkt).length) then
    releaseBuf q (drop 128 19 { s with routing := { s.routing with inboxLost := s.routing.inboxLost + 1 } })
  else { s with routing := { s.routing with inbox := s.routing.inbox ++ [{ q with enq := s.clock.now }] } }

/-- The NACK that answers a refused packet with a code (R221, R243); none for types that are dropped. An E_NACK, whose body
does not name the flow, has the refused packet's `dst` as its `src` (DEDUCED, log entry 27). -/
def nackFor (s : State) (p : Packet) (code cum : Nat) : Option Packet :=
  let me := modAddr s.label
  match pType p with
  | 0x01 => some (ctlPacket 0x42 2 (pSrc p) (pDst p)
      [(6, 1, code), (8, 4, pFlowSeq p), (12, 4, cum), (16, 2, pIncarn p), (18, 1, 0x01)])
  | 0x43 => some (ctlPacket 0x42 2 (pSrc p) (pDst p)
      [(6, 1, code), (8, 4, field p.hdr 8 4), (12, 4, cum), (16, 2, field p.hdr 28 2), (18, 1, 0x43)])
  | 0x10 | 0x11 | 0x12 | 0x13 | 0x4C =>
    some (ctlPacket 0x4B 0 (pSrc p) me [(6, 1, code), (8, 32, p.hdr.toNat)])
  | _ => none

/-- The bank of a packet is RETIRED at this hop (R258). -/
def isStale (s : State) (q : QPkt) (injected : Bool) : Bool := !injected && bankState s (pEpoch q.pkt) == .retired

/-- STALE of Table 15.3 counted for a packet, also where it is stamped anew and goes on. -/
def countStale (q : QPkt) (injected : Bool) (s : State) : State :=
  if isStale s q injected then
    count { code := 0x0E, port := some (min q.inPort 128), src := srcAttr q.pkt, sub := sublane q.pkt } 1 s
  else s

/-- A packet looked up and sent on its way (R243, R254, R315): the state, and the code of a refusal to be answered. -/
def routeOnce (q : QPkt) (injected escOnly : Bool) (s : State) : State × Option Nat :=
  let s := countStale q injected s
  match lookup s q.pkt q.inPort injected escOnly with
  | (p, .here) => (deliver { q with pkt := p } s, none)
  | (_, .refuse c) => (releaseBuf q (drop (min q.inPort 128) 10 s), some c)
  | (_, .stale) => (releaseBuf q (drop (min q.inPort 128) 11 s), some 2)
  | (p, .out port sub) =>
    let s := if isDetour s p (.out port sub) then
      count { code := 0x0C, priv := some (privOf q), port := some port, src := srcAttr p, sub := some sub } 1 s else s
    (enqueue port sub { q with pkt := p } s, none)
  | (p, .hold port sub) =>
    if pIsCtl p then (flush port sub { q with pkt := p } s, none)
    else (enqueue port sub { q with pkt := p, held := true } s, none)

/-- A packet of this module's own making that takes no cell sent; a refusal of it is dropped. -/
def sendOwn (p : Packet) (s : State) : State := (routeOnce { pkt := p, inPort := 128, enq := s.clock.now } true false s).1

/-- A frame that the headstock originates, against the unreserved account: refused a cell, it is not sent (R170, R432; which
packets are such frames is log entry 29). -/
def sendCtl (p : Packet) (s : State) : State :=
  match allocUnreserved (packetSize p) 2 s with
  | (some c, s) => (routeOnce { pkt := p, inPort := 128, enq := s.clock.now, cell := some c, priv := 2 } true false s).1
  | (none, s) => s

/-- NACKs of a bridge that wait in its ports' queues. -/
def nacksOf (s : State) (bridge : Nat) : Nat :=
  ((s.ports.flatMap fun q => q.2.queues.flatMap (·.2)).filter (·.inPort == 129 + bridge)).length

/-- A NACK originated for a packet by the bridge of a port (NACK_SENT of Table 15.3), unless the bridge's queue of 64 is
full (R318). One for a packet of this module's own needs no route: it is delivered, also while no bank is CURRENT (Table 13.26;
DEDUCED, log entry 114). -/
def sendNackCum (p : Packet) (port code cum : Nat) (s : State) : State :=
  match nackFor s p code cum with
  | some n =>
    let b := if port < 128 then peBridge (getPort s port) else 0
    if 64 ≤ nacksOf s b then { s with routing := { s.routing with nackLost := s.routing.nackLost + 1 } }
    else
      let x : QPkt := { pkt := n, inPort := 129 + b, enq := s.clock.now }
      let s := count { code := 0x09, port := some (min port 128), src := srcAttr p, sub := sublane p } 1 s
      if forMe s (pDst n) then deliver x s else (routeOnce x true false s).1
  | none => s

def sendNack (p : Packet) (port code : Nat) (s : State) : State := sendNackCum p port code 0 s

/-- A packet routed, and answered where it is refused or stale (R243, R258). -/
def route (q : QPkt) (injected escOnly : Bool) (s : State) : State :=
  match routeOnce q injected escOnly s with
  | (s, some c) => sendNack q.pkt q.inPort c s
  | (s, none) => s

/-- A data packet or request of this module's own buffers sent. -/
def originateOwn (p : Packet) (s : State) : State := route { pkt := p, inPort := 128, enq := s.clock.now } true false s

/-- A packet of the module's flows sent, against the unreserved account. R170 names the headstock's frames, the copies of samples
and the packets that the host injects: PUTs of mirror writes, of records and reports, and GET_DATA are charged to it as well (DESIGN
CHOICE, log entry 29). -/
def originate (priv : Nat) (p : Packet) (s : State) : State :=
  match allocUnreserved (packetSize p) priv s with
  | (some c, s) => route { pkt := p, inPort := 128, enq := s.clock.now, cell := some c, priv := priv } true false s
  | (none, s) => s

/-- Such a packet sent, in the cell that it has had since it was injected (R409). -/
def originateIn (cell : Option (Nat × Nat)) (priv : Nat) (p : Packet) (s : State) : State :=
  match cell with
  | some c => route { pkt := p, inPort := 128, enq := s.clock.now, cell := some c, priv := priv } true false s
  | none => originate priv p s

/-- A delivered packet consumed: taken from the inbox if it is there, its buffer released. -/
def consume (p : Packet) (s : State) : State :=
  match s.routing.inbox.find? (·.pkt == p) with
  | some q =>
    releaseBuf q { s with routing := { s.routing with inbox := s.routing.inbox.erase q } }
  | none => s

/-! ## Row counters (R405, R406, R233) -/

def rowValue (s : State) (n : Nat) : Nat := (tget 0 s.rows.value n).toNat

def setRow (n v : Nat) (s : State) : State :=
  { s with rows := { s.rows with value := tset 0 s.rows.value n (BitVec.ofNat 64 v) } }

/-- ROW_NOTIFY to an endpoint waiter (R233). -/
def rowNotify (src row tag code value : Nat) (s : State) : State :=
  sendCtl (ctlPacket 0x45 2 src (modAddr s.label) [(6, 1, code), (8, 2, row), (12, 4, tag), (16, 8, value)]) s

/-- Waiters of a counter that has reached their thresholds complete, oldest first (R406, R233). -/
def wakeRow (n : Nat) (s : State) : State :=
  let v := rowValue s n
  let hot := s.rows.hostW.filter fun w => w.row.toNat == n && decide (w.threshold.toNat ≤ v)
  let ehot := s.rows.epW.filter fun w => w.row.toNat == n && decide (w.threshold.toNat ≤ v)
  let s := { s with rows := { s.rows with
    hostW := s.rows.hostW.filter (fun w => !(w.row.toNat == n && decide (w.threshold.toNat ≤ v)))
    epW := s.rows.epW.filter (fun w => !(w.row.toNat == n && decide (w.threshold.toNat ≤ v))) } }
  let s := forEach hot (fun w => ok w.tok v [1]) s
  forEach ehot (fun w => rowNotify w.src.toNat n w.tag.toNat 0 v) s

/-- An increment modulo 2⁶⁴ (R405). -/
def addRow (n inc : Nat) (s : State) : State := wakeRow n (setRow n (rowValue s n + inc) s)

/-- Host waiters on a range of counters released with its last values (R406). -/
def releaseHostRows (base n : Nat) (s : State) : State :=
  let inR (r : Nat) : Bool := decide (base ≤ r ∧ r < base + n)
  let hot := s.rows.hostW.filter fun w => inR w.row.toNat
  let s := { s with rows := { s.rows with hostW := s.rows.hostW.filter (fun w => !inR w.row.toNat) } }
  forEach hot (fun w => ok w.tok (rowValue s w.row.toNat) [0]) s

/-- Waiters on a range of counters released with their last values (R406, R233). -/
def releaseRows (base n : Nat) (s : State) : State :=
  let inR (r : Nat) : Bool := decide (base ≤ r ∧ r < base + n)
  let s := releaseHostRows base n s
  let ehot := s.rows.epW.filter fun w => inR w.row.toNat
  let s := { s with rows := { s.rows with epW := s.rows.epW.filter (fun w => !inR w.row.toNat) } }
  forEach ehot (fun w => rowNotify w.src.toNat w.row.toNat w.tag.toNat 0 (rowValue s w.row.toNat)) s

end Sys2Proof.Machine
end

