-- ==== Sys2Proof/Machine/DroneLine.lean ====
section
/-!
DEFINITION. The line code of drone lanes (R275, R276): 8b/10b with its running disparity, ordered sets and frames as code groups
(R277 to R280), what a lane sends next, and why received code groups are discarded. The tables of the code are those of IEEE
802.3 Clause 36, which R275 names and does not print (PRESUMED, log entry 108).
-/
namespace Sys2Proof.Machine

/-! ## K-codes (Table 9.3) -/

def kComma : Byte := 0xBC
def kBeat : Byte := 0x3C
def kTmark : Byte := 0x1C
def kSof : Byte := 0xFB
def kSou : Byte := 0x7C
def kEof : Byte := 0xFD
def kAbt : Byte := 0xFE
/-- K-codes that are never sent. -/
def kNever : List Byte := [0x5C, 0x9C, 0xDC, 0xFC, 0xF7]

/-! ## 8b/10b -/

/-- abcdei of x = EDCBA at negative disparity. -/
def sixTable : List Nat :=
  [0b100111, 0b011101, 0b101101, 0b110001, 0b110101, 0b101001, 0b011001, 0b111000,
   0b111001, 0b100101, 0b010101, 0b110100, 0b001101, 0b101100, 0b011100, 0b010111,
   0b011011, 0b100011, 0b010011, 0b110010, 0b001011, 0b101010, 0b011010, 0b111010,
   0b110011, 0b100110, 0b010110, 0b110110, 0b001110, 0b101110, 0b011110, 0b101011]
/-- fghj of y = HGF at negative disparity, in data and in a K-code. -/
def fourTable : List Nat := [0b1011, 0b1001, 0b0101, 0b1100, 0b1101, 0b1010, 0b0110, 0b1110]
def fourK : List Nat := [0b1011, 0b0110, 0b1010, 0b1100, 0b1101, 0b0101, 0b1001, 0b0111]

/-- Ones among the low n bits. -/
def ones (n v : Nat) : Nat := ((List.range n).filter (v.testBit ·)).length

/-- abcdei at a running disparity: an unbalanced block, and x = 7, is complemented at positive disparity. -/
def sixBits (rd isK : Bool) (x : Nat) : Nat :=
  let v := if isK ∧ x = 28 then 0b001111 else sixTable.getD x 0
  if rd ∧ (ones 6 v ≠ 3 ∨ x = 7) then 63 - v else v

/-- fghj at the disparity after abcdei. The alternative form of y = 7 keeps five equal bits apart. -/
def fourBits (rd isK : Bool) (x y : Nat) : Nat :=
  let alt := y = 7 ∧ (if rd then x = 11 ∨ x = 13 ∨ x = 14 else x = 17 ∨ x = 18 ∨ x = 20)
  let v := if isK then fourK.getD y 0 else if alt then 0b0111 else fourTable.getD y 0
  if rd ∧ (isK ∨ ones 4 v ≠ 2 ∨ y = 3) then 15 - v else v

/-- Disparity after a block of n bits. -/
def nextDisp (n v : Nat) (rd : Bool) : Bool := if 2 * ones n v = n then rd else !rd

def CodeGroup.byte : CodeGroup → Byte
  | .data b => b
  | .k b => b
def CodeGroup.isK : CodeGroup → Bool
  | .data _ => false
  | .k _ => true

/-- A code group encoded at a running disparity: its ten bits, a in bit 9, and the disparity after it. -/
def encodeGroup (rd : Bool) (c : CodeGroup) : BitVec 10 × Bool :=
  let x := c.byte.toNat % 32
  let y := c.byte.toNat / 32
  let six := sixBits rd c.isK x
  let rd6 := nextDisp 6 six rd
  let four := fourBits rd6 c.isK x y
  (BitVec.ofNat 10 (six * 16 + four), nextDisp 4 four rd6)

/-- Every K-code. -/
def kCodes : List Byte := [kComma, kBeat, kTmark, kSof, kSou, kEof, kAbt] ++ kNever

/-- The code group that ten bits are at a running disparity; none for an invalid one or one of the other disparity. -/
def decodeGroup (rd : Bool) (g : BitVec 10) : Option CodeGroup :=
  match kCodes.find? fun b => (encodeGroup rd (.k b)).1 == g with
  | some b => some (.k b)
  | none =>
    (List.range 32).findSome? fun x =>
      if sixBits rd false x = g.toNat / 16 then
        ((List.range 8).find? fun y => (encodeGroup rd (.data (BitVec.ofNat 8 (y * 32 + x)))).1 == g).map
          fun y => .data (BitVec.ofNat 8 (y * 32 + x))
      else none

/-- Code groups from one on, at a running disparity; none at a code error, and a K-code that is never sent is one. -/
def decodeGroups (rd : Bool) : List (BitVec 10) → Option (List CodeGroup)
  | [] => some []
  | g :: gs => match decodeGroup rd g with
    | none => none
    | some c =>
      if c.isK ∧ kNever.contains c.byte then none else (decodeGroups (encodeGroup rd c).2 gs).map (c :: ·)

/-! ## Frames received (R279) -/

/-- Why a code group or a frame is discarded. -/
inductive FrameError where
  | code        -- an invalid code group, or the wrong running disparity
  | crc         -- the frame's CRC-32C fails
  | length      -- its length disagrees with `flen`
  | cut         -- ABT or SOU ends it
  | unassigned  -- its `ftype` is not in Table 9.4
  deriving DecidableEq, Repr, Inhabited

/-- Code groups without the ordered sets that stand between them (R276); the fuel is their number. -/
def stripSets : Nat → List CodeGroup → List CodeGroup
  | 0, _ => []
  | _, [] => []
  | n + 1, c :: cs =>
    if c = .k kComma then stripSets n cs
    else if c = .k kBeat then stripSets n (cs.drop 1)
    else if c = .k kTmark then stripSets n (cs.drop 9)
    else c :: stripSets n cs

/-- An `ftype` of Table 9.4 that is assigned: of the urgent frames, those of Table 11.5 (R333). -/
def ftypeKnown (t : Nat) : Bool := decide ((1 ≤ t ∧ t ≤ 3) ∨ (0x10 ≤ t ∧ t ≤ 0x1B))

/-- The check of a frame's bytes, `ftype` to CRC-32C. -/
def frameBytesFault (bs : List Byte) : Option FrameError :=
  let n := bs.length
  if n < 6 ∨ n ≠ leAt bs 1 1 + 6 then some .length
  else if leAt bs (n - 4) 4 ≠ (crc32c (bs.take (n - 4))).toNat then some .crc
  else if ftypeKnown (leAt bs 0 1) then none
  else some .unassigned

/-- Why received code groups are discarded; none where they are not. The first one gives the running disparity. -/
def frameFault (groups : List (BitVec 10)) : Option FrameError :=
  let rd := (groups.head?.bind (decodeGroup false)).isNone
  match decodeGroups rd groups with
  | none => some .code
  | some cs => match stripSets cs.length cs with
    | .k b :: rest =>
      if b = kSof ∨ b = kSou then
        let bytes := (rest.takeWhile (!·.isK)).map CodeGroup.byte
        match rest.dropWhile (!·.isK) with
        | .k e :: _ =>
          if e = kEof then frameBytesFault bytes else if e = kAbt ∨ e = kSou then some .cut else some .length
        | _ => none
      else none
    | _ => none

/-! ## What a lane sends (R276 to R280) -/

/-- A frame as code groups: its start, `ftype`, `flen`, body, CRC-32C and EOF (R279). -/
def frameGroups (start : Byte) (ftype : Nat) (body : List Byte) : List CodeGroup :=
  let bs := leBytes 1 ftype ++ leBytes 1 body.length ++ body
  .k start :: (bs ++ leBytes 4 (crc32c bs).toNat).map .data ++ [.k kEof]

/-- A frame or ordered set as it leaves now: its departure's time is written into it (R278, R300). -/
def lineGroups (s : State) : DroneOut → List CodeGroup
  | .beat b => [.k kBeat, .data b]
  | .tmark _ _ =>
    let v := leBytes 8 (fabricTime s)
    .k kTmark :: (v ++ [crc8 v]).map .data
  | .hello body => frameGroups kSof 0x01 (leBytes 28 body.toNat)
  | .delayReq id _ => frameGroups kSof 0x02 (leBytes 4 id.toNat ++ leBytes 8 s.clock.fine)
  | .delayResp id t1 t2 _ =>
    frameGroups kSof 0x03 (leBytes 4 id.toNat ++ leBytes 8 t1.toNat ++ leBytes 8 t2.toNat ++ leBytes 8 s.clock.fine)
  | .urgent ftype body => frameGroups kSou ftype.toNat (leBytes 24 body.toNat)

/-- A lane given a frame or an ordered set to send. -/
def giveLine (f : DroneOut) (d : Drone) : Drone :=
  match f with
  | .beat _ | .tmark _ _ => { d with txSets := d.txSets ++ [f] }
  | .urgent _ _ => { d with txUrgent := d.txUrgent ++ [f] }
  | .hello _ | .delayReq _ _ | .delayResp _ _ _ _ => { d with txFrames := d.txFrames ++ [f] }

/-- A frame begins: its first code group, and the rest of it. -/
def openFrame (s : State) (f : DroneOut) (d : Drone) : CodeGroup × Drone :=
  let gs := lineGroups s f
  (gs.headD (.k kComma), { d with txRest := gs.drop 1 })

/-- An ordered set begins; when it does is kept (R277, R278). -/
def openSet (s : State) (f : DroneOut) (d : Drone) : CodeGroup × Drone :=
  let gs := lineGroups s f
  let d := match f with
    | .beat _ => { d with beatAt := some s.clock.now }
    | _ => { d with tmarkAt := some s.clock.now }
  (gs.headD (.k kComma), { d with txSet := gs.drop 1 })

/-- The next code group of the frame under way, the first of the next one, or COMMA. -/
def lineFrame (s : State) (d : Drone) : CodeGroup × Drone :=
  match d.txRest with
  | c :: cs => (c, { d with txRest := cs, txFrame := if cs.isEmpty then none else d.txFrame })
  | [] => match d.txFrames with
    | f :: fs => openFrame s f { d with txFrames := fs, txFrame := some f }
    | [] => (.k kComma, d)

/-- The next code group where no urgent frame begins: a COMMA that is due within 256 code groups, the next ordered set, a frame,
or COMMA. An ordered set is ten code groups at most. -/
def lineOrdinary (s : State) (d : Drone) : CodeGroup × Drone :=
  if 244 ≤ d.sinceComma then (.k kComma, d)
  else match d.txSets with
    | f :: fs => openSet s f { d with txSets := fs }
    | [] => lineFrame s d

/-- The next code group of a lane: of the ordered set under way; an urgent frame that is ready begins at once, unless another is
under way, and an ordinary frame that it cuts off is sent again whole after it (R280). -/
def lineNext (s : State) (d : Drone) : CodeGroup × Drone :=
  match d.txSet with
  | c :: cs => (c, { d with txSet := cs })
  | [] =>
    if d.txFrame.isNone ∧ !d.txRest.isEmpty then lineOrdinary s d
    else match d.txUrgent with
      | f :: fs => openFrame s f { d with txUrgent := fs, txFrames := d.txFrame.toList ++ d.txFrames, txFrame := none }
      | [] => lineOrdinary s d

/-- A lane's code group of this tick on its pins, encoded. -/
def sendGroup (s : State) (d : Drone) : Drone :=
  let (c, d) := lineNext s d
  let (g, rd) := encodeGroup d.txDisp c
  { d with pins := some g, txDisp := rd, sinceComma := if c = .k kComma then 0 else d.sinceComma + 1 }

end Sys2Proof.Machine
end

