-- ==== Sys2Proof/Machine/Crypto.lean ====
section
/-!
DEFINITION. The two standards the manual names without printing them: SHA-512 (FIPS 180-4) and Ed25519 in its pure
form (RFC 8032). PRESUMED: both are taken from those standards (log entry 5).
-/
namespace Sys2Proof.Machine

/-! ## SHA-512 -/

/-- A word: 64 bits. -/
def shaWord (x : Nat) : Nat := x % 2 ^ 64

/-- The greatest r below 2^n with r^k at most x, found from its highest bit down; `r` holds the bits found. -/
def rootFrom (k x : Nat) : Nat → Nat → Nat
  | 0, r => r
  | n + 1, r => rootFrom k x n (if (r + 2 ^ n) ^ k ≤ x then r + 2 ^ n else r)

/-- The first 64 bits of the fraction of the k-th root of p. -/
def rootFraction (k p : Nat) : Nat := shaWord (rootFrom k (p * 2 ^ (64 * k)) 70 0)

/-- The 80 prime numbers below 410. -/
def shaPrimes : List Nat := (List.range 410).filter fun p => 2 ≤ p && (List.range p).all fun d => d < 2 || p % d != 0

/-- The constants of the 80 rounds: fractions of cube roots of primes. -/
def shaConstants : List Nat := shaPrimes.map (rootFraction 3)

/-- The hash value to begin with: fractions of square roots of the first eight primes. -/
def shaStart : List Nat := (shaPrimes.take 8).map (rootFraction 2)

/-- A word turned right by each amount, and what comes of it combined by exclusive or with `x`. -/
def turnMix (turns : List Nat) (w x : Nat) : Nat :=
  turns.foldl (fun m n => m ^^^ (w >>> n) ^^^ shaWord (w <<< (64 - n))) x

/-- The word that follows sixteen words of the message schedule. -/
def scheduleNext (ws : List Nat) : Nat :=
  let from2 := ws.getD 14 0
  let from15 := ws.getD 1 0
  shaWord (ws.headD 0 + turnMix [1, 8] from15 (from15 >>> 7) + ws.getD 9 0 + turnMix [19, 61] from2 (from2 >>> 6))

/-- A round over the eight working words, a to h in order. A bit of e chooses f's or g's; the bit that two of a, b and c
have is their majority. -/
def shaStir (vars : List Nat) (input : Nat) : List Nat :=
  match vars with
  | [a, b, c, d, e, f, g, h] =>
    let into := h + input + turnMix [14, 18, 41] e 0 + (g ^^^ (e &&& (f ^^^ g)))
    shaWord (into + turnMix [28, 34, 39] a 0 + ((a &&& b) ||| (c &&& (a ||| b)))) :: a :: b :: c :: shaWord (d + into) ::
      [e, f, g]
  | other => other

/-- The rounds, one for each constant, while the window of sixteen schedule words moves on. -/
def shaStirs (constants ws vars : List Nat) : List Nat :=
  (constants.foldl (fun (st : List Nat × List Nat) k =>
    (st.1.tail ++ [scheduleNext st.1], shaStir st.2 (k + st.1.headD 0))) (ws, vars)).2

/-- One block of 128 bytes taken into the hash value. -/
def shaAbsorb (hash : List Nat) (block : List Byte) : List Nat :=
  List.zipWith (fun x y => shaWord (x + y)) hash (shaStirs shaConstants ((chunksOf 8 block).map beNat) hash)

/-- A message followed by a 1 bit, as few 0 bits as fill the last block, and its length in bits. -/
def shaFill (m : List Byte) : List Byte :=
  let tail : List Byte := 0x80 :: List.replicate (127 - (m.length + 16) % 128) 0
  m ++ tail ++ beBytes 16 (8 * m.length)

/-- SHA-512 as 64 bytes. -/
def sha512 (m : List Byte) : List Byte :=
  ((chunksOf 128 (shaFill m)).foldl shaAbsorb shaStart).flatMap (beBytes 8)

/-- The first 8 bytes of a SHA-512 digest, as the manual's 64-bit fields carry them. -/
def sha8 (m : List Byte) : BitVec 64 := BitVec.ofNat 64 (leNat ((sha512 m).take 8))

/-! ## Ed25519 -/

/-- 2^255 − 19. -/
def edP : Nat := 2 ^ 255 - 19

/-- The order of the base point. -/
def edL : Nat := 2 ^ 252 + 27742317777372353535851937790883648493

/-- b^e mod m over `n` bits of e. -/
def powMod (m : Nat) : Nat → Nat → Nat → Nat → Nat
  | 0, _, _, acc => acc
  | n + 1, b, e, acc => powMod m n (b * b % m) (e / 2) (if e % 2 = 1 then acc * b % m else acc)

/-- Inverse modulo p. -/
def edInv (x : Nat) : Nat := powMod edP 256 x (edP - 2) 1

/-- The curve constant d = −121665 / 121666. -/
def edD : Nat := (edP - 121665) * edInv 121666 % edP

/-- A point in extended coordinates (X, Y, Z, T). -/
structure EdPoint where
  x : Nat
  y : Nat
  z : Nat
  t : Nat
  deriving DecidableEq, Repr

/-- Subtraction modulo p. -/
def edSub (a b : Nat) : Nat := (a + edP - b % edP) % edP

/-- Point addition. -/
def edAdd (p q : EdPoint) : EdPoint :=
  let a := edSub p.y p.x * edSub q.y q.x % edP
  let b := (p.y + p.x) * (q.y + q.x) % edP
  let c := 2 * p.t * q.t * edD % edP
  let d := 2 * p.z * q.z % edP
  let e := edSub b a
  let f := edSub d c
  let g := (d + c) % edP
  let h := (b + a) % edP
  { x := e * f % edP, y := g * h % edP, z := f * g % edP, t := e * h % edP }

/-- The neutral point. -/
def edZero : EdPoint := { x := 0, y := 1, z := 1, t := 0 }

/-- s times a point, over `n` bits of s. -/
def edMul : Nat → Nat → EdPoint → EdPoint → EdPoint
  | 0, _, _, acc => acc
  | n + 1, s, p, acc => edMul n (s / 2) (edAdd p p) (if s % 2 = 1 then edAdd acc p else acc)

/-- The x coordinate of a point from its y and its sign bit, if there is one. -/
def edRecoverX (y sign : Nat) : Option Nat :=
  if edP ≤ y then none else
  let x2 := edSub (y * y) 1 * edInv (edD * y * y + 1) % edP
  if x2 = 0 then (if sign = 1 then none else some 0) else
  let x := powMod edP 256 x2 ((edP + 3) / 8) 1
  let x := if x * x % edP = x2 then x else x * powMod edP 256 2 ((edP - 1) / 4) 1 % edP
  if x * x % edP = x2 then some (if x % 2 = sign then x else edP - x) else none

/-- The point a 32-byte string encodes. -/
def edDecode (v : Nat) : Option EdPoint :=
  let y := v % 2 ^ 255
  (edRecoverX y (v / 2 ^ 255)).map fun x => { x := x, y := y, z := 1, t := x * y % edP }

/-- The 32-byte string of a point, as a number. -/
def edEncode (p : EdPoint) : Nat :=
  let zi := edInv p.z
  p.y * zi % edP + 2 ^ 255 * (p.x * zi % edP % 2)

/-- The base point. -/
def edBase : EdPoint :=
  let y := 4 * edInv 5 % edP
  let x := (edRecoverX y 0).getD 0
  { x := x, y := y, z := 1, t := x * y % edP }

/-- The secret scalar of a seed's hash, clamped. -/
def edClamp (h : List Byte) : Nat :=
  let a := leNat (h.take 32)
  (a % 2 ^ 254) / 8 * 8 + 2 ^ 254

/-- The public key of a seed. -/
def edPublic (seed : BitVec 256) : BitVec 256 :=
  BitVec.ofNat 256 (edEncode (edMul 256 (edClamp (sha512 (leBytes 32 seed.toNat))) edBase edZero))

/-- The signature of a message under a seed: 64 bytes. -/
def edSign (seed : BitVec 256) (msg : List Byte) : List Byte :=
  let h := sha512 (leBytes 32 seed.toNat)
  let a := edClamp h
  let pub := leBytes 32 (edEncode (edMul 256 a edBase edZero))
  let r := leNat (sha512 (h.drop 32 ++ msg)) % edL
  let rs := leBytes 32 (edEncode (edMul 256 r edBase edZero))
  let k := leNat (sha512 (rs ++ pub ++ msg)) % edL
  rs ++ leBytes 32 ((r + k * a) % edL)

/-- Verification of a signature of a message under a public key. -/
def edVerify (pub : BitVec 256) (msg sig : List Byte) : Bool :=
  let rs := leNat (sig.take 32)
  let s := leNat (slice sig 32 32)
  match edDecode pub.toNat, edDecode rs with
  | some a, some r =>
    if edL ≤ s then false else
    let k := leNat (sha512 (leBytes 32 rs ++ leBytes 32 pub.toNat ++ msg)) % edL
    let l := edMul 256 s edBase edZero
    let q := edAdd r (edMul 256 k a edZero)
    decide (l.x * q.z % edP = q.x * l.z % edP) && decide (l.y * q.z % edP = q.y * l.z % edP)
  | _, _ => false

end Sys2Proof.Machine
end

