-- ==== Sys2Proof/Machine/Formats.lean ====
section
/-!
DEFINITION. Number formats and conversions (02_number_formats.md): specifiers, scalar codes, limb values, MX
blocks, rounding to nearest and stochastic rounding, overflow, Philox words, and the byte streams of R223 and R367.
-/
namespace Sys2Proof.Machine

/-- An exact value: NaN, an infinity, or (−1)^neg × m × 2^e. -/
inductive Val where
  | nan
  | inf (neg : Bool)
  | fin (neg : Bool) (m : Nat) (e : Int)
  deriving DecidableEq, Repr, Inhabited

/-- m × 2^e as an integer over the unit 2^u, for u ≤ e. -/
def scaled (m : Nat) (e u : Int) : Nat := m <<< (e - u).toNat

/-- m1 × 2^e1 ≥ m2 × 2^e2. -/
def geMag (m1 : Nat) (e1 : Int) (m2 : Nat) (e2 : Int) : Bool :=
  let u := min e1 e2
  decide (scaled m2 e2 u ≤ scaled m1 e1 u)

/-- m1 × 2^e1 > m2 × 2^e2. -/
def gtMag (m1 : Nat) (e1 : Int) (m2 : Nat) (e2 : Int) : Bool := !geMag m2 e2 m1 e1

/-- Bits needed for m; 0 for 0. -/
def bitlen (m : Nat) : Nat := if m = 0 then 0 else Nat.log2 m + 1

/-! ## Format specifiers (R40, R41) -/

/-- A format specifier (Table 2.1). -/
structure Spec where
  format : Nat
  mx16   : Bool
  strict : Bool
  sto    : Bool
  noClip : Bool
  deriving DecidableEq, Repr, Inhabited

/-- The specifier a byte spells. -/
def Spec.ofNat (v : Nat) : Spec :=
  { format := bits v 3 0, mx16 := bit v 4, strict := bit v 5, sto := bit v 6, noClip := bit v 7 }

/-- Format code 0x3 to 0x8 (Table 2.2). -/
def fmtIsMx (f : Nat) : Bool := decide (3 ≤ f ∧ f ≤ 8)

/-- Format code 0x9 or 0xA. -/
def fmtIsLimb (f : Nat) : Bool := f == 9 || f == 10

/-- Format code 0x0 to 0x2. -/
def fmtIsScalar (f : Nat) : Bool := decide (f ≤ 2)

/-- R41: the specifier is valid; `input` says that it describes input data. -/
def Spec.valid (s : Spec) (input : Bool) : Bool :=
  decide (s.format ≤ 10) && (fmtIsMx s.format || (!s.mx16 && !s.noClip)) &&
  !(s.sto && fmtIsLimb s.format) && !(input && (s.sto || s.noClip))

/-- Elements of an MX block (R59). -/
def Spec.block (s : Spec) : Nat := if s.mx16 then 16 else 32

/-! ## Targets (Tables 2.3 to 2.6) -/

/-- What a STRICT overflow gives (Table 2.5). -/
inductive Strict where
  | inf
  | nan
  | blockNan
  deriving DecidableEq, Repr

/-- A conversion target: one scalar format or one MX element format. `bound` and `max` are mantissa and exponent of
the overflow boundary and of the largest finite magnitude. -/
structure Target where
  width  : Nat
  ebits  : Nat
  fbits  : Nat
  bias   : Int
  low    : Bool          -- MX float element: exponent field 0 keeps its value (R48)
  fixed  : Bool          -- MXINT8
  boundM : Nat
  boundE : Int
  maxM   : Nat
  maxE   : Int
  maxCode : Nat
  emaxElem : Int
  strict : Strict
  hasInf : Bool
  hasNan : Bool
  nanCode : Nat
  deriving DecidableEq, Repr

/-- Exponent of the smallest normal. -/
def Target.emin (t : Target) : Int := 1 - t.bias

def tFp32 : Target :=
  { width := 32, ebits := 8, fbits := 23, bias := 127, low := false, fixed := false,
    boundM := 0x1FFFFFF, boundE := 103, maxM := 0xFFFFFF, maxE := 104, maxCode := 0x7F7FFFFF, emaxElem := 127,
    strict := .inf, hasInf := true, hasNan := true, nanCode := 0x7FC00000 }

def tBf16 : Target :=
  { width := 16, ebits := 8, fbits := 7, bias := 127, low := false, fixed := false,
    boundM := 0x1FF, boundE := 119, maxM := 0xFF, maxE := 120, maxCode := 0x7F7F, emaxElem := 127,
    strict := .inf, hasInf := true, hasNan := true, nanCode := 0x7FC0 }

def tFp16 : Target :=
  { width := 16, ebits := 5, fbits := 10, bias := 15, low := false, fixed := false,
    boundM := 65520, boundE := 0, maxM := 65504, maxE := 0, maxCode := 0x7BFF, emaxElem := 15,
    strict := .inf, hasInf := true, hasNan := true, nanCode := 0x7E00 }

def tE4m3 : Target :=
  { width := 8, ebits := 4, fbits := 3, bias := 7, low := true, fixed := false,
    boundM := 464, boundE := 0, maxM := 448, maxE := 0, maxCode := 0x7E, emaxElem := 8,
    strict := .nan, hasInf := false, hasNan := true, nanCode := 0x7F }

def tE5m2 : Target :=
  { width := 8, ebits := 5, fbits := 2, bias := 15, low := true, fixed := false,
    boundM := 61440, boundE := 0, maxM := 57344, maxE := 0, maxCode := 0x7B, emaxElem := 15,
    strict := .inf, hasInf := true, hasNan := true, nanCode := 0x7E }

def tE3m2 : Target :=
  { width := 6, ebits := 3, fbits := 2, bias := 3, low := true, fixed := false,
    boundM := 30, boundE := 0, maxM := 28, maxE := 0, maxCode := 0x1F, emaxElem := 4,
    strict := .blockNan, hasInf := false, hasNan := false, nanCode := 0 }

def tE2m3 : Target :=
  { width := 6, ebits := 2, fbits := 3, bias := 1, low := true, fixed := false,
    boundM := 31, boundE := -2, maxM := 15, maxE := -1, maxCode := 0x1F, emaxElem := 2,
    strict := .blockNan, hasInf := false, hasNan := false, nanCode := 0 }

def tE2m1 : Target :=
  { width := 4, ebits := 2, fbits := 1, bias := 1, low := true, fixed := false,
    boundM := 7, boundE := 0, maxM := 6, maxE := 0, maxCode := 0x7, emaxElem := 2,
    strict := .blockNan, hasInf := false, hasNan := false, nanCode := 0 }

def tInt8 : Target :=
  { width := 8, ebits := 0, fbits := 6, bias := 1, low := false, fixed := true,
    boundM := 255, boundE := -7, maxM := 127, maxE := -6, maxCode := 0x7F, emaxElem := 0,
    strict := .blockNan, hasInf := false, hasNan := false, nanCode := 0 }

/-- The scalar or element target of a format code; BF16 for the limb formats. -/
def targetOf (f : Nat) : Target :=
  match f with
  | 0 => tFp32
  | 2 => tFp16
  | 3 => tE4m3
  | 4 => tE5m2
  | 5 => tE3m2
  | 6 => tE2m3
  | 7 => tE2m1
  | 8 => tInt8
  | _ => tBf16

/-! ## Reading codes (R43, R44, R46, R57) -/

/-- The exact value of a code, low codes and subnormals at their value. -/
def decodeExact (t : Target) (c : Nat) : Val :=
  if t.fixed then
    if c < 128 then .fin false c (-6) else .fin true (256 - c % 256) (-6)
  else
    let s := bit c (t.width - 1)
    let ef := bits c (t.width - 2) t.fbits
    let f := c % 2 ^ t.fbits
    if t.hasInf && ef == 2 ^ t.ebits - 1 then (if f = 0 then .inf s else .nan)
    else if t.hasNan && !t.hasInf && c % 2 ^ (t.width - 1) == 0x7F then .nan
    else if ef = 0 then .fin s f (1 - t.bias - t.fbits)
    else .fin s (2 ^ t.fbits + f) ((ef : Int) - t.bias - t.fbits)

/-- A scalar code read under R46: a subnormal is zero of its sign, and FLUSHED is set. -/
def readCode (t : Target) (c : Nat) : Val × Flags :=
  let c := c % 2 ^ t.width
  if bits c (t.width - 2) t.fbits = 0 ∧ c % 2 ^ t.fbits ≠ 0 then (.fin (bit c (t.width - 1)) 0 0, fFlushed)
  else
    match decodeExact t c with
    | .fin s m e => (if m = 0 then .fin s 0 0 else .fin s m e, fNone)
    | v => (v, fNone)

/-- NAN_IN or INF_IN of a value that enters from outside (R49, R50). -/
def entryFlags (ext : Bool) : Val → Flags
  | .nan => fIf ext fNanIn
  | .inf _ => fIf ext fInfIn
  | .fin .. => fNone

/-! ## Rounding (R51, R69) -/

/-- The grid exponent q of `round_rne`. -/
def gridOf (t : Target) (m : Nat) (e : Int) : Int :=
  let big := e + bitlen m - 1
  if t.fixed then -6
  else if t.low && decide (big < t.emin) then t.emin - t.fbits
  else big - t.fbits

/-- `round_rne` of R51, or with a random word `u` the stochastic rule of R69: (k, q). -/
def roundTo (t : Target) (u : Option Nat) (m : Nat) (e : Int) : Nat × Int :=
  let q := gridOf t m e
  if q ≤ e then (m <<< (e - q).toNat, q)
  else
    let d := (q - e).toNat
    let k := m >>> d
    let rem := m % 2 ^ d
    let up := match u with
      | none => decide (2 ^ (d - 1) < rem) || (rem == 2 ^ (d - 1) && k % 2 == 1)
      | some u =>
        let tt := if 32 ≤ d then rem >>> (d - 32) else rem <<< (32 - d)
        decide (2 ^ 32 ≤ tt + u)
    (if up then k + 1 else k, q)

/-- Sign bit of a code; MXINT8 has none. -/
def signBit (t : Target) (s : Bool) : Nat := if s then 2 ^ (t.width - 1) else 0

/-- `pack` of R52. -/
def packCode (t : Target) (s : Bool) (k : Nat) (q : Int) : Nat :=
  if t.fixed then (if s then (256 - k) % 256 else k)
  else if k < 2 ^ t.fbits then signBit t s + k
  else
    let (k, q) := if 2 ^ (t.fbits + 1) ≤ k then (k / 2, q + 1) else (k, q)
    signBit t s + (q + t.fbits + t.bias).toNat * 2 ^ t.fbits + (k - 2 ^ t.fbits)

/-- zero(T, s): MXINT8 has no −0. -/
def zeroCode (t : Target) (s : Bool) : Nat := if t.fixed then 0 else signBit t s

/-- inf(T, s), for targets that have infinities. -/
def infCode (t : Target) (s : Bool) : Nat := signBit t s + (2 ^ t.ebits - 1) * 2 ^ t.fbits

/-- ±largest finite; MXINT8 is symmetric (R56). -/
def maxCode (t : Target) (s : Bool) : Nat :=
  if t.fixed then (if s then 0x81 else 0x7F) else signBit t s + t.maxCode

/-- A converted element: a code, or the whole block made NaN (R54, R64). -/
inductive Enc where
  | code (c : Nat)
  | blockNan
  deriving DecidableEq, Repr

/-- What replaces an overflowing or infinite value (Tables 2.5, 2.9), and whether SAT is set. -/
def overflowTo (t : Target) (strict s : Bool) : Enc × Flags :=
  if strict then
    match t.strict with
    | .inf => (.code (infCode t s), fNone)
    | .nan => (.code t.nanCode, fNone)
    | .blockNan => (.blockNan, fNone)
  else (.code (maxCode t s), fSat)

/-- A finite value converted by R52 (`u` none) or under stochastic rounding by R69 and R70. -/
def convertFin (t : Target) (strict : Bool) (u : Option Nat) (s : Bool) (m : Nat) (e : Int) : Enc × Flags :=
  if m = 0 then (.code (zeroCode t s), fNone)
  else if u.isNone && geMag m e t.boundM t.boundE then
    let (c, f) := overflowTo t strict s
    (c, f ||| fOvf)
  else
    let (k, q) := roundTo t u m e
    if k = 0 then (.code (zeroCode t s), fNone)
    else if u.isSome && gtMag k q t.maxM t.maxE then
      let (c, f) := overflowTo t strict s
      (c, f ||| fOvf)
    else if !t.low && !t.fixed && gtMag 1 t.emin k q then (.code (zeroCode t s), fFlushed)
    else (.code (packCode t s k q), fNone)

/-- Any value converted to a target (R49 to R54, Table 2.9). `ext` says that the value enters the operation from
outside it. -/
def convertVal (t : Target) (strict : Bool) (u : Option Nat) (ext : Bool) (v : Val) : Enc × Flags :=
  match v with
  | .nan => (if t.hasNan then .code t.nanCode else .blockNan, fIf ext fNanIn)
  | .inf s =>
    if t.hasInf then (.code (infCode t s), fIf ext fInfIn)
    else
      let (c, f) := overflowTo t strict s
      (c, f ||| fIf ext fInfIn)
  | .fin s m e => convertFin t strict u s m e

/-- The code of a scalar conversion. -/
def encCode : Enc → Nat
  | .code c => c
  | .blockNan => 0

/-! ## Philox (R67, R68) -/

def two32 : Nat := 0x100000000

/-- One Philox round on (c0, c1, c2, c3) under a round key. -/
def philoxRound (c : Nat × Nat × Nat × Nat) (k0 k1 : Nat) : Nat × Nat × Nat × Nat :=
  let (c0, c1, c2, c3) := c
  let p0 := 0xD2511F53 * c0
  let p1 := 0xCD9E8D57 * c2
  ((p1 / two32) ^^^ c1 ^^^ k0, p1 % two32, (p0 / two32) ^^^ c3 ^^^ k1, p0 % two32)

/-- Philox4x32-10. -/
def philox (c : Nat × Nat × Nat × Nat) (k0 k1 : Nat) : Nat × Nat × Nat × Nat :=
  (List.range 10).foldl (fun c r =>
    philoxRound c ((k0 + r * 0x9E3779B9) % two32) ((k1 + r * 0xBB67AE85) % two32)) c

/-- The random word u of logical element i (Table 2.11). -/
def randomWord (seed seq site stream i : Nat) : Nat :=
  let (y0, y1, y2, y3) := philox (bits i 33 2, site * 2 ^ 24 + bits i 47 34, seq % two32, stream % two32)
    (seed % two32) (bits seed 63 32)
  match i % 4 with
  | 0 => y0
  | 1 => y1
  | 2 => y2
  | _ => y3

/-- How a conversion draws its words: none for rounding to nearest; otherwise by logical index. -/
structure Draw where
  sto    : Bool := false
  seed   : Nat := 0
  seq    : Nat := 0
  site   : Nat := 0
  stream : Nat := 0
  deriving DecidableEq, Repr

/-- The word of logical element i, if the conversion is stochastic. -/
def Draw.word (d : Draw) (i : Nat) : Option Nat :=
  if d.sto then some (randomWord d.seed d.seq d.site d.stream i) else none

/-! ## round_arith and limb values (R78, R84, R88) -/

/-- `round_arith` of R84. -/
def roundArith (t : Target) (s : Bool) (m : Nat) (e : Int) : Nat × Flags :=
  if m = 0 then (zeroCode t s, fNone)
  else if geMag m e t.boundM t.boundE then (infCode t s, fOvf)
  else
    let (k, q) := roundTo t none m e
    if gtMag 1 t.emin k q then (zeroCode t s, fFlushed)
    else (packCode t s k q, fNone)

/-- The signed integer over the unit 2^u of a finite value whose exponent is at least u. -/
def toInt (v : Val) (u : Int) : Int :=
  match v with
  | .fin s m e => if s then -(scaled m e u : Int) else (scaled m e u : Int)
  | _ => 0

/-- The greedy split of R88: n limbs of the value r × 2^u; the rest is 0x0000. -/
def splitLimbs : Nat → Int → Int → List Nat × Flags
  | 0, _, _ => ([], fNone)
  | n + 1, r, u =>
    if r = 0 then (List.replicate (n + 1) 0, fNone)
    else
      let (c, f) := roundArith tBf16 (decide (r < 0)) r.natAbs u
      match decodeExact tBf16 c with
      | .fin s m e =>
        if m = 0 then (c :: List.replicate n 0, f)
        else
          -- value(c) is a multiple of 2^u, or r itself where r has no bit below the limb
          let v : Int := if u ≤ e then toInt (.fin s m e) u else
            (if s then -((m >>> (u - e).toNat : Nat) : Int) else ((m >>> (u - e).toNat : Nat) : Int))
          let (cs, fs) := splitLimbs n (r - v) u
          (c :: cs, f ||| fs)
      | _ => (c :: List.replicate n 0, f)

/-- The limbs of a conversion: a limb after the first that was flushed is 0x0000 (R45; where R88's `split` writes the zero of
the residual's sign, log entry 64). -/
def clearFlushed : List Nat → List Nat
  | [] => []
  | c :: cs => c :: cs.map fun x => if x = zeroCode tBf16 true then 0 else x

/-- Limbs of a format code: 2 for BF16X2, 3 for BF16X3, else 1. -/
def limbsOf (f : Nat) : Nat := if f = 9 then 2 else if f = 10 then 3 else 1

/-- A finite value converted to n limbs: the overflow test of Table 2.5, then the split (R88). -/
def convertLimbs (n : Nat) (strict ext : Bool) (v : Val) : List Nat × Flags :=
  match v with
  | .nan => (0x7FC0 :: List.replicate (n - 1) 0, fIf ext fNanIn)
  | .inf s => (infCode tBf16 s :: List.replicate (n - 1) 0, fIf ext fInfIn)
  | .fin s m e =>
    if m = 0 then (zeroCode tBf16 s :: List.replicate (n - 1) 0, fNone)
    else if geMag m e tBf16.boundM tBf16.boundE then
      let (c, f) := overflowTo tBf16 strict s
      (encCode c :: List.replicate (n - 1) 0, f ||| fOvf)
    else
      let (l, f) := splitLimbs n (if s then -(m : Int) else m) e
      (clearFlushed l, f)

/-- The least exponent among finite non-zero values; 0 when there is none. -/
def minExp (vs : List Val) : Int :=
  (vs.filterMap fun v => match v with
    | .fin _ m e => if m = 0 then none else some e
    | _ => none).foldl (fun (a : Option Int) e => some (match a with | none => e | some a => min a e)) none |>.getD 0

/-- A limb value read under R78 as one exact value. `ext`: it enters from outside. The manual gives no sign for a sum of
exactly 0: it is −0 where every limb is zero and limb 0 is negative, as R89 judges −0, and +0 otherwise (DEDUCED, log
entry 64). -/
def readLimbs (ext : Bool) (limbs : List Nat) : Val × Flags :=
  let rs := limbs.map (readCode tBf16)
  let f := fOr (rs.map (·.2))
  let vs := rs.map (·.1)
  let anyNan := vs.any (· == .nan)
  let pinf := vs.any (· == .inf false)
  let ninf := vs.any (· == .inf true)
  if anyNan then (.nan, f ||| fIf ext fNanIn ||| fIf (ext && (pinf || ninf)) fInfIn)
  else if pinf && ninf then (.nan, f ||| fInvalid ||| fIf ext fInfIn)
  else if pinf then (.inf false, f ||| fIf ext fInfIn)
  else if ninf then (.inf true, f ||| fIf ext fInfIn)
  else
    let u := minExp vs
    let s := vs.foldl (fun a v => a + toInt v u) 0
    let allZero := vs.all fun v => match v with | .fin _ m _ => m == 0 | _ => false
    if s = 0 then
      (.fin (allZero && (match vs.head? with | some (.fin true _ _) => true | _ => false)) 0 0, f)
    else (.fin (decide (s < 0)) s.natAbs u, f)

/-! ## Microscaling (R57 to R64) -/

/-- E8M0 scale exponent (R58). -/
def scaleExp (x : Nat) : Int := (x : Int) - 127

/-- An MX element with its block's scale, exactly (R62, R92); NaN and ∞ codes kept. -/
def mxValue (f scale code : Nat) : Val :=
  if scale = 0xFF then .nan
  else match decodeExact (targetOf f) code with
    | .fin s m e => if m = 0 then .fin s 0 0 else .fin s m (e + scaleExp scale)
    | v => v

/-- `select_scale` of R63 from the block's finite magnitudes: the scale exponent X. -/
def selectScale (t : Target) (noClip sto : Bool) (vs : List Val) : Int :=
  let u := minExp vs
  let amax := vs.foldl (fun a v => max a (toInt v u).natAbs) 0
  if amax = 0 then 0
  else
    let x := u + bitlen amax - 1 - t.emaxElem
    let x := if noClip &&
        (if sto then gtMag amax (u - x) t.maxM t.maxE else geMag amax (u - x) t.boundM t.boundE)
      then x + 1 else x
    max (-127) (min 127 x)

/-- One block encoded (R63, R64, Table 2.9): element codes without padding, the scale byte, and flags. The index of
the first element draws the random words. -/
def encodeBlock (s : Spec) (d : Draw) (ext : Bool) (i0 : Nat) (vs : List Val) : List Nat × Nat × Flags :=
  let t := targetOf s.format
  let x := selectScale t s.noClip s.sto vs
  let es := vs.mapIdx fun j v =>
    let v := match v with | .fin n m e => Val.fin n m (e - x) | v => v
    convertVal t s.strict (d.word (i0 + j)) ext v
  let f := fOr (es.map (·.2))
  if es.any (·.1 == .blockNan) then
    (vs.map fun _ => 0, 0xFF, f &&& (BitVec.allOnes 6 ^^^ fSat))
  else (es.map (encCode ·.1), (x + 127).toNat, f)

/-- Element codes packed to bytes: 8 bits each, four 6-bit in 3 bytes, two 4-bit in one (R60). -/
def packElems (width : Nat) (codes : List Nat) : List Byte :=
  let v := (codes.foldr (fun c a => c + a * 2 ^ width) 0)
  leBytes (ceilDiv (codes.length * width) 8) v

/-- The j-th element code of packed bytes. -/
def elemAt (width : Nat) (v j : Nat) : Nat := bits v (width * j + width - 1) (width * j)

/-- Sizes of the blocks that n elements from logical index `start` fall into, rows of `rowLen` (R61). The fuel is n. -/
def blockSizes (bs rowLen : Nat) : Nat → Nat → Nat → List Nat
  | 0, _, _ => []
  | _ + 1, _, 0 => []
  | k + 1, start, n =>
    let r := if rowLen = 0 then bs else rowLen - start % rowLen
    let b := max 1 (min (min bs r) n)
    b :: blockSizes bs rowLen k (start + b) (n - b)

/-! ## Byte streams (R185, R223, R367) -/

/-- Bytes of an element of a scalar format, or of a limb. -/
def scalarBytes (f : Nat) : Nat := if f = 0 then 4 else 2

/-- Bytes of `n` elements in the chunk byte stream before its fill (R223). -/
def streamLen (s : Spec) (rowLen start n : Nat) : Nat :=
  if fmtIsMx s.format then
    let nb := (blockSizes s.block rowLen n start n).length
    nb * (s.block * (targetOf s.format).width / 8) + nb
  else if fmtIsLimb s.format then ceilDiv n 128 * (256 * limbsOf s.format)
  else n * scalarBytes s.format

/-- Limb groups of 128 values from the values' limbs (Table 3.2). -/
def packLimbGroups (n : Nat) (vals : List (List Nat)) : List Byte :=
  (chunksOf 128 vals).flatMap fun g =>
    (List.range n).flatMap fun k =>
      padTo 256 (g.flatMap fun l => leBytes 2 (l.getD k 0))

/-- Limbs of value j in a stream of limb groups. -/
def limbsAt (n : Nat) (bs : List Byte) (j : Nat) : List Nat :=
  (List.range n).map fun k => leAt bs (j / 128 * (256 * n) + 256 * k + j % 128 * 2) 2

/-- Values encoded as a chunk byte stream without fill (R223), and flags. `start` is the logical index of the first. -/
def encodeStream (s : Spec) (d : Draw) (ext : Bool) (rowLen start : Nat) (vs : List Val) : List Byte × Flags :=
  if fmtIsMx s.format then
    let t := targetOf s.format
    let sizes := blockSizes s.block rowLen vs.length start vs.length
    let (_, _, elems, scales, f) := sizes.foldl
      (fun (a : Nat × List Val × List Byte × List Byte × Flags) b =>
        let (i, rest, es, ss, f) := a
        let (codes, x, g) := encodeBlock s d ext i (rest.take b)
        let codes := codes ++ List.replicate (s.block - codes.length) 0
        (i + b, rest.drop b, es ++ packElems t.width codes, ss ++ [BitVec.ofNat 8 x], f ||| g))
      (start, vs, [], [], fNone)
    (elems ++ scales, f)
  else if fmtIsLimb s.format then
    let cs := vs.map (convertLimbs (limbsOf s.format) s.strict ext)
    (packLimbGroups (limbsOf s.format) (cs.map (·.1)), fOr (cs.map (·.2)))
  else
    let t := targetOf s.format
    let cs := vs.mapIdx fun j v => convertVal t s.strict (d.word (start + j)) ext v
    (cs.flatMap fun c => leBytes (scalarBytes s.format) (encCode c.1), fOr (cs.map (·.2)))

/-- The exact values of n elements of a chunk byte stream, read under R46, R62 (scale and code rules) and R78, and the
flags of the reading. An MX scale of 0xFF sets NAN_IN once for its block. -/
def decodeStream (s : Spec) (ext : Bool) (rowLen start n : Nat) (bs : List Byte) : List Val × Flags :=
  if fmtIsMx s.format then
    let t := targetOf s.format
    let sizes := blockSizes s.block rowLen n start n
    let ebytes := s.block * t.width / 8
    let nb := sizes.length
    let per := sizes.mapIdx fun b sz =>
      let ev := leAt bs (b * ebytes) ebytes
      let x := leAt bs (nb * ebytes + b) 1
      (List.range sz).map fun j => mxValue s.format x (elemAt t.width ev j)
    let vs := per.flatten
    (vs, fOr (vs.map (entryFlags true)))
  else if fmtIsLimb s.format then
    let rs := (List.range n).map fun j => readLimbs ext (limbsAt (limbsOf s.format) bs j)
    (rs.map (·.1), fOr (rs.map (·.2)))
  else
    let w := scalarBytes s.format
    let rs := (List.range n).map fun j => readCode (targetOf s.format) (leAt bs (j * w) w)
    (rs.map (·.1), fOr (rs.map fun r => r.2 ||| entryFlags ext r.1))

/-- The logical byte stream of R367 from a chunk byte stream of n elements: limb groups in value order without padding;
every other format unchanged. -/
def logicalStream (s : Spec) (n : Nat) (bs : List Byte) : List Byte :=
  if fmtIsLimb s.format then
    (List.range n).flatMap fun j => (limbsAt (limbsOf s.format) bs j).flatMap (leBytes 2)
  else bs

/-- The stored or chunk form of n elements from their logical byte stream. -/
def fromLogical (s : Spec) (bs : List Byte) : List Byte :=
  if fmtIsLimb s.format then
    packLimbGroups (limbsOf s.format)
      ((chunksOf (2 * limbsOf s.format) bs).map fun v => (chunksOf 2 v).map leNat)
  else bs

/-- Bytes of one element in the logical byte stream of a scalar or limb format. -/
def logicalWidth (f : Nat) : Nat := if fmtIsLimb f then 2 * limbsOf f else scalarBytes f

/-! ## Working formats (Table 3.1) -/

/-- The working format of a contribution format code. -/
def workingOf (f : Nat) : Nat := if fmtIsMx f then 1 else f

/-- The pass count of a contribution format code. -/
def passOf (f : Nat) : Nat := limbsOf f

/-- A value held in a working format: one code, or its limbs. -/
abbrev WVal := List Nat

/-- A working-format value read as an exact value. -/
def readW (work : Nat) (ext : Bool) (w : WVal) : Val × Flags :=
  if fmtIsLimb work then readLimbs ext w
  else
    let (v, f) := readCode (targetOf work) (w.headD 0)
    (v, f ||| entryFlags ext v)

/-- An exact MX value taken into a working format (R62): overflow under the input's `strict` (R42), zero of its sign with
FLUSHED below the smallest normal. -/
def mxInto (t : Target) (strict : Bool) (v : Val) : Val × Flags :=
  match v with
  | .fin .. =>
    let (c, f) := convertVal t strict none false v
    (decodeExact t (encCode c), f)
  | _ => (v, fNone)

/-- Input data decoded for a conversion: the exact values, MX elements within the range of their working format (R62,
Table 3.1). -/
def decodeInput (s : Spec) (ext : Bool) (rowLen start n : Nat) (bs : List Byte) : List Val × Flags :=
  let (vs, f) := decodeStream s ext rowLen start n bs
  if fmtIsMx s.format then
    let rs := vs.map (mxInto (targetOf (workingOf s.format)) s.strict)
    (rs.map (·.1), f ||| fOr (rs.map (·.2)))
  else (vs, f)

/-- Partials from child nodes: working values as they stand, read by no one on the way (R82, R91). -/
def rawWorking (work n : Nat) (bs : List Byte) : List WVal :=
  if fmtIsLimb work then (List.range n).map fun j => limbsAt (limbsOf work) bs j
  else (List.range n).map fun j => [leAt bs (j * scalarBytes work) (scalarBytes work)]

/-- Contributions decoded into the working format (R62, R74, R82): scalar codes read under R46, limb values kept as
their limbs, MX elements converted. -/
def decodeWorking (s : Spec) (ext : Bool) (rowLen start n : Nat) (bs : List Byte) : List WVal × Flags :=
  if fmtIsLimb s.format then
    let ls := (List.range n).map fun j => limbsAt (limbsOf s.format) bs j
    (ls, fOr (ls.map fun l => (readLimbs ext l).2))
  else
    let (vs, f) := decodeStream s ext rowLen start n bs
    let t := targetOf (workingOf s.format)
    let cs := vs.map fun v => convertVal t s.strict none false v
    (cs.map fun c => [encCode c.1], f ||| fOr (cs.map (·.2)))

/-- Working values as a chunk byte stream. -/
def packWorking (work : Nat) (vs : List WVal) : List Byte :=
  if fmtIsLimb work then packLimbGroups (limbsOf work) vs
  else vs.flatMap fun v => leBytes (scalarBytes work) (v.headD 0)

end Sys2Proof.Machine
end

