-- ==== Sys2Proof/Machine/Arith.lean ====
section
/-!
DEFINITION. Reduction and dot-product arithmetic (03_reduction_arithmetic.md) and the arithmetic of stitch programs
(R108 to R117): the adds of the working formats, the fixed-order tree, windows, dot products, FMA, MIN, MAX, CMP, SCL,
RCP and RSQ.
-/
namespace Sys2Proof.Machine

/-- The sign of a value; a NaN has none. -/
def valNeg : Val → Bool
  | .nan => false
  | .inf s => s
  | .fin s _ _ => s

def isNan (v : Val) : Bool := v == .nan

def isInf : Val → Bool
  | .inf _ => true
  | _ => false

def isZero : Val → Bool
  | .fin _ m _ => m == 0
  | _ => false

/-- A code as an operand under R46: the code read, its value and the flag of the read. -/
def operand (t : Target) (c : Nat) : Nat × Val × Flags :=
  let (v, f) := readCode t c
  (if f = fNone then c % 2 ^ t.width else zeroCode t (valNeg v), v, f)

/-- Table 3.3: the result of an add with special operands; none when every operand is finite. -/
def specialAdd (vs : List Val) : Option (Val × Flags) :=
  let p := vs.any (· == .inf false)
  let n := vs.any (· == .inf true)
  if vs.any isNan then some (.nan, fNone)
  else if p && n then some (.nan, fInvalid)
  else if p then some (.inf false, fNone)
  else if n then some (.inf true, fNone)
  else none

/-- The code of a special value in a scalar format. -/
def specialCode (t : Target) : Val → Nat
  | .inf s => infCode t s
  | _ => t.nanCode

/-- An exact sum of finite values: the signed integer and its unit. -/
def exactSum (vs : List Val) : Int × Int :=
  let u := minExp vs
  (vs.foldl (fun a v => a + toInt v u) 0, u)

/-- `add1` of R85 on operands as read. -/
def addVal (t : Target) (a b : Val) : Nat × Flags :=
  match specialAdd [a, b] with
  | some (v, f) => (specialCode t v, f)
  | none =>
    let (s, u) := exactSum [a, b]
    if s = 0 then (zeroCode t (isZero a && isZero b && valNeg a && valNeg b), fNone)
    else roundArith t (decide (s < 0)) s.natAbs u

/-- `add1` of R85 on codes, read under R46. -/
def add1 (t : Target) (a b : Nat) : Nat × Flags :=
  let (_, x, fx) := operand t a
  let (_, y, fy) := operand t b
  let (c, f) := addVal t x y
  (c, fx ||| fy ||| f)

/-! ## Windows (R87, R93) -/

/-- A magnitude placed at bit j of a window; bits below bit 0 are truncated and leave the sticky bit. -/
def place (m : Nat) (j : Int) : Nat :=
  if 0 ≤ j then m <<< j.toNat
  else
    let d := (-j).toNat
    (m >>> d) ||| (if m % 2 ^ d = 0 then 0 else 1)

/-- The window sum of finite values: bit 0 weighs 2^u. -/
def windowSum (u : Int) (vs : List Val) : Int :=
  vs.foldl (fun a v => match v with
    | .fin s m e => if s then a - (place m (e - u) : Int) else a + (place m (e - u) : Int)
    | _ => a) 0

/-- Exponent of the largest leading 1 among the non-zero values; none when there is none. -/
def topExp (vs : List Val) : Option Int :=
  vs.foldl (fun (a : Option Int) v => match v with
    | .fin _ m e =>
      if m = 0 then a else
      let x := e + bitlen m - 1
      some (match a with | none => x | some y => max x y)
    | _ => a) none

/-- `addn` of R87 with R88 and R89, on limb lists of n limbs each. -/
def addLimbs (n : Nat) (a b : List Nat) : List Nat × Flags :=
  let rs := (a ++ b).map (readCode tBf16)
  let f0 := fOr (rs.map (·.2))
  let vs := rs.map (·.1)
  match specialAdd vs with
  | some (v, f) => (specialCode tBf16 v :: List.replicate (n - 1) 0, f0 ||| f)
  | none =>
    let negZero (l : List Nat) : Bool :=
      let vs := l.map fun c => (readCode tBf16 c).1
      vs.all isZero && valNeg (vs.headD .nan)
    let zero := zeroCode tBf16 (negZero a && negZero b) :: List.replicate (n - 1) 0
    match topExp vs with
    | none => (zero, f0)
    | some emax =>
      let u := emax - 59
      let s := windowSum u vs
      if s = 0 then (zero, f0)
      else
        let (l, f) := splitLimbs n s u
        (l, f0 ||| f)

/-- The add of a working format (R80, R99). -/
def addW (work : Nat) (a b : WVal) : WVal × Flags :=
  if fmtIsLimb work then addLimbs (limbsOf work) a b
  else
    let (c, f) := add1 (targetOf work) (a.headD 0) (b.headD 0)
    ([c], f)

/-! ## The fixed-order tree (R79, R83) -/

/-- ⌈log2 w⌉ for w ≥ 1. -/
def ceilLog2 (w : Nat) : Nat := if w ≤ 1 then 0 else Nat.log2 (w - 1) + 1

/-- `combine` of R79 over a non-empty list, with the flags of every application; the first argument bounds the depth. -/
def combineFuel {α : Type} [Inhabited α] (op : α → α → α × Flags) : Nat → List α → α × Flags
  | 0, xs => (xs.headD default, fNone)
  | k + 1, xs =>
    if xs.length ≤ 1 then (xs.headD default, fNone)
    else
      let mid := 2 ^ (ceilLog2 xs.length - 1)
      let (a, fa) := combineFuel op k (xs.take mid)
      let (b, fb) := combineFuel op k (xs.drop mid)
      let (c, fc) := op a b
      (c, fa ||| fb ||| fc)

/-- `combine(x, 0, k)` of R79. -/
def combine {α : Type} [Inhabited α] (op : α → α → α × Flags) (xs : List α) : α × Flags :=
  combineFuel op xs.length xs

/-- The left fold of R83. -/
def foldSlots {α : Type} [Inhabited α] (op : α → α → α × Flags) (xs : List α) : α × Flags :=
  match xs with
  | [] => (default, fNone)
  | x :: xs => xs.foldl (fun (a : α × Flags) x =>
      let (c, f) := op a.1 x
      (c, a.2 ||| f)) (x, fNone)

/-! ## Dot products (R92 to R95) -/

/-- `window_sum` of R93 on exact products. -/
def dotWindow (ps : List Val) : Nat × Flags :=
  match topExp ps with
  | none => (zeroCode tFp32 (!ps.isEmpty && ps.all valNeg), fNone)
  | some pmax =>
    let u := pmax - 58
    let s := windowSum u ps
    if s = 0 then (0, fNone) else roundArith tFp32 (decide (s < 0)) s.natAbs u

/-- What `block_dot` gathers from the terms of a block. -/
structure BlockAcc where
  nan   : Bool := false
  pinf  : Bool := false
  ninf  : Bool := false
  prods : List Val := []
  flags : Flags := fNone

/-- One term of `block_dot`. -/
def blockTerm (b : BlockAcc) (a c : Val) : BlockAcc :=
  if isNan a || isNan c then { b with nan := true }
  else if (isInf a && isZero c) || (isZero a && isInf c) then { b with nan := true, flags := b.flags ||| fInvalid }
  else
    let s := valNeg a != valNeg c
    if isInf a || isInf c then (if s then { b with ninf := true } else { b with pinf := true })
    else match a, c with
      | .fin _ m e, .fin _ n g => { b with prods := b.prods ++ [.fin s (m * n) (e + g)] }
      | _, _ => b

/-- `block_dot` of R93, with R94. -/
def blockDot (terms : List (Val × Val)) : Nat × Flags :=
  let b := terms.foldl (fun b t => blockTerm b t.1 t.2) {}
  let both := b.pinf && b.ninf
  let (c, f) := dotWindow b.prods
  let f := b.flags ||| fIf both fInvalid ||| f
  (if b.nan || both then tFp32.nanCode else if b.pinf then infCode tFp32 false
   else if b.ninf then infCode tFp32 true else c, f)

/-- `dot` of R93. -/
def dot (terms : List (Val × Val)) : Nat × Flags :=
  match (chunksOf 16 terms).map blockDot with
  | [] => (0, fNone)
  | b :: bs => bs.foldl (fun (r : Nat × Flags) x =>
      let (c, f) := add1 tFp32 r.1 x.1
      (c, r.2 ||| x.2 ||| f)) b

/-! ## Operations of stitch programs (R108 to R117) -/

/-- `fma` of R109 on operands as read, `c` with its code. -/
def fmaVal (t : Target) (a b : Val) (c : Nat × Val) : Nat × Flags :=
  if isNan a || isNan b || isNan c.2 then (t.nanCode, fNone)
  else if (isInf a && isZero b) || (isZero a && isInf b) then (t.nanCode, fInvalid)
  else
    let s := valNeg a != valNeg b
    if isInf a || isInf b then
      if isInf c.2 && valNeg c.2 != s then (t.nanCode, fInvalid) else (infCode t s, fNone)
    else if isInf c.2 then (c.1, fNone)
    else match a, b with
      | .fin _ m e, .fin _ n g =>
        let (x, u) := exactSum [.fin s (m * n) (e + g), c.2]
        if x = 0 then
          (zeroCode t ((isZero a || isZero b) && s && isZero c.2 && valNeg c.2), fNone)
        else roundArith t (decide (x < 0)) x.natAbs u
      | _, _ => (t.nanCode, fNone)

/-- `fma` of R109 on codes, read under R46. -/
def fma (t : Target) (a b c : Nat) : Nat × Flags :=
  let (_, x, fx) := operand t a
  let (_, y, fy) := operand t b
  let (cc, z, fz) := operand t c
  let (r, f) := fmaVal t x y (cc, z)
  (r, fx ||| fy ||| fz ||| f)

/-- MUL is FMA with c = −0 (R109). -/
def mul (t : Target) (a b : Nat) : Nat × Flags := fma t a b (zeroCode t true)

/-- a < b numerically; false with a NaN. -/
def ltVal (a b : Val) : Bool :=
  match a, b with
  | .nan, _ | _, .nan => false
  | .inf s, .inf r => s && !r
  | .inf s, .fin .. => s
  | .fin .., .inf r => !r
  | .fin s m e, .fin r n g =>
    let u := min e g
    decide (toInt (.fin s m e) u < toInt (.fin r n g) u)

/-- a = b numerically; false with a NaN. -/
def eqVal (a b : Val) : Bool := !isNan a && !isNan b && !ltVal a b && !ltVal b a

/-- MIN (`big` false) and MAX of R110 on operands as read. -/
def minMax (t : Target) (big : Bool) (a b : Nat × Val) : Nat :=
  if isNan a.2 || isNan b.2 then t.nanCode
  else if isZero a.2 && isZero b.2 then
    zeroCode t (if big then valNeg a.2 && valNeg b.2 else valNeg a.2 || valNeg b.2)
  else if big then (if ltVal a.2 b.2 then b.1 else a.1)
  else (if ltVal b.2 a.2 then b.1 else a.1)

/-- CMP's predicate by `fn` (R111). -/
def cmpVal (fn : Nat) (a b : Val) : Bool :=
  match fn with
  | 0 => eqVal a b
  | 1 => ltVal a b
  | 2 => ltVal a b || eqVal a b
  | _ => isNan a || isNan b

/-- SCL of R112, k signed. -/
def scl (t : Target) (a : Nat × Val) (k : Int) : Nat × Flags :=
  match a.2 with
  | .fin s m e => if m = 0 then (a.1, fNone) else roundArith t s m (e + k)
  | _ => (a.1, fNone)

/-- TRCP of R115; an entry k stands for k / 512. -/
def trcp (j : Nat) : Nat :=
  let d := 513 + 2 * j
  (2 * 2 ^ 18 + d) / (2 * d)

/-- TRSQ of R115: the integer nearest 8192 / √v. -/
def trsq (j : Nat) : Nat :=
  let v := if j < 128 then 257 + 2 * j else 2 * (257 + 2 * (j - 128))
  (Nat.sqrt (16384 * 16384 / v) + 1) / 2

/-- The FP32 code of a value that FP32 holds exactly. -/
def exact32 (s : Bool) (m : Nat) (e : Int) : Nat := (roundArith tFp32 s m e).1

/-- FP32 code with its sign inverted. -/
def neg32 (c : Nat) : Nat := c ^^^ 0x80000000

/-- A positive normal FP32 code times 2^k, rounded by round_arith with sign s. -/
def scale32 (s : Bool) (c : Nat) (k : Int) : Nat × Flags :=
  match decodeExact tFp32 c with
  | .fin _ m e => roundArith tFp32 s m (e + k)
  | _ => (tFp32.nanCode, fNone)

/-- RCP of R116, on a code. -/
def rcp (x : Nat) : Nat × Flags :=
  let (_, v, f0) := operand tFp32 x
  match v with
  | .nan => (tFp32.nanCode, f0)
  | .inf s => (zeroCode tFp32 s, f0)
  | .fin s m _ =>
    if m = 0 then (infCode tFp32 s, f0)
    else
      let frac := x % 2 ^ 23
      let e : Int := (bits x 30 23 : Int) - 127
      let sc := 0x3F800000 + frac
      let y := exact32 false (trcp (frac >>> 15)) (-9)
      let it (y : Nat) : Nat := (fma tFp32 y (fma tFp32 (neg32 sc) y 0x3F800000).1 y).1
      let (c, f) := scale32 s (it (it y)) (-e)
      (c, f0 ||| f)

/-- RSQ of R117, on a code. -/
def rsq (x : Nat) : Nat × Flags :=
  let (_, v, f0) := operand tFp32 x
  match v with
  | .nan => (tFp32.nanCode, f0)
  | .inf s => if s then (tFp32.nanCode, f0 ||| fInvalid) else (0, f0)
  | .fin s m _ =>
    if m = 0 then (infCode tFp32 s, f0)
    else if s then (tFp32.nanCode, f0 ||| fInvalid)
    else
      let frac := x % 2 ^ 23
      let e : Int := (bits x 30 23 : Int) - 127
      let h := (e % 2).toNat
      let eh := (e - h) / 2
      let hs := exact32 false (2 ^ 23 + frac) ((h : Int) - 24)
      let y := exact32 false (trsq (h * 128 + (frac >>> 16))) (-9)
      let it (y : Nat) : Nat :=
        (mul tFp32 y (fma tFp32 (neg32 hs) (mul tFp32 y y).1 0x3FC00000).1).1
      let (c, f) := scale32 false (it (it y)) (-eh)
      (c, f0 ||| f)

end Sys2Proof.Machine
end

