-- ==== Sys2Proof/Machine/Program.lean ====
section
/-!
DEFINITION. Stitch programs (04_stitch_programs.md): image headers and instruction words, the load checks of Table 4.8,
the library images of R456, and what a phase of a program computes (R102 to R125).
-/
namespace Sys2Proof.Machine

/-! ## Image header (Table 4.3) -/

def imgKind (i : Image) : Nat := field i.header 2 1
def imgPhases (i : Image) : Nat := field i.header 3 1
def imgCount (i : Image) : Nat := field i.header 4 2
def imgPre1 (i : Image) : Nat := field i.header 6 2
def imgBody1 (i : Image) : Nat := field i.header 8 2
def imgPre2 (i : Image) : Nat := field i.header 10 2
def imgBody2 (i : Image) : Nat := field i.header 12 2
def imgOpTy (i : Image) : Nat := field i.header 14 1
def imgFlags (i : Image) : Nat := field i.header 15 1
def imgReadsTime (i : Image) : Bool := bit (imgFlags i) 0
def imgRead (i : Image) : Nat := field i.header 16 2
def imgWrite (i : Image) : Nat := field i.header 18 2
def imgParams (i : Image) : Nat := field i.header 20 1
def imgHacc (i : Image) : Nat := field i.header 21 1
def imgTag (i : Image) : Nat := field i.header 24 8

/-- The words of one section: phase 1 or 2, preamble or body (R100). -/
def imgSection (i : Image) (phase : Nat) (pre : Bool) : List Nat :=
  let ws := i.words.map BitVec.toNat
  match phase, pre with
  | 1, true => ws.take (imgPre1 i)
  | 1, false => (ws.drop (imgPre1 i)).take (imgBody1 i)
  | _, true => (ws.drop (imgPre1 i + imgBody1 i)).take (imgPre2 i)
  | _, false => (ws.drop (imgPre1 i + imgBody1 i + imgPre2 i)).take (imgBody2 i)

/-- The bytes of an image (R100). -/
def imgBytes (i : Image) : List Byte := leBytes 64 i.header.toNat ++ i.words.flatMap fun w => leBytes 4 w.toNat

/-- The image that bytes spell, its digest computed (R97). -/
def imgOfBytes (bs : List Byte) : Image :=
  { header := BitVec.ofNat 512 (leAt bs 0 64)
    words := (chunksOf 4 (bs.drop 64)).map fun w => BitVec.ofNat 32 (leNat w)
    digest := 0 }

/-! ## Instruction fields (Table 4.4) -/

def wOp (w : Nat) : Nat := bits w 31 26
def wDst (w : Nat) : Nat := bits w 25 22
def wA (w : Nat) : Nat := bits w 21 17
def wB (w : Nat) : Nat := bits w 16 12
def wC (w : Nat) : Nat := bits w 11 7
def wTy (w : Nat) : Nat := bits w 6 5
def wFn (w : Nat) : Nat := bits w 1 0
def wStream (w : Nat) : Nat := bits w 16 13
def wAcc (w : Nat) : Nat := bits w 8 7
def wSpec (w : Nat) : Nat := bits w 15 8
def wRstream (w : Nat) : Nat := bits w 4 1

/-- Table 4.8, BAD_FIELD: reserved and unused fields are 0, `ty` is not 0b11, `fn` is 0 outside CMP. -/
def fieldsOk (w : Nat) : Bool :=
  let ty := wTy w != 3
  match wOp w with
  | 0x00 => bits w 25 0 == 0
  | 0x01 | 0x02 | 0x04 | 0x05 => ty && wC w == 0 && !bit w 2 && wFn w == 0
  | 0x03 => ty && wFn w == 0
  | 0x06 => ty && wC w == 0 && !bit w 2
  | 0x07 => ty && bits w 4 0 == 0
  | 0x08 => ty && bits w 16 7 == 0 && bits w 4 0 == 0
  | 0x09 => ty && bits w 4 0 == 0
  | 0x0A | 0x0B => ty && bits w 16 7 == 0 && bits w 3 0 == 0
  | 0x0C => bits w 21 16 == 0
  | 0x0D => !bit w 16
  | 0x0E => ty && !bit w 16 && !bit w 7 && !bit w 0
  | 0x10 => ty && wA w == 0 && bits w 12 7 == 0 && bits w 4 0 == 0
  | 0x11 => ty && wDst w == 0 && bits w 12 7 == 0 && bits w 4 0 == 0
  | 0x12 => ty && wDst w == 0 && bits w 11 9 == 0 && bits w 4 0 == 0
  | 0x13 | 0x14 => ty && wDst w == 0 && bits w 16 9 == 0 && bits w 4 0 == 0
  | 0x15 => ty && bits w 21 9 == 0 && bits w 4 0 == 0
  | _ => bits w 21 0 == 0

/-- The operand selectors an instruction reads (Tables 4.4, 4.6). -/
def operandsOf (w : Nat) : List Nat :=
  match wOp w with
  | 0x01 | 0x02 | 0x04 | 0x05 | 0x06 | 0x12 => [wA w, wB w]
  | 0x03 | 0x07 => [wA w, wB w, wC w]
  | 0x08 | 0x09 | 0x0A | 0x0B | 0x0D | 0x0E | 0x11 | 0x13 | 0x14 => [wA w]
  | _ => []

/-- Streams an LD (0x10) or ST (0x11) of a section names. -/
def streamsOf (op : Nat) (ws : List Nat) : List Nat := (ws.filter (wOp · == op)).map wStream

/-- A list without repeats. -/
def noDup (l : List Nat) : Bool := match l with
  | [] => true
  | x :: xs => !xs.contains x && noDup xs

/-- The bit map of a list of numbers. -/
def maskOf (l : List Nat) : Nat := l.foldl (fun m k => m ||| (1 <<< k)) 0

/-- Table 4.8 checks 0x01 to 0x08 and 0x0A of an image read from `bs`; `bound` is check 0x09. 0 when all pass. -/
def checkImage (bs : List Byte) (bound : Bool) : Nat :=
  let i := imgOfBytes bs
  let kind := imgKind i
  let phases := imgPhases i
  let opTy := imgOpTy i
  let count := imgCount i
  let badHeader := field i.header 0 2 != 1 || decide (2 < kind) ||
    !(phases == 1 || (phases == 2 && kind == 2)) ||
    !(if kind = 0 then decide (opTy ≤ 2) || opTy == 0xFF else opTy == 0) ||
    decide (16 < imgParams i) || (kind == 0 && (imgParams i != 0 || imgHacc i != 0)) ||
    bits (imgFlags i) 7 2 != 0 || bits (imgHacc i) 7 4 != 0 || field i.header 22 2 != 0 || field i.header 32 32 != 0
  let badLength := count == 0 || decide (256 < count) ||
    imgPre1 i + imgBody1 i + imgPre2 i + imgBody2 i != count || decide (255 < imgPre1 i) || imgBody1 i == 0 ||
    (phases == 1 && (imgPre2 i != 0 || imgBody2 i != 0)) || (phases == 2 && imgBody2 i == 0) ||
    bs.length != 64 + 4 * count
  let p1 := imgSection i 1 true
  let b1 := imgSection i 1 false
  let p2 := imgSection i 2 true
  let b2 := imgSection i 2 false
  let all := p1 ++ b1 ++ p2 ++ b2
  let badOpcode := all.any fun w => wOp w == 0x0F || decide (0x16 < wOp w)
  let bodyOnly (w : Nat) : Bool := decide (0x10 ≤ wOp w ∧ wOp w ≤ 0x14) || (wOp w == 0x0E && bit (wSpec w) 6)
  let badPlacement := (p1 ++ p2).any bodyOnly || (p1 ++ b1 ++ b2).any (wOp · == 0x15) ||
    (!imgReadsTime i && all.any (wOp · == 0x16))
  let r1 := streamsOf 0x10 b1
  let r2 := streamsOf 0x10 b2
  let s1 := streamsOf 0x11 b1
  let s2 := streamsOf 0x11 b2
  let badStream := maskOf (r1 ++ r2) != imgRead i || maskOf (s1 ++ s2) != imgWrite i ||
    !noDup r1 || !noDup r2 || !noDup s1 || !noDup s2 || r1.any s1.contains || r2.any s2.contains ||
    (kind == 0 && !(r1 ++ s1).isEmpty)
  let badFormat := all.any fun w =>
    (wOp w == 0x0E && (!(Spec.ofNat (wSpec w)).valid false || !fmtIsScalar (Spec.ofNat (wSpec w)).format)) ||
    ((wOp w == 0x0A || wOp w == 0x0B || wOp w == 0x15) && wTy w != 0)
  let fed (ops : List Nat) (a : Nat) : Bool := all.any fun w => ops.contains (wOp w) && wAcc w == a
  let badParam := all.any (fun w =>
      (operandsOf w).any (fun o => decide (16 ≤ o) && decide (imgParams i ≤ o - 16)) ||
      (decide (0x12 ≤ wOp w ∧ wOp w ≤ 0x15) && !bit (imgHacc i) (wAcc w))) ||
    (List.range 4).any fun a => fed [0x14] a && fed [0x12, 0x13] a
  if badHeader then 0x01
  else if badLength then 0x02
  else if badOpcode then 0x03
  else if all.any (!fieldsOk ·) then 0x04
  else if badPlacement then 0x05
  else if badStream then 0x06
  else if badFormat then 0x07
  else if badParam then 0x08
  else if bound then 0x09
  else if bit (imgFlags i) 1 || opTy == 0xFF then 0x0A
  else 0

/-! ## Library images (R131, R456, Table 4.12) -/

/-- Format A with `ty` FP32 and no neg bit. -/
def asmA (op dst a b c fn : Nat) : Nat := op <<< 26 ||| dst <<< 22 ||| a <<< 17 ||| b <<< 12 ||| c <<< 7 ||| fn
def asmMovhi (dst imm : Nat) : Nat := 0x0C <<< 26 ||| dst <<< 22 ||| imm
def asmLd (dst s : Nat) : Nat := 0x10 <<< 26 ||| dst <<< 22 ||| s <<< 13
def asmSt (s a : Nat) : Nat := 0x11 <<< 26 ||| a <<< 17 ||| s <<< 13
def asmHdot (acc a b : Nat) : Nat := 0x12 <<< 26 ||| a <<< 17 ||| b <<< 12 ||| acc <<< 7
def asmHget (dst acc : Nat) : Nat := 0x15 <<< 26 ||| dst <<< 22 ||| acc <<< 7
/-- Operand selector of pN. -/
def pw (n : Nat) : Nat := 0x10 + n

/-- The ADAMW body up to and including `fma v4, p8, v1, v4`. -/
def adamwHead : List Nat :=
  [asmLd 0 0, asmLd 1 1, asmLd 2 2, asmLd 3 3, asmA 2 0 0 (pw 0) 0 0, asmA 2 4 (pw 1) 2 0 0,
   asmA 3 2 (pw 2) 0 4 0, asmSt 9 2, asmA 2 4 0 0 0 0, asmA 2 5 (pw 3) 3 0 0, asmA 3 3 (pw 4) 4 5 0] ++
  [asmSt 10 3, asmA 2 4 2 (pw 5) 0 0, asmA 2 5 3 (pw 6) 0 0, asmA 6 6 5 14 0 0, asmA 7 7 15 5 6 0,
   asmA 0x0B 7 7 0 0 0, asmA 2 7 5 7 0 0, asmA 1 7 7 (pw 7) 0 0, asmA 0x0A 7 7 0 0 0, asmA 2 4 4 7 0 0,
   asmA 3 4 (pw 8) 1 4 0]

/-- The instruction words of a library program, in listing order. -/
def libWords : Nat → List Nat
  | 0 => [asmA 1 0 0 1 0 0]
  | 1 => asmMovhi 15 0x3F80 :: adamwHead ++ [asmA 3 1 (pw 9) 4 1 0, asmSt 8 1]
  | 2 => [asmLd 0 0, asmLd 1 1, asmLd 2 2, asmA 2 0 0 (pw 0) 0 0, asmA 3 0 (pw 8) 1 0 0, asmA 3 2 (pw 1) 2 0 0,
      asmSt 9 2, asmA 3 1 (pw 9) 2 1 0, asmSt 8 1]
  | 3 => [asmMovhi 15 0x3F80, asmMovhi 13 0xBF80, asmLd 0 0, asmLd 1 1, asmLd 2 2, asmA 2 0 0 (pw 0) 0 0,
      asmA 2 4 (pw 1) 2 0 0, asmA 3 4 (pw 2) 0 4 0, asmA 6 5 14 4 0 1, asmA 6 6 4 14 0 1, asmA 7 7 15 14 5 0] ++
      [asmA 7 7 13 7 6 0, asmA 6 5 4 4 0 3, asmA 7 7 4 7 5 0, asmA 3 7 (pw 8) 1 7 0, asmA 3 1 (pw 9) 7 1 0,
      asmSt 8 1, asmA 2 4 (pw 3) 2 0 0, asmA 3 2 (pw 4) 0 4 0, asmSt 9 2]
  | _ => asmMovhi 15 0x3F80 :: adamwHead ++ [asmSt 4 4, asmHdot 0 1 1, asmHdot 1 4 4] ++
      [asmMovhi 15 0x3F80, asmHget 0 0, asmHget 1 1, asmA 6 2 0 14 0 0, asmA 6 3 1 14 0 0, asmA 7 4 15 0 2 0,
      asmA 7 5 15 1 3 0, asmA 0x0B 4 4 0 0 0, asmA 0x0B 5 5 0 0 0, asmA 2 4 0 4 0 0, asmA 2 6 4 5 0 0,
      asmA 4 6 6 (pw 10) 0 0, asmA 7 6 15 6 2 0, asmA 7 6 15 6 3 0, asmA 2 7 (pw 9) 6 0 0] ++
      [asmLd 0 4, asmLd 1 1, asmA 3 1 7 0 1 0, asmSt 8 1]

/-- A header from its fields, in the order of Table 4.12 from `kind` on. -/
def libHeader (kind phases count pre1 body1 pre2 body2 opTy rd wr params hacc : Nat) : BitVec 512 :=
  BitVec.ofNat 512 (leNat
    (leBytes 2 1 ++ leBytes 1 kind ++ leBytes 1 phases ++ leBytes 2 count ++ leBytes 2 pre1 ++ leBytes 2 body1 ++
     leBytes 2 pre2 ++ leBytes 2 body2 ++ leBytes 1 opTy ++ leBytes 1 2 ++ leBytes 2 rd ++ leBytes 2 wr ++
     leBytes 1 params ++ leBytes 1 hacc))

/-- The library image of a library number 0 to 4 (R456), with its digest. -/
def libImage (n : Nat) : Image :=
  let h := match n with
    | 0 => libHeader 0 1 1 0 1 0 0 0xFF 0 0 0 0
    | 1 => libHeader 2 1 25 1 24 0 0 0 0x000F 0x0700 10 0
    | 2 => libHeader 2 1 9 0 9 0 0 0 0x0007 0x0300 10 0
    | 3 => libHeader 2 1 20 2 18 0 0 0 0x0007 0x0300 10 0
    | _ => libHeader 2 2 45 1 25 15 4 0 0x001F 0x0710 11 3
  { header := h, words := (libWords n).map (BitVec.ofNat 32), digest := 0 }

/-! ## Execution (R101 to R125) -/

/-- The target of a `ty` field (R103). -/
def tyTarget (ty : Nat) : Target := if ty = 0 then tFp32 else if ty = 1 then tBf16 else tFp16

/-- What a phase of a program runs with. `ins` lists each stream read: its number, its strict bit and its elements. -/
structure PhaseIn where
  params : List Nat := []
  time   : Nat := 0
  hget   : List Nat := [0, 0, 0, 0]
  seed   : Nat := 0
  seq    : Nat := 0
  /-- Logical index of the first element. -/
  first  : Nat := 0

/-- Registers and what instructions have put out: stores and horizontal terms, newest first. -/
structure PhaseState where
  v      : List Nat := List.replicate 16 0
  flags  : Flags := fNone
  stores : List (Nat × Val) := []
  terms  : List (Nat × Val × Val) := []

/-- The raw bits an operand selector names. -/
def rawOperand (x : PhaseIn) (s : PhaseState) (sel : Nat) : Nat :=
  if sel < 16 then s.v.getD sel 0 else x.params.getD (sel - 16) 0

/-- An operand of an arithmetic instruction: read under R46, its sign inverted by `neg`, a parameter word judged
(R107, R108, R125). -/
def arithOperand (x : PhaseIn) (s : PhaseState) (t : Target) (sel : Nat) (neg : Bool) : Nat × Val × Flags :=
  let raw := rawOperand x s sel % 2 ^ t.width
  let raw := if neg then raw ^^^ 2 ^ (t.width - 1) else raw
  let (c, v, f) := operand t raw
  (c, v, f ||| entryFlags (decide (16 ≤ sel)) v)

/-- A register written, and flags set. -/
def writeReg (s : PhaseState) (dst v : Nat) (f : Flags) : PhaseState :=
  { s with v := s.v.set dst v, flags := s.flags ||| f }

/-- The FP32 value 1. -/
def one32 : Val := .fin false 1 0

/-- A signed 10-bit field. -/
def signed10 (k : Nat) : Int := if k < 512 then k else (k : Int) - 1024

/-- One instruction for the element of logical index `i`, whose stream values are `row`: stream, strict bit, value. -/
def runInstr (x : PhaseIn) (i : Nat) (row : List (Nat × Bool × Val)) (s : PhaseState) (w : Nat) : PhaseState :=
  let t := tyTarget (wTy w)
  let a := arithOperand x s t (wA w) (bit w 4)
  let b := arithOperand x s t (wB w) (bit w 3)
  let c := arithOperand x s t (wC w) (bit w 2)
  let plain := arithOperand x s t (wA w) false
  let plainB := arithOperand x s t (wB w) false
  let mask (v : Nat) : Nat := v % 2 ^ t.width
  let out2 (r : Nat × Flags) : PhaseState := writeReg s (wDst w) r.1 (a.2.2 ||| b.2.2 ||| r.2)
  match wOp w with
  | 0x01 => out2 (addVal t a.2.1 b.2.1)
  | 0x02 => out2 (fmaVal t a.2.1 b.2.1 (zeroCode t true, .fin true 0 0))
  | 0x03 =>
    let r := fmaVal t a.2.1 b.2.1 (c.1, c.2.1)
    writeReg s (wDst w) r.1 (a.2.2 ||| b.2.2 ||| c.2.2 ||| r.2)
  | 0x04 => out2 (minMax t false (a.1, a.2.1) (b.1, b.2.1), fNone)
  | 0x05 => out2 (minMax t true (a.1, a.2.1) (b.1, b.2.1), fNone)
  | 0x06 => out2 (if cmpVal (wFn w) a.2.1 b.2.1 then 2 ^ t.width - 1 else 0, fNone)
  | 0x07 =>
    let v := if mask (rawOperand x s (wC w)) ≠ 0 then rawOperand x s (wA w) else rawOperand x s (wB w)
    writeReg s (wDst w) (mask v) fNone
  | 0x08 => writeReg s (wDst w) (mask (rawOperand x s (wA w))) fNone
  | 0x09 =>
    let r := scl t (plain.1, plain.2.1) (signed10 (bits w 16 7))
    writeReg s (wDst w) r.1 (plain.2.2 ||| r.2)
  | 0x0A => let r := rcp a.1; writeReg s (wDst w) r.1 (a.2.2 ||| r.2)
  | 0x0B => let r := rsq a.1; writeReg s (wDst w) r.1 (a.2.2 ||| r.2)
  | 0x0C => writeReg s (wDst w) (bits w 15 0 * 65536) fNone
  | 0x0D => writeReg s (wDst w) (rawOperand x s (wA w) / 65536 * 65536 + bits w 15 0) fNone
  | 0x0E =>
    let sp := Spec.ofNat (wSpec w)
    let u := if sp.sto then some (randomWord x.seed x.seq 0 (1 + wRstream w) i) else none
    let r := convertVal (targetOf sp.format) sp.strict u false plain.2.1
    writeReg s (wDst w) (encCode r.1) (plain.2.2 ||| r.2)
  | 0x10 =>
    match row.find? (·.1 == wStream w) with
    | some (_, strict, v) =>
      let r := convertVal t strict none false v
      writeReg s (wDst w) (encCode r.1) r.2
    | none => s
  | 0x11 => { s with stores := (wStream w, plain.2.1) :: s.stores, flags := s.flags ||| plain.2.2 }
  | 0x12 =>
    { s with terms := (wAcc w, plain.2.1, plainB.2.1) :: s.terms, flags := s.flags ||| plain.2.2 ||| plainB.2.2 }
  | 0x13 | 0x14 =>
    { s with terms := (wAcc w, plain.2.1, one32) :: s.terms, flags := s.flags ||| plain.2.2 }
  | 0x15 => writeReg s (wDst w) (x.hget.getD (wAcc w) 0) fNone
  | 0x16 => writeReg s (wDst w) (x.time % 2 ^ 32) fNone
  | _ => s

/-- The registers the preamble leaves. -/
def runPreamble (x : PhaseIn) (ws : List Nat) : PhaseState := ws.foldl (runInstr x 0 []) {}

/-- The body run for `n` elements from logical index `i`, each from the preamble's registers. -/
def runElements (x : PhaseIn) (v0 : List Nat) (body : List Nat) :
    Nat → Nat → List (Nat × Bool × List Val) → PhaseState → PhaseState
  | 0, _, _, s => s
  | n + 1, i, ins, s =>
    let row := ins.map fun q => (q.1, q.2.1, q.2.2.headD (.fin false 0 0))
    let s := body.foldl (runInstr x i row) { s with v := v0 }
    runElements x v0 body n (i + 1) (ins.map fun q => (q.1, q.2.1, q.2.2.tail)) s

/-- An accumulator is fed by HMAX (R122). -/
def accIsMax (img : Image) (a : Nat) : Bool :=
  img.words.any fun w => wOp w.toNat == 0x14 && wAcc w.toNat == a

/-- Maximum of FP32-widened values by R110, from −∞ (R122). -/
def hmaxOf (vs : List Val) : Nat :=
  vs.foldl (fun m v =>
    let c := encCode (convertVal tFp32 true none false v).1
    minMax tFp32 true (m, (readCode tFp32 m).1) (c, v)) 0xFF800000

/-- What a phase gives: the values stored in each stream, each accumulator's block results, and flags. -/
structure PhaseOut where
  outs   : List (Nat × List Val)
  blocks : List (List Nat)
  flags  : Flags

/-- One phase of a program over `n` elements (R102, R119 to R123). -/
def runPhase (img : Image) (phase : Nat) (x : PhaseIn) (n : Nat) (ins : List (Nat × Bool × List Val)) : PhaseOut :=
  let p := runPreamble x (imgSection img phase true)
  let body := imgSection img phase false
  let s := runElements x p.v body n x.first ins { p with stores := [], terms := [] }
  let stores := s.stores.reverse
  let terms := s.terms.reverse
  let per := (List.range 4).map fun a =>
    let ts := (terms.filter (·.1 == a)).map (·.2)
    if ts.isEmpty then ([], fNone)
    else if accIsMax img a then ([hmaxOf (ts.map (·.1))], fNone)
    else
      let bs := (chunksOf 16 ts).map blockDot
      (bs.map (·.1), fOr (bs.map (·.2)))
  { outs := (streamsOf 0x11 body).map fun k => (k, (stores.filter (·.1 == k)).map (·.2))
    blocks := per.map (·.1)
    flags := s.flags ||| fOr (per.map (·.2)) }

/-- Block results added to an accumulator in order, and the flags the adds call for (R93, R122, R123). -/
def accAdd (isMax : Bool) (acc : Option Nat) (blocks : List Nat) : Option Nat × Flags :=
  blocks.foldl (fun (a : Option Nat × Flags) b =>
    match a.1 with
    | none => (some b, a.2)
    | some r =>
      if isMax then
        (some (minMax tFp32 true (r, (readCode tFp32 r).1) (b, (readCode tFp32 b).1)), a.2)
      else
        let (c, f) := add1 tFp32 r b
        (some c, a.2 ||| f)) (acc, fNone)

/-- HGET's value of an accumulator (R122, R124). -/
def accFinal (isMax : Bool) (acc : Option Nat) : Nat := acc.getD (if isMax then 0xFF800000 else 0)

/-- The binary operator of a REDUCE_OP image on element `i` (R99, R104). -/
def reduceOp (img : Image) (work : Nat) (x : PhaseIn) (i : Nat) (a b : WVal) : WVal × Flags :=
  if imgOpTy img = 0xFF then addW work a b
  else
    let p := runPreamble x (imgSection img 1 true)
    let s := (imgSection img 1 false).foldl (runInstr x i [])
      { p with v := (p.v.set 0 (a.headD 0)).set 1 (b.headD 0) }
    ([s.v.headD 0 % 2 ^ (tyTarget (imgOpTy img)).width], s.flags)

/-! ## Cost (Table 4.5, R96, R126) -/

/-- Handshake slots of one instruction. -/
def slotsOf (w : Nat) : Nat :=
  match wOp w with
  | 0x01 | 0x02 | 0x03 | 0x04 | 0x05 | 0x06 | 0x12 | 0x13 | 0x14 => if wTy w = 0 then 4 else 1
  | 0x0A => 17
  | 0x0B => 25
  | _ => 1

/-- Handshake slots of one element-add of a working format (Table 3.6). -/
def addSlots (work : Nat) : Nat :=
  match work with
  | 0 => 4
  | 9 => 4
  | 10 => 8
  | _ => 1

/-- Slots of one execution of a section. -/
def sectionSlots (ws : List Nat) : Nat := ws.foldl (fun n w => n + slotsOf w) 0

end Sys2Proof.Machine
end

