-- ==== Sys2Proof/Machine/Reset.lean ====
section
/-!
DEFINITION. Resets and the start of the module: the host interface reset (R389), the module reset (R418), the boot ROM
with its verification of images (R415 to R419), the protection set-up (R421, R422) and firmware start (R177, R456).
-/
namespace Sys2Proof.Machine

/-! ## Host interface reset (R389) -/

/-- A ring disabled, its head, tail and reservations cleared. -/
def resetSq (q : Sq) : Sq :=
  { q with enable := false, active := false, stalled := false, head := 0, tail := 0, headWait := none }
def resetCq (c : Cq) : Cq :=
  { c with enable := false, active := false, head := 0, tail := 0, oddPass := false, reserved := 0, waiting := [],
           sinceIrq := 0, irqStart := none }

/-- A table with a function applied to each entry, entries that become the default left out. -/
def tmap {α : Type} [DecidableEq α] (d : α) (f : α → α) (t : Table α) : Table α :=
  (t.map fun q => (q.1, f q.2)).filter fun q => q.2 != d

/-- An operation's result (Table 14.15). -/
def fwResult (op r : Nat) (s : State) : State :=
  { s with boot := { s.boot with busy := false, staging := none, result := BitVec.ofNat 8 r, lastOp := BitVec.ofNat 4 op } }

/-- A host interface reset (R389, R437). It also drops the low halves that wait for their high half and the high halves latched by
reads of R13, which R389 does not name (DESIGN CHOICE, log entry 115). Of a STAGE and an attestation report in progress, the one ends with HOST_READ (R420) and
the other is discarded (R427). Samples not yet written give their cells back. -/
def hostInterfaceReset (s : State) : State :=
  let s := forEach s.traffic.samples (fun x => freeCell 0 x.cell false) s
  let s := if s.boot.staging.isSome then fwResult 1 0x06 s else s
  let h := s.host
  { s with
    host := { h with
      ringsEn := false, turn := 255, turnLeft := 0
      sqs := tmap {} resetSq h.sqs, cqs := tmap {} resetCq h.cqs
      sample := { h.sample with enable := false, active := false, head := 0, tail := 0, oddPass := false }
      msix := [], msixTable := [], readLatch := [], writeHold := []
      outstanding := h.outstanding.map fun t => { t with dead := true } }
    traffic := { s.traffic with samples := [] }
    boot := { s.boot with attBusy := false }
    perf := { s.perf with enable := false, active := false, head := 0, tail := 0, capture := none, waitRec := none } }

/-! ## Module reset (R418, R444) -/

/-- The flash as a reset leaves it: a slot that a STAGE was filling fails R417 (R420); its bytes are erased (log entry 8). -/
def resetFlash (s : State) : Flash :=
  match s.boot.staging with
  | some g => if g.slot then { s.flash with slotB := [] } else { s.flash with slotA := [] }
  | none => s.flash

/-- The module taken to reset with a cause of Table 14.3. Everything but the flash, the pins and what the module has
driven returns to its reset value; of two causes in one tick the lower code stands. After a thermal trip it stays in reset
(R447). -/
def moduleReset (code : Nat) (s : State) : State :=
  let cause := BitVec.ofNat 8 code
  let cause := if s.boot.justReset && decide (s.boot.lastReset < cause) then s.boot.lastReset else cause
  let z := State.initial (resetFlash s)
  { z with
    pending := s.pending, out := s.out
    boot := { z.boot with
      lastReset := cause, justReset := true, life := if s.boot.life = .tripped then .tripped else .inReset }
    power := { z.power with
      pwrgd := s.power.pwrgd, resetN := s.power.resetN, railsGood := s.power.railsGood
      smbAlert := s.power.smbAlert, thermTrip := s.power.thermTrip, smbAddr := s.power.smbAddr } }

/-- A cause of reset of a module whose rails are up. -/
def poweredReset (code : Nat) (s : State) : State := if s.boot.life = .off then s else moduleReset code s

/-! ## Images and records in flash (R414 to R417) -/

/-- The CRC-32C of a boot control record over its fields, in the order in which R415 names them (log entry 63). -/
def controlCrc (c : BootControl) : BitVec 32 :=
  crc32c (leBytes 4 c.generation.toNat ++ leBytes 1 (b2n c.preferred) ++ leBytes 1 c.trialSlot.toNat ++
    leBytes 1 (b2n c.trialTries) ++ leBytes 4 c.floor.toNat)
def controlOk (c : BootControl) : Bool := c.crc == controlCrc c
/-- A record with its CRC. -/
def sealControl (c : BootControl) : BootControl := { c with crc := controlCrc c }

/-- The CRC-32C of the identity record holds (R419 step 1), over its fields in the order of Table 14.1 (log entry 63). -/
def identityCrc (i : IdentityRecord) : BitVec 32 :=
  crc32c (leBytes 8 i.serial.toNat ++ leBytes 1 i.config.code ++ leBytes 1 (b2n i.gradeH) ++ leBytes 32 i.seed.toNat ++
    leBytes 32 i.publicKey.toNat ++ leBytes 64 i.cert.toNat)
def identityOk (i : IdentityRecord) : Bool := i.crc == identityCrc i

/-- The boot control record in force, and whether it is copy 1 (R415). -/
def bootControl (f : Flash) : BootControl × Bool :=
  let none : BootControl := sealControl
    { generation := 0, preferred := false, trialSlot := 0xFF, trialTries := false, floor := 0, crc := 0 }
  if controlOk f.ctrl0 && (!controlOk f.ctrl1 || decide (f.ctrl1.generation ≤ f.ctrl0.generation)) then (f.ctrl0, false)
  else if controlOk f.ctrl1 then (f.ctrl1, true)
  else (none, true)

/-- A change of the boot control record, written to the copy not in force with the next generation (R415); a lower `floor`
is not written (R414). -/
def writeControl (g : BootControl → BootControl) (s : State) : State :=
  let (c, one) := bootControl s.flash
  let n := sealControl { g c with generation := c.generation + 1 }
  if n.floor < c.floor then s
  else { s with flash := if one then { s.flash with ctrl0 := n } else { s.flash with ctrl1 := n } }

/-- The bytes of an image slot: false A, true B. -/
def flashSlot (f : Flash) (b : Bool) : List Byte := if b then f.slotB else f.slotA

def imgBodyLen (bs : List Byte) : Nat := leAt bs 16 4
def imgFwBuild (bs : List Byte) : Nat := leAt bs 8 4
def imgSecurity (bs : List Byte) : Nat := leAt bs 12 4
/-- The image digest D of R417. -/
def imgDigest (bs : List Byte) : BitVec 512 := BitVec.ofNat 512 (leNat (sha512 (slice bs 0 128)))

/-- `verify` of R417, with the boot ROM's keys: a code of Table 14.4. -/
def verifyImage (f : Flash) (floor : Nat) (bs : List Byte) : Nat :=
  let body := imgBodyLen bs
  if leAt bs 0 4 ≠ 0x4B394657 then 0x01
  else if leAt bs 4 2 ≠ 1 ∨ 1 < leAt bs 6 1 ∨ leAt bs 7 1 ≠ 0 ∨ leAt bs 24 40 ≠ 0 ∨ leAt bs 192 64 ≠ 0 ∨
      body < 1 ∨ 12582912 < body ∨ body ≤ leAt bs 20 4 then 0x02
  else if imgSecurity bs < floor then 0x03
  else if sha512 (slice bs 256 body) ≠ slice bs 64 64 then 0x04
  else if edVerify (if leAt bs 6 1 = 1 then f.romKey1 else f.romKey0) (sha512 (slice bs 0 128)) (slice bs 128 64) then 0x00
  else 0x05

/-! ## Protection blocks (R422, R425) -/

def protGen (b : List Byte) : Nat := leAt b 12 4
def protSigner (b : List Byte) : Nat := leAt b 9 1
/-- Owner key n of a block. -/
def protKey (b : List Byte) (n : Nat) : BitVec 256 := BitVec.ofNat 256 (leAt b (576 + 32 * n) 32)
/-- The signature of a block under a key. -/
def protSigned (b : List Byte) (key : BitVec 256) : Bool :=
  edVerify key (sha512 (slice b 0 4032)) (slice b 4032 64)

/-- Endpoint windows of a block: first and last endpoint, permissions, hanks and base. -/
def protWindows (b : List Byte) : List (Nat × Nat × Nat × Nat × Nat) :=
  (List.range (leAt b 7 1)).map fun i =>
    let o := 320 + 16 * i
    (leAt b o 2, leAt b (o + 2) 2, leAt b (o + 4) 1, leAt b (o + 5) 1, leAt b (o + 8) 8)

/-- The distinct windows, as (base in units of 2 MiB, hanks). -/
def distinctWindows (b : List Byte) : List (Nat × Nat) :=
  (protWindows b).foldl (fun l w => if l.contains (w.2.2.2.2 / 2097152, w.2.2.2.1) then l
    else l ++ [(w.2.2.2.2 / 2097152, w.2.2.2.1)]) []

/-- Windows that overlap are equal (R425). -/
def windowsDisjoint : List (Nat × Nat) → Bool
  | [] => true
  | w :: ws => (ws.all fun v => decide (w.1 + w.2 ≤ v.1 ∨ v.1 + v.2 ≤ w.1)) && windowsDisjoint ws

/-- The checks of Table 14.7 and R425, without the signature. -/
def protChecks (serial : BitVec 64) (b : List Byte) : Bool :=
  let hosts := leAt b 6 1
  let eps := leAt b 7 1
  let keys := leAt b 8 1
  leAt b 0 4 == 0x4B395042 && leAt b 4 2 == 1 && decide (hosts ≤ 16) && decide (eps ≤ 16) &&
  decide (1 ≤ keys ∧ keys ≤ 4) && decide (protSigner b < keys) && leAt b 10 2 == 0 && leAt b 24 40 == 0 &&
  leAt b 704 3328 == 0 && leAt b 16 8 == serial.toNat &&
  ((List.range hosts).all fun i =>
    let base := leAt b (64 + 16 * i) 8
    let len := leAt b (72 + 16 * i) 8
    base % 4096 == 0 && len % 4096 == 0 && len != 0) &&
  leAt b (64 + 16 * hosts) (16 * (16 - hosts)) == 0 &&
  ((List.range eps).all fun i =>
    let o := 320 + 16 * i
    let perm := leAt b (o + 4) 1
    let hanks := leAt b (o + 5) 1
    let base := leAt b (o + 8) 8
    decide (leAt b o 2 ≤ leAt b (o + 2) 2) && perm != 0 && decide (perm < 4) && decide (1 ≤ hanks ∧ hanks ≤ 32) &&
    leAt b (o + 6) 2 == 0 && decide (base < 2 ^ 62) && base % 2097152 == 0) &&
  leAt b (320 + 16 * eps) (16 * (16 - eps)) == 0 &&
  leAt b (576 + 32 * keys) (32 * (4 - keys)) == 0 &&
  windowsDisjoint (distinctWindows b) && decide (((distinctWindows b).map (·.2)).sum ≤ 32)

/-- The protection block in force, and `prot_src` (R422). -/
def protInForce (f : Flash) : List Byte × Nat :=
  let good (b : List Byte) : Bool := protChecks f.identity.serial b && protSigned b (protKey b (protSigner b))
  let g0 := good f.prot0
  let g1 := good f.prot1
  if g0 && (!g1 || decide (protGen f.prot1 ≤ protGen f.prot0)) then (slice f.prot0 0 4096, 1)
  else if g1 then (slice f.prot1 0 4096, 2)
  else ([], 0)

/-! ## Firmware start (R177, R425, R456) -/

/-- FIRMWARE hank j. -/
def firmwareHank (skeins j : Nat) : Nat := j % skeins * 65536 + j / skeins

/-- FIRMWARE hanks taken and zeroed, endpoint windows backed by those from 128 on, library programs loaded, `fw_ready`
set. -/
def firmwareStart (s : State) : State :=
  let n := s.config.skeins
  let s := (List.range 256).foldl (fun s j => setHank .firmware (firmwareHank n j) s) s
  let w := (distinctWindows s.boot.prot).foldl (fun (a : Table (List Nat) × Nat) w =>
    (tset [] a.1 w.1 ((List.range w.2).map fun k => firmwareHank n (a.2 + k)), a.2 + w.2)) ([], 128)
  let lib (k : Nat) : Image :=
    let i := libImage k
    { i with digest := BitVec.ofNat 512 (leNat (sha512 (imgBytes i))) }
  let s := (List.range 5).foldl (fun s k => updSlot k (fun q => { q with image := some (lib k) }) s) s
  { s with skein := { s.skein with ordinal := 0, windows := w.1 }
           host := { s.host with fwReady := true } }

/-! ## Reset release (R419) -/

/-- Steps 1 and 2 of R419: the identity, the trial written off, and the order of slots with whether the first is a
trial. -/
def bootRecords (s : State) : State × Bool × Bool :=
  let i := s.flash.identity
  let s := { s with boot := { s.boot with idValid := identityOk i && edPublic i.seed == i.publicKey, stage := 1 } }
  let c := (bootControl s.flash).1
  if c.trialSlot ≠ 0xFF ∧ c.trialTries then
    let t := c.trialSlot == 1
    (writeControl (fun c => { c with trialTries := false, preferred := if t = c.preferred then !t else c.preferred }) s,
      t, true)
  else (s, c.preferred, false)

/-- The result of a slot's verification recorded. -/
def setResult (slot : Bool) (r : Nat) (s : State) : State :=
  { s with boot := if slot then { s.boot with resultB := BitVec.ofNat 8 r } else { s.boot with resultA := BitVec.ofNat 8 r } }

/-- A verified slot started (R419 steps 5 and 6), with the watchdog of each core armed. -/
def startSlot (slot trial fell : Bool) (s : State) : State :=
  let img := flashSlot s.flash slot
  let p := protInForce s.flash
  firmwareStart { s with boot := { s.boot with
    life := .running, stage := 2, slot := slot, trial := trial, fellBack := fell
    build := BitVec.ofNat 32 (imgFwBuild img), security := BitVec.ofNat 32 (imgSecurity img), digest := imgDigest img
    prot := p.1, protSrc := BitVec.ofNat 2 p.2
    windowHanks := BitVec.ofNat 8 ((distinctWindows p.1).map (·.2)).sum
    keyLoaded := s.boot.idValid, protLocked := true, serviced := [s.clock.now, s.clock.now, s.clock.now, s.clock.now] } }

/-- The boot ROM after reset release: the first slot of the order that verifies, or reset-hold (R419). -/
def bootRom (s : State) : State :=
  let (s, first, trial) := bootRecords s
  let floor := (bootControl s.flash).1.floor.toNat
  let r := verifyImage s.flash floor (flashSlot s.flash first)
  let s := setResult first r s
  if r = 0 then startSlot first trial false s
  else
    let r2 := verifyImage s.flash floor (flashSlot s.flash (!first))
    let s := setResult (!first) r2 s
    if r2 = 0 then startSlot (!first) false true s
    else { s with boot := { s.boot with life := .resetHold, stage := 3, fellBack := true }
                  power := { s.power with smbAlert := true } }

end Sys2Proof.Machine
end

