-- ==== Sys2Proof/Machine/Salpor.lean ====
section
/-!
DEFINITION. The rings of the Salpor command interface: how a descriptor is taken (R394, R397), ring enables and
doorbells (R392, R393, R410), interrupts (R390, R396), and the host's control of the interface (R388, R389).
-/
namespace Sys2Proof.Machine

/-! ## Taking a descriptor (R394) -/

/-- Ring n may have its head descriptor read: firmware serves the rings (Table 13.8), host memory is open to the module, and the
ring is active and not empty. -/
def sqPending (s : State) (n : Nat) : Bool :=
  let q := getSq s n
  s.boot.life == .running && hostOk s && q.enable && q.active && q.head != q.tail

/-- Index after the head of a ring. -/
def sqNext (q : Sq) : BitVec 16 := BitVec.ofNat 16 ((q.head.toNat + 1) % q.size.toNat)

/-- The head descriptor of ring n was read and still waits, for earlier commands or for its completion ring. -/
def headBlocked (s : State) (n : Nat) : Bool :=
  match (getSq s n).headWait with
  | some (fence, c) => (fence && s.host.outstanding.any (·.sq.toNat == n)) || (cqOpen s c && !cqHasRoom (getCq s c))
  | none => false

/-- Rings that have a descriptor to be taken, ascending. -/
def readyRings (s : State) : List Nat := (List.range 256).filter fun n => sqPending s n && !headBlocked s n

/-- The ring whose descriptor is taken next (R394): the one whose turn it is while its turn lasts, else the next ready ring
above it, else the lowest (log entry 57). -/
def turnRing (s : State) : Option Nat :=
  let rs := readyRings s
  if s.host.turnLeft ≠ 0 ∧ s.host.turn ∈ rs then some s.host.turn
  else match rs.find? fun n => decide (s.host.turn < n) with
    | some n => some n
    | none => rs.head?

/-- Everything R394 asks before the head descriptor `d` of ring n is taken. -/
def canTake (s : State) (n : Nat) (d : Desc) : Bool :=
  sqPending s n && inHostWindow s ((getSq s n).base.toNat + 64 * (getSq s n).head.toNat) 64 && turnRing s == some n &&
  !(dFence d && s.host.outstanding.any (·.sq.toNat == n)) && cqOpen s (dCq d) && cqHasRoom (getCq s (dCq d))

/-- The token of a command just taken from ring n. -/
def takenTok (s : State) (n : Nat) (d : Desc) : Tok :=
  { id := s.host.nextTok, sq := BitVec.ofNat 8 n, cq := BitVec.ofNat 8 (dCq d), tag := BitVec.ofNat 32 (dTag d)
    opcode := BitVec.ofNat 8 (dOpcode d), sqHead := sqNext (getSq s n), noIrq := dNoIrq d, dead := false }

/-- One descriptor of ring n's turn used. -/
def useTurn (n : Nat) (s : State) : State :=
  let left := if s.host.turn = n ∧ s.host.turnLeft ≠ 0 then s.host.turnLeft else (getSq s n).weight.toNat
  { s with host := { s.host with turn := n, turnLeft := left - 1 } }

/-- The head of ring n moved on, a completion entry reserved, the command outstanding and counted. -/
def takeDesc (n : Nat) (d : Desc) (s : State) : State :=
  let t := takenTok s n d
  let s := updSq n (fun q => { q with head := sqNext q, stalled := false, headWait := none }) (useTurn n s)
  let s := updCq (dCq d) (fun c => { c with reserved := c.reserved + 1 }) s
  let s := { s with host := { s.host with outstanding := s.host.outstanding ++ [t], nextTok := s.host.nextTok + 1 } }
  count { code := 0x40, priv := some 1 } 1 s

/-- A read of ring n failed on PCI Express, or lies outside every host window: the ring stops (Table 13.15, R424). -/
def fetchError (n : Nat) (s : State) : State :=
  ringError false n 0x04 0 (updSq n (fun q => { q with err := 0x04, active := false }) s)

/-- What happens where the head descriptor is not taken: nothing where the ring has none or another ring's turn comes first; a
stop with FETCH; a wait for earlier commands or, marked by `stalled`, for its completion ring; or its discard with NO_CQ (Table
13.15). -/
def notTaken (n : Nat) (d : Desc) (s : State) : State :=
  if !sqPending s n then s
  else if !inHostWindow s ((getSq s n).base.toNat + 64 * (getSq s n).head.toNat) 64 then fetchError n s
  else if turnRing s ≠ some n then s
  else if dFence d && s.host.outstanding.any (·.sq.toNat == n) then
    updSq n (fun q => { q with headWait := some (true, dCq d) }) s
  else if !cqOpen s (dCq d) then
    ringError false n 0x06 (dTag d)
      (updSq n (fun q => { q with err := 0x06, head := sqNext q, stalled := false, headWait := none }) s)
  else updSq n (fun q => { q with stalled := true, headWait := some (dFence d, dCq d) }) s

/-- The descriptor at the head of ring n taken and run, or not taken. A descriptor whose opcode is not the command's
own has a reserved opcode (log entry 6). -/
def runCommand (op : Nat) (sq : BitVec 8) (d : Desc) (body : Tok → State → State) (s : State) : State :=
  if canTake s sq.toNat d then
    let t := takenTok s sq.toNat d
    let s := takeDesc sq.toNat d s
    if dOpcode d = op then body t s else bad t dtOpcode s
  else notTaken sq.toNat d s

/-- A read of a descriptor that fails sets its error status (Table 13.1), and stops the ring with FETCH. -/
def fetchFails (n : Nat) (s : State) : State :=
  if sqPending s n ∧ turnRing s = some n then fetchError n (setAer s) else s

/-- NOP (R399): it only completes. A read that finds no descriptor stands with it. -/
def execNop (sq : BitVec 8) (d : Fetched) (s : State) : Host.Outcome State Fault Refusal :=
  .next (match d with
    | .read d => runCommand 0x00 sq d (fun t s => if dRsvdOk d [] then ok t 0 [] s else bad t dtReserved s) s
    | .failed => fetchFails sq.toNat s)

/-! ## Submission rings (R392, R393, R397) -/

/-- `weight` as written: 0 is written as 1. -/
def ringWeight (v : Nat) : BitVec 4 := if bits v 27 24 = 0 then 1 else BitVec.ofNat 4 (bits v 27 24)

/-- A write of SQ_CTRL_n with `enable` = 1 (R392). -/
def enableSq (n v : Nat) (s : State) : State :=
  updSq n (fun q =>
    let q := { q with weight := ringWeight v }
    if q.enable then q
    else
      let q := { q with size := BitVec.ofNat 17 v }
      if !ringSizeOk q.size.toNat then { q with err := 0x01 }
      else if q.base = 0 then { q with err := 0x02 }
      else { q with enable := true, active := true, err := 0, head := 0, tail := 0, stalled := false
                    headWait := none }) s

/-- A write of SQ_CTRL_n with `enable` = 0 (R397): `active` stays while commands taken from the ring run. -/
def disableSq (n v : Nat) (s : State) : State :=
  updSq n (fun q =>
    { q with
      weight := ringWeight v, size := if q.enable then q.size else BitVec.ofNat 17 v
      enable := false, active := q.active && s.host.outstanding.any (·.sq.toNat == n) }) s

def writeSqCtrl (n v : Nat) (s : State) : State := if bit v 31 then enableSq n v s else disableSq n v s

def execSqEnable (ring : BitVec 8) (value : BitVec 32) (s : State) : Host.Outcome State Fault Refusal :=
  .next (hostAccess (enableSq ring.toNat value.toNat) s)

def execSqDisable (ring : BitVec 8) (value : BitVec 32) (s : State) : Host.Outcome State Fault Refusal :=
  .next (hostAccess (disableSq ring.toNat value.toNat) s)

/-! ## Completion rings (R392, R396, R397) -/

/-- The fields of CQ_CTRL_n that a write sets whether or not the ring is enabled. -/
def cqFields (v : Nat) (c : Cq) : Cq :=
  { c with event := bit v 62, irqEn := bit v 61, vector := BitVec.ofNat 11 (bits v 58 48)
           modCount := BitVec.ofNat 8 (bits v 47 40), modTime := BitVec.ofNat 16 (bits v 39 24) }

/-- A write of CQ_CTRL_n with `enable` = 1 (R392). Its interrupt fields may make a message due at once (R396). -/
def enableCq (n v : Nat) (s : State) : State :=
  cqModerate n <| updCq n (fun c =>
    let c := cqFields v c
    if c.enable then c
    else
      let c := { c with size := BitVec.ofNat 17 v }
      if !ringSizeOk c.size.toNat then { c with err := 0x01 }
      else if c.base = 0 then { c with err := 0x02 }
      else { c with enable := true, active := true, err := 0, head := 0, tail := 0, oddPass := false, reserved := 0
                    waiting := [], sinceIrq := 0, irqStart := none }) s

/-- The completion owed to a command discarded: its ring's `err`, and the RING_ERROR event (R397). -/
def discardTag (n tag : Nat) (s : State) : State := ringError true n 0x08 tag (updCq n (fun c => { c with err := 0x08 }) s)

/-- A write of CQ_CTRL_n with `enable` = 0 (R397): reserved completions are discarded, and the commands go on. An
event that waited to be written is lost (R404). -/
def disableCq (n v : Nat) (s : State) : State :=
  let c := getCq s n
  let mine := s.host.outstanding.filter fun t => t.cq.toNat == n && !t.dead
  let s := updCq n (fun c =>
    { cqFields v c with size := if c.enable then c.size else BitVec.ofNat 17 v
                        enable := false, active := false, reserved := 0, waiting := [] }) s
  if !c.active then s
  else
    let s := { s with host := { s.host with
      outstanding := s.host.outstanding.map fun t => if t.cq.toNat == n then { t with dead := true } else t
      lostSince := (c.waiting.filter (·.2.1)).foldl (fun k _ => satInc k) s.host.lostSince } }
    let s := forEach (c.waiting.filter (!·.2.1)) (fun e => discardTag n (field e.1 0 4)) s
    forEach mine (fun t => discardTag n t.tag.toNat) s

def writeCqCtrl (n v : Nat) (s : State) : State := if bit v 63 then enableCq n v s else disableCq n v s

def execCqEnable (ring : BitVec 8) (value : BitVec 64) (s : State) : Host.Outcome State Fault Refusal :=
  .next (hostAccess (enableCq ring.toNat value.toNat) s)

def execCqDisable (ring : BitVec 8) (value : BitVec 64) (s : State) : Host.Outcome State Fault Refusal :=
  .next (hostAccess (disableCq ring.toNat value.toNat) s)

/-! ## The sample ring (R410) -/

/-- A write of SAMPLE_CTRL, which enables or disables the ring. -/
def writeSampleCtrl (v : Nat) (s : State) : State :=
  let r := s.host.sample
  let r :=
    if !bit v 31 then { r with size := if r.enable then r.size else BitVec.ofNat 17 v, enable := false, active := false }
    else if r.enable then r
    else
      let r := { r with size := BitVec.ofNat 17 v }
      if !ringSizeOk r.size.toNat then { r with err := 0x01 }
      else if r.base = 0 then { r with err := 0x02 }
      else { r with enable := true, active := true, err := 0, head := 0, tail := 0, oddPass := false }
  { s with host := { s.host with sample := r } }

def execSampleRingEnable (value : BitVec 32) (s : State) : Host.Outcome State Fault Refusal :=
  .next (hostAccess (writeSampleCtrl value.toNat) s)

/-! ## Doorbells (R393) -/

/-- The tail doorbell of SQ n. -/
def sqDoorbell (n v : Nat) (s : State) : State :=
  if !(getSq s n).enable then s
  else if (getSq s n).size.toNat ≤ v then
    ringError false n 0x05 0 (updSq n (fun q => { q with err := 0x05 }) s)
  else updSq n (fun q => { q with tail := BitVec.ofNat 16 v }) s

/-- An index between a ring's head and its tail, counting forward from the head. -/
def inWritten (head tail size v : Nat) : Bool :=
  decide (v < size) && decide ((v + size - head) % size ≤ (tail + size - head) % size)

/-- The head doorbell of CQ n. -/
def cqDoorbell (n v : Nat) (s : State) : State :=
  let c := getCq s n
  if !c.enable then s
  else if inWritten c.head.toNat c.tail.toNat c.size.toNat v then updCq n (fun c => { c with head := BitVec.ofNat 16 v }) s
  else ringError true n 0x05 0 (updCq n (fun c => { c with err := 0x05 }) s)

/-- The head doorbell of the sample ring. Its error posts a RING_ERROR event, whose table has no name for the ring: `arg0` is a
FREE VALUE (log entry 7). -/
def sampleDoorbell (v : Nat) (s : State) : State :=
  let r := s.host.sample
  if !r.enable then s
  else if inWritten r.head.toNat r.tail.toNat r.size.toNat v then
    { s with host := { s.host with sample := { r with head := BitVec.ofNat 16 v } } }
  else postEvent 0x000D Config.sampleRingName 0x05 (leBytes 4 0) { s with host := { s.host with sample := { r with err := 0x05 } } }

def execSqTailDoorbell (ring : BitVec 8) (value : BitVec 32) (s : State) : Host.Outcome State Fault Refusal :=
  .next (hostAccess (sqDoorbell ring.toNat value.toNat) s)

def execCqHeadDoorbell (ring : BitVec 8) (value : BitVec 32) (s : State) : Host.Outcome State Fault Refusal :=
  .next (hostAccess (cqDoorbell ring.toNat value.toNat) s)

def execSampleHeadDoorbell (value : BitVec 32) (s : State) : Host.Outcome State Fault Refusal :=
  .next (hostAccess (sampleDoorbell value.toNat) s)

/-- A 32-bit write in BAR2 (R393): the doorbell at its offset; any other offset is reserved, and ignored. -/
def doorbell (off v : Nat) (s : State) : State :=
  if off % 64 ≠ 0 then s
  else if off < 0x4000 then sqDoorbell (off / 64) v s
  else if off < 0x8000 then cqDoorbell ((off - 0x4000) / 64) v s
  else if off = 0x8000 then sampleDoorbell v s
  else s

/-! ## Interrupts (R390, R396) -/

/-- `mod_time` of a ring runs out: its vector is sent when it has. -/
def execIrqModerationTimeout (ring : BitVec 8) (s : State) : Host.Outcome State Fault Refusal :=
  .next (cqModerate ring.toNat s)

/-- A vector's mask bit written; unmasking sends the message that is pending (R390). -/
def maskVector (v : Nat) (on : Bool) (s : State) : State :=
  releaseVector v { s with host := { s.host with
    msix := tset {} s.host.msix v { (tget {} s.host.msix v : MsixVec) with masked := on } } }

def execVectorUnmask (vector : BitVec 11) (s : State) : Host.Outcome State Fault Refusal :=
  .next (hostAccess (maskVector vector.toNat false) s)

/-- Every message that is pending and may go is sent, in ascending vector. -/
def releaseVectors (s : State) : State := forEach (s.host.msix.map (·.1)) releaseVector s

/-! ## Control of the interface (R388, R389, R418) -/

/-- Power state D3hot entered, which acts as a host interface reset, or left (Table 13.1, R389). -/
def setD3 (on : Bool) (s : State) : State :=
  let s := if on && !s.host.pcie.d3hot then hostInterfaceReset s else s
  { s with host := { s.host with pcie := { s.host.pcie with d3hot := on } } }

/-- A field of configuration space written. Bus Master Enable: what waited is written, and messages that wait are sent, once they
may be (R388). A size outside Table 13.1 is not taken, and a BAR keeps the bits above its size (PRESUMED, log entry 10). -/
def configWrite (w : ConfigWrite) (s : State) : State :=
  let p := s.host.pcie
  let put (p : Pcie) : State := { s with host := { s.host with pcie := p } }
  match w with
  | .busMaster on => releaseVectors (flushWaiting { s with host := { s.host with bme := on } })
  | .msix e m => releaseVectors (put { p with msixEnable := e, msixMask := m })
  | .maxPayload c => if c.toNat ≤ 2 then put { p with maxPayload := c } else s
  | .maxRead c => if c.toNat ≤ 5 then put { p with maxRead := c } else s
  | .bar0 a => put { p with bar0 := BitVec.ofNat 64 (a.toNat / 2 ^ 26 * 2 ^ 26) }
  | .bar2 a => put { p with bar2 := BitVec.ofNat 64 (a.toNat / 2 ^ 16 * 2 ^ 16) }
  | .power d => setD3 d s
  | .aerClear b => put { p with aer := p.aer &&& ~~~b }

def execBusMasterEnable (field : ConfigWrite) (s : State) : Host.Outcome State Fault Refusal :=
  .next (hostAccess (configWrite field) s)

/-- HOST_CTRL `rings_en` written. -/
def setRingsEn (on : Bool) (s : State) : State := flushWaiting { s with host := { s.host with ringsEn := on } }

def execRingsEn (on : Bool) (s : State) : Host.Outcome State Fault Refusal := .next (hostAccess (setRingsEn on) s)

/-- HOST_CTRL `if_reset`. -/
def execIfReset (s : State) : Host.Outcome State Fault Refusal := .next (hostAccess hostInterfaceReset s)

/-- A host interface reset from PCI Express (R389, R444). Entry to D3hot is seen in the power state, and every other cause brings
the function back to D0 (PRESUMED, log entry 10). -/
def linkReset (cause : LinkEvent) (s : State) : State :=
  let s := hostInterfaceReset s
  { s with host := { s.host with pcie := { s.host.pcie with d3hot := cause == .d3hot } } }

def execHostInterfaceReset (cause : LinkEvent) (s : State) : Host.Outcome State Fault Refusal :=
  .next (linkReset cause s)

/-- HOST_CTRL `module_reset`: cause 3 of Table 14.3. -/
def execModuleReset (s : State) : Host.Outcome State Fault Refusal := .next (hostAccess (poweredReset 3) s)

end Sys2Proof.Machine
end

