-- ==== Sys2Proof/Machine/Programs.lean ====
section
/-!
DEFINITION. The program store's commands: PROGRAM_LOAD, PROGRAM_CLEAR and PROGRAM_QUERY (R97 to R99, R127 to R130). Their
detail codes are those of Table 4.8.
-/
namespace Sys2Proof.Machine

/-- A command of the program store refused with a code of Table 4.8. -/
def progBad (t : Tok) (code : Nat) (s : State) : State := complete t stBadDescriptor code 0 [] s

def slotBound (s : State) (n : Nat) : Bool := decide (0 < (getSlot s n).binds)

/-- The first 8 bytes of an image's digest. -/
def digest8 (i : Image) : Nat := i.digest.toNat % 2 ^ 64

/-- An image with its SHA-512 digest over its resident bytes. -/
def sealImage (i : Image) : Image := { i with digest := BitVec.ofNat 512 (leNat (sha512 (imgBytes i))) }

/-- A slot's image replaced as one change, and the command completed with the digest (R127 step 4). -/
def installImage (n : Nat) (i : Image) (t : Tok) (s : State) : State :=
  ok t (digest8 i) [] (updSlot n (fun q => { q with image := some i }) s)

/-- A descriptor of PROGRAM_LOAD outside Table 4.8's DESC_FIELD. -/
def loadDescOk (d : Desc) : Bool :=
  dRsvdOk d [(8, 1), (9, 1), (10, 1), (12, 4), (16, 8)] && decide (field d 8 1 < 64) &&
  (match field d 9 1 with
    | 0 => field d 10 1 == 0 && field d 16 8 % 64 == 0
    | 1 => decide (field d 10 1 ≤ 4) && field d 16 8 == 0 && field d 12 4 == 0
    | _ => false)

/-- PROGRAM_LOAD (R127, R128): checks 0x0B and 0x0C first, then the image checks in table order. -/
def programLoad (d : Desc) (h : HostRead) (t : Tok) (s : State) : State :=
  let n := field d 8 1
  if !loadDescOk d then progBad t 0x0B s
  else if field d 9 1 = 1 then
    if slotBound s n then progBad t 0x09 s else installImage n (sealImage (libImage (field d 10 1))) t s
  else match hostRead s (field d 16 8) (field d 12 4) h with
    | none => progBad t 0x0C (noteRead (field d 16 8) (field d 12 4) h s)
    | some bs =>
      let c := checkImage bs (slotBound s n)
      if c ≠ 0 then progBad t c s else installImage n (sealImage (imgOfBytes bs)) t s

def execProgramLoad (sq : BitVec 8) (d : Desc) (host : HostRead) (s : State) : Host.Outcome State Fault Refusal :=
  .next (runCommand 0x01 sq d (fun t s => programLoad d host t s) s)

/-- PROGRAM_CLEAR. -/
def programClear (d : Desc) (t : Tok) (s : State) : State :=
  let n := field d 8 1
  if !dRsvdOk d [(8, 1)] || decide (64 ≤ n) then progBad t 0x0B s
  else if slotBound s n then progBad t 0x09 s
  else ok t 0 [] (updSlot n (fun q => { q with image := none }) s)

def execProgramClear (sq : BitVec 8) (d : Desc) (s : State) : Host.Outcome State Fault Refusal :=
  .next (runCommand 0x02 sq d (fun t s => programClear d t s) s)

/-- The state of a slot (Table 4.1). -/
def slotCode (q : Slot) : Nat := if q.image.isNone then 0 else if q.binds = 0 then 1 else 2

/-- Result part of PROGRAM_QUERY (Table 13.17). -/
def queryResult (q : Slot) : List Byte :=
  let (tag, lib) := match q.image with
    | some i => (imgTag i, bits (imgFlags i) 1 1)
    | none => (0, 0)
  leBytes 2 (slotCode q) ++ leBytes 6 q.binds ++ leBytes 8 tag ++ leBytes 1 lib

/-- PROGRAM_QUERY. -/
def programQuery (d : Desc) (t : Tok) (s : State) : State :=
  let n := field d 8 1
  if !dRsvdOk d [(8, 1)] || decide (64 ≤ n) then progBad t 0x0B s
  else
    let q := getSlot s n
    ok t (match q.image with | some i => digest8 i | none => 0) (queryResult q) s

def execProgramQuery (sq : BitVec 8) (d : Desc) (s : State) : Host.Outcome State Fault Refusal :=
  .next (runCommand 0x03 sq d (fun t s => programQuery d t s) s)

end Sys2Proof.Machine
end

