-- ==== Sys2Proof/Machine/Reference.lean ====
section
/-!
DEFINITION. The module's part in the reference (R282, Table 9.5), its upstream drone lane, and the relay delay taken from it
(R301, R303).
-/
namespace Sys2Proof.Machine

/-- A REFERENCE event. -/
def refEvent (code lane : Nat) (s : State) : State := postEvent 0x0007 code lane [] s

/-- The upstream lane of a relay: the alternative one while locked to it. -/
def refSource (s : State) : Nat := bits s.clock.refCtrl.toNat 1 0
def isRelay (s : State) : Bool := refSource s == 0
def upLane (s : State) : Nat := bits s.clock.refCtrl.toNat 17 13
def altLane (s : State) : Nat := bits s.clock.refCtrl.toNat 23 19
def upstream (s : State) : Nat := if s.clock.onAlt then altLane s else upLane s
def isUpstream (s : State) (m : Nat) : Bool := isRelay s && m == upstream s

/-- Fields of a HELLO body (Table 9.8). -/
def helloField (b : BitVec 224) (o n : Nat) : Nat := efield b o n
def helloFlags (b : BitVec 224) : Nat := helloField b 14 1

/-- D above 200 ns, in 1/64 tick (R303). -/
def farFromSource (s : State) : Bool := decide (16000 < s.clock.relayDelay)

/-- What the upstream's hello says: spread, and its relay delay, to which δ of the lane is added (R301, R303). -/
def takeUpstream (m : Nat) (s : State) : State :=
  let d := getDrone s m
  match d.accepted with
  | none => s
  | some b =>
    if !isUpstream s m then s
    else
      let was := s.clock.spreadSeen && farFromSource s
      let valid := bit (helloFlags b) 2 && helloField b 20 4 != 0xFFFFFFFF && d.measured
      let s := { s with clock := { s.clock with
        spreadSeen := bit (helloFlags b) 3
        relayDelay := if valid then helloField b 20 4 + d.delayFine.toNat else s.clock.relayDelay } }
      if s.clock.spreadSeen && farFromSource s && !was then refEvent 7 m s else s

end Sys2Proof.Machine
end

