-- ==== Sys2Proof/Machine/Transactions.lean ====
section
/-!
DEFINITION. Settings, configuration transactions and route banks (R241 to R245, R259 to R269, R411), and the loads of
whole route banks.
-/
namespace Sys2Proof.Machine

/-! ## Settings (Tables 8.10, 13.24) -/

/-- Addresses of route entries: an endpoint or module entry of bank 0 or 1. -/
def isRouteAddr (a : Nat) : Bool := decide (a < 0x20000) && decide (a % 0x10000 < 0x8800)
/-- The bank of a route entry's address. -/
def routeBank (a : Nat) : Bool := decide (0x10000 ≤ a)

/-- A mapped setting address. -/
def settingMapped (a : Nat) : Bool :=
  isRouteAddr a || (decide (0x20000 ≤ a ∧ a ≤ 0x20002)) || decide (0x30000 ≤ a ∧ a < 0x30080) ||
  decide (0x30100 ≤ a ∧ a < 0x30180) || decide (0x30200 ≤ a ∧ a < 0x30280) || decide (0x34000 ≤ a ∧ a < 0x36000) ||
  decide (0x38000 ≤ a ∧ a < 0x38800) || decide (0x39000 ≤ a ∧ a ≤ 0x39001) || decide (0x3A000 ≤ a ∧ a < 0x3A080) ||
  decide (0x40000 ≤ a ∧ a < 0x48000) || decide (0x50000 ≤ a ∧ a ≤ 0x50002) || a == 0x51000

/-- The ranges and single-value rules of each setting's table; reserved fields are 0 (R264). -/
def settingOk (a v : Nat) : Bool :=
  if isRouteAddr a then
    bits v 51 40 == 0 && !bit v 7 && (decide (a % 0x10000 < 0x8000) || bits v 62 52 == 0)
  else if a = 0x20000 then
    bits v 63 40 == 0 && bits v 15 3 == 0 && bits v 39 32 != 0 && decide (64 ≤ bits v 31 16)
  else if a = 0x20001 then bits v 7 1 == 0 && bits v 63 40 != 0 && decide (bits v 39 8 ≤ bits v 63 40 * 1250)
  else if a = 0x20002 then bits v 63 4 == 0
  else if a < 0x30080 then bits v 63 53 == 0 && (List.range 5).all fun k => bits v (8 * k + 7) (8 * k) != 0
  else if a < 0x30180 then bits v 63 8 == 0 && decide (bits v 6 0 ≤ 64)
  else if a < 0x30280 then true
  else if a < 0x36000 then bits v 63 32 == 0 && bits v 7 6 == 0
  else if a < 0x38400 then
    bits v 61 40 == 0 && (if bit v 62 then decide (bits v 19 0 ≤ bits v 39 20) else bits v 39 20 == 0)
  else if a < 0x38800 then bits v 63 48 == 0
  else if a ≤ 0x39001 then
    let n := if a = 0x39000 then 3 else 2
    bits v 63 (20 * n) == 0 && (List.range n).all fun k =>
      decide (1 ≤ bits v (20 * k + 19) (20 * k) ∧ bits v (20 * k + 19) (20 * k) ≤ 1000000)
  else if a < 0x3A080 then bits v 61 41 == 0 && bits v 31 24 == 0
  else if a < 0x48000 then bits v 63 16 == 0 && bits v 14 10 == 0
  else if a = 0x50001 then bits v 63 30 == 0
  else if a ≤ 0x50002 then bits v 63 48 == 0
  else bits v 63 11 == 0

/-- REF_RELAY as REF_CTRL has it (Table 13.25). -/
def refRelay (s : State) : Nat :=
  let r := s.clock.refCtrl.toNat
  bits r 23 19 * 64 + 32 * bits r 18 18 + bits r 17 13

/-- A setting's committed value as it reads: write-only fields 0. -/
def readSetting (s : State) (a : Nat) : Nat := if a = 0x51000 then refRelay s else setting s a

/-! ## Escape order (R245) -/

/-- A valid entry at an address meets R245, against the neighbour table in force. -/
def escOk (s : State) (a v : Nat) : Bool :=
  let d := s.routing.dim.toNat
  let i := a % 0x10000
  let esc := bits v 6 0
  let cands := (List.range 4).all fun k =>
    let c := bits v (8 * k + 15) (8 * k + 8)
    !bit c 7 || peEnable (getPort s (c % 128))
  let dimPort (k : Option Nat) : Bool := match k with
    | some k => isModPort s esc && peDim (getPort s esc) == k
    | none => false
  cands &&
  (if 0x8000 ≤ i then
    let t := i - 0x8000
    decide (t < 2 ^ d) && (t == s.label || dimPort (escapeDim s.label t d))
  else
    let home := bits v 62 52
    decide (home < 2 ^ d) &&
    (if home / 2 = s.label / 2 then
      isDim0 s esc || (peEnable (getPort s esc) && !peModule (getPort s esc) && pePeer (getPort s esc) == i)
    else dimPort (escapeDim (2 * (s.label / 2)) (2 * (home / 2)) d)))

/-- The first valid entry of a bank that breaks R245. -/
def badEntry (s : State) (bank : Bool) : Option Nat :=
  (s.routing.settings.find? fun q =>
    isRouteAddr q.1 && routeBank q.1 == bank && bit q.2.toNat 63 && !escOk s q.1 q.2.toNat).map (·.1)

/-! ## Bank states (R242, R259 to R261) -/

def setBank (b : Bool) (st : BankState) (s : State) : State :=
  { s with routing := if b then { s.routing with bank1 := st } else { s.routing with bank0 := st } }

/-- The bank that drains. -/
def drainingBank (s : State) : Option Bool :=
  if s.routing.bank0 = .draining then some false else if s.routing.bank1 = .draining then some true else none

/-- Packets resident in the module, from receipt (R260): received and not yet looked up, queued, being sent, or delivered and not
consumed. What comes from an endpoint is stamped only at its injection (R215). -/
def residents (s : State) : List Packet :=
  s.ports.flatMap (fun q => (if peModule q.2 then (q.2.rxQueue.map (·.2)).filter (pType · != 0x40) else []) ++
    (q.2.queues.flatMap (·.2) ++ q.2.sending.map (·.2)).map (·.pkt)) ++ s.routing.inbox.map (·.pkt)

/-- The drain counter (R260). -/
def drainCount (s : State) : Nat :=
  match drainingBank s with
  | some b => ((residents s).filter fun p => pEpoch p == b).length
  | none => 0

/-- A DRAINING bank retires when R260 lets it. -/
def retireBank (s : State) : State :=
  match drainingBank s with
  | none => s
  | some b =>
    let e := setting s 0x20001
    let t := since s s.routing.drainAt
    if (drainCount s = 0 ∧ bits e 39 8 ≤ t) ∨ bits e 63 40 * 1250 ≤ t then setBank b .retired s else s

/-- An epoch switch (R259); none when its conditions fail. -/
def switchEpoch (s : State) : Option State :=
  let cur : Option Bool :=
    if s.routing.bank0 = .current then some false else if s.routing.bank1 = .current then some true else none
  let inc : Option Bool :=
    match cur with
    | some c => if bankState s (!c) = .loaded then some (!c) else none
    | none =>
      if s.routing.bank0 = .loaded ∧ s.routing.bank1 ≠ .loaded then some false
      else if s.routing.bank1 = .loaded ∧ s.routing.bank0 ≠ .loaded then some true else none
  if (drainingBank s).isSome then none
  else match inc with
  | none => none
  | some i =>
    let s := setBank i .current s
    let s := match cur with
      | some c => setBank c .draining s
      | none => s
    some { s with routing := { s.routing with epoch := i, drainAt := s.clock.now } }

/-- One bit of BANK_ARM (R261): 0 and 1 arm, 2 and 3 disarm; the failing code of Table 8.11 and address, or the state.
-/
def armBit (k : Nat) (s : State) : (Nat × Nat) ⊕ State :=
  let b := k % 2 == 1
  if k < 2 then
    if bankState s b ≠ .retired then .inl (0x07, 0x20002)
    else match badEntry s b with
    | some a => .inl (0x06, a)
    | none => .inr (setBank b .loaded s)
  else if bankState s b ≠ .loaded then .inl (0x07, 0x20002)
  else .inr (setBank b .retired s)

/-! ## Packets held for want of a port (R252, R254) -/

/-- A held packet with the stamp of the new epoch, where that gives it a live route (R254; DEDUCED, log entry 48). -/
def liveStamp (s : State) (x : QPkt) : Option Packet :=
  let fresh := stamp x.pkt (pEsc x.pkt) s.routing.epoch
  if isLive (lookupStamped s fresh x.inPort false).2 then some fresh else none

/-- Held packets looked up in a new epoch: those that it gives a live route leave, the others stay until they age out (R254). They
are taken, and metered, in the order of the ports and queues that hold them, each in an internal cycle of its own (DESIGN CHOICE, log
entry 113). -/
def retryHeld (s : State) : State :=
  s.ports.foldl (fun s q => q.2.queues.foldl (fun s k =>
    (k.2.filter (·.held)).foldl (fun s x =>
      match liveStamp s x with
      | some p => route { x with pkt := p, held := false, headAt := none } false false (updQueue q.1 k.1 (·.erase x) s)
      | none => s) s) s) s

/-- A bank retires; a packet past lookup keeps its output (R260). -/
def execBankRetire (s : State) : Host.Outcome State Fault Refusal := .next (retireBank s)

/-! ## Commit (R265, R266) -/

/-- What a committed value does beside being stored: a meter's buckets filled (R313), a sampler's counts restarted
(R319), the reference lanes taken (Table 13.25), with the relay delay of the new upstream lane (R301). A new upstream lane does
not count as a relock: no lane measures its delay anew (DESIGN CHOICE, log entry 120). -/
def settingEffect (a v : Nat) (s : State) : State :=
  if 0x38000 ≤ a ∧ a < 0x38800 then
    let n := a % 0x400
    let b := setting s (0x38400 + n)
    let m : Meter := tget {} s.traffic.meters n
    let m := { m with tc := bits b 23 0 * 1250, te := bits b 47 24 * 1250, last := fabricTime s }
    { s with traffic := { s.traffic with meters := tset {} s.traffic.meters n m } }
  else if 0x3A000 ≤ a ∧ a < 0x3A080 then
    updPort (a - 0x3A000) (fun p => { p with smpCount := 0, smpNo := 0 }) s
  else if a = 0x51000 then
    let r := setBits s.clock.refCtrl 13 11 (bits v 10 6 * 64 + 32 * bits v 5 5 + bits v 4 0)
    let from' := match s.clock.relayFrom with
      | some (m, t) => if t = s.clock.now then some (m, t) else some (upstream s, s.clock.now)
      | none => some (upstream s, s.clock.now)
    let s := { s with clock := { s.clock with refCtrl := r, onAlt := false, relayFrom := from' } }
    takeUpstream (upstream s) s
  else s

/-- A record in force (R266), or the code and address of the state check that fails (R259, R261). -/
def applyRecord (a v : Nat) (s : State) : (Nat × Nat) ⊕ State :=
  if isRouteAddr a then
    if bankState s (routeBank a) = .draining then .inl (0x07, a) else .inr (writeSetting a (BitVec.ofNat 64 v) s)
  else if a = 0x20002 then
    (List.range 4).foldl (fun r k => match r with
      | .inr s => if bit v k then armBit k s else .inr s
      | e => e) (.inr s)
  else if a = 0x20001 then
    let s := writeSetting a (BitVec.ofNat 64 (v - v % 2)) s
    if bit v 0 then
      match switchEpoch s with
      | some s => .inr s
      | none => .inl (0x08, a)
    else .inr s
  else if a = 0x51000 then .inr (settingEffect a v s)
  else .inr (settingEffect a v (writeSetting a (BitVec.ofNat 64 v) s))

/-- Every record in order, or the first failure. -/
def applyRecords : List (BitVec 32 × BitVec 64) → State → (Nat × Nat) ⊕ State
  | [], s => .inr s
  | r :: rs, s => match applyRecord r.1.toNat r.2.toNat s with
    | .inr s => applyRecords rs s
    | .inl e => .inl e

/-- The checks of R245 at COMMIT, over the values the records leave. -/
def checkEntries : List (BitVec 32 × BitVec 64) → State → (Nat × Nat) ⊕ State
  | [], s => .inr s
  | (a, v) :: rs, s =>
    let bad : Option Nat :=
      if isRouteAddr a.toNat then if bit v.toNat 63 && !escOk s a.toNat v.toNat then some a.toNat else none
      else if a.toNat = 0x20002 then
        match (if bit v.toNat 0 then badEntry s false else none) with
        | some e => some e
        | none => if bit v.toNat 1 then badEntry s true else none
      else none
    match bad with
    | some e => .inl (0x06, e)
    | none => checkEntries rs (writeSetting a.toNat v s)

/-- A fret list that closes some VL for ever (R310). -/
def fretBad (s : State) (p : Nat) : Bool :=
  let ctrl := setting s (0x30100 + p)
  let es := ((List.range (bits ctrl 6 0)).map fun e => setting s (0x34000 + 64 * p + e)).filter fun e => bits e 31 8 != 0
  bit ctrl 7 && !es.isEmpty && (List.range 6).any fun k => es.all fun e => !bit e k

/-- Thresholds out of order (R341). -/
def riskBad (v : Nat) : Bool :=
  let t := [bits v 7 0, bits v 15 8, bits v 23 16].filter (· != 0)
  (List.range (t.length - 1)).any fun i => decide (t.getD (i + 1) 0 < t.getD i 0)

/-- A commit that REF_RELAY refuses (Table 13.25). -/
def relayBad (s : State) (v : Nat) : Bool :=
  s.clock.refCtrl.toNat % 4 != 0 ||
  (decide (s.config.bridges = 2) && (decide (15 < bits v 4 0) || decide (15 < bits v 10 6)))

/-- The checks of R310, R341 and Table 13.25 on the values `s` holds once the records are written. -/
def checkLists (recs : List (BitVec 32 × BitVec 64)) (s : State) : Option Nat :=
  (recs.find? fun r =>
    let a := r.1.toNat
    (decide (0x30100 ≤ a ∧ a < 0x30280) && fretBad s (a % 0x80)) ||
    (decide (0x34000 ≤ a ∧ a < 0x36000) && fretBad s ((a - 0x34000) / 64)) ||
    (a == 0x50002 && riskBad (setting s a)) || (a == 0x51000 && relayBad s (setting s a))).map (·.1.toNat)

/-- Every check made when COMMIT is accepted (R265): the failing code and setting address. -/
def commitChecks (recs : List (BitVec 32 × BitVec 64)) (s : State) : Option (Nat × Nat) :=
  match checkEntries recs s with
  | .inl e => some e
  | .inr s' => (checkLists recs s').map fun a => (0x05, a)

/-- A command of Table 8.11 refused with a detail. -/
def txnBad (t : Tok) (detail arg : Nat) (s : State) : State := complete t stBadDescriptor detail arg [] s

/-- `arg` of a failed commit or load: the setting address for ESC_ORDER alone (Tables 13.17, 13.19). -/
def failArg (code a : Nat) : Nat := if code = 0x06 then a else 0

/-- The transaction taken out. -/
def clearTxn (s : State) : State := { s with routing := { s.routing with txn := none } }

/-- A transaction's records have made another bank CURRENT: the new epoch of R254. -/
def newEpoch (s s' : State) : Bool := curValid s' && (!curValid s || s.routing.epoch != s'.routing.epoch)

/-- The records take effect, or the transaction is discarded; retirement comes first (R260). -/
def commitNow (t : Tok) (recs : List (BitVec 32 × BitVec 64)) (s : State) : State :=
  let s := retireBank s
  match applyRecords recs s with
  | .inr s' => ok t 0 [] (if newEpoch s s' then retryHeld (clearTxn s') else clearTxn s')
  | .inl (code, a) => txnBad t code (failArg code a) (clearTxn s)

/-- The commit tick of a pending transaction (R266). -/
def commitDue (s : State) : State :=
  match s.routing.txn with
  | some { records := recs, due := some (time, t) } =>
    if time.toNat ≤ fabricTime s then commitNow t recs s else s
  | _ => s

def execTxnCommitTick (s : State) : Host.Outcome State Fault Refusal := .next (commitDue s)

/-! ## Transaction commands (R264 to R268) -/

/-- TXN_BEGIN. -/
def txnBegin (t : Tok) (s : State) : State :=
  match s.routing.txn with
  | some _ => txnBad t 0x02 0 s
  | none => ok t 0 [] { s with routing := { s.routing with txn := some { records := [], due := none } } }

def execTxnBegin (sq : BitVec 8) (d : Desc) (s : State) : Host.Outcome State Fault Refusal :=
  .next (runCommand 0x30 sq d (fun t s => if dRsvdOk d [] then txnBegin t s else txnBad t 0x05 0 s) s)

/-- The code and address of the first failing record, the n-th of the transaction on. The manual gives no order among a record's
checks: one beyond the 4,096th is refused with TXN_FULL whatever it holds (DESIGN CHOICE, log entry 99). -/
def recordError (n : Nat) : List (List Byte) → Option (Nat × Nat)
  | [] => none
  | r :: rs =>
    let a := leAt r 0 4
    if 4096 ≤ n then some (0x03, a)
    else if !settingMapped a || leAt r 4 4 != 0 then some (0x04, a)
    else if !settingOk a (leAt r 8 8) then some (0x05, a)
    else recordError (n + 1) rs

/-- TXN_WRITE of records read from host memory. A read that fails completes with HOST_READ (R424; log entry 69). -/
def txnWrite (d : Desc) (h : HostRead) (t : Tok) (s : State) : State :=
  let n := field d 8 2
  match s.routing.txn with
  | none => txnBad t 0x01 0 s
  | some x =>
    if x.due.isSome then txnBad t 0x0A 0 s
    else if 4096 < n then txnBad t 0x05 0 s
    else match hostRead s (field d 16 8) (16 * n) h with
    | none => txnBad t dtHostRead 0 (noteRead (field d 16 8) (16 * n) h s)
    | some bs =>
      let rs := chunksOf 16 bs
      match recordError x.records.length rs with
      | some (c, a) => txnBad t c a s
      | none =>
        let new := rs.map fun r => (BitVec.ofNat 32 (leAt r 0 4), BitVec.ofNat 64 (leAt r 8 8))
        ok t 0 [] { s with routing := { s.routing with txn := some { x with records := x.records ++ new } } }

def execTxnWrite (sq : BitVec 8) (d : Desc) (host : HostRead) (s : State) : Host.Outcome State Fault Refusal :=
  .next (runCommand 0x31 sq d (fun t s =>
    if dRsvdOk d [(8, 2), (16, 8)] then txnWrite d host t s else txnBad t 0x05 0 s) s)

/-- TXN_COMMIT. -/
def txnCommit (time : Nat) (t : Tok) (s : State) : State :=
  match s.routing.txn with
  | none => txnBad t 0x01 0 s
  | some x =>
    if x.due.isSome then txnBad t 0x0A 0 s
    else if fabricTime s + 2 ^ 40 < time then txnBad t 0x09 0 s
    else match commitChecks x.records s with
    | some (c, a) => txnBad t c (failArg c a) (clearTxn s)
    | none =>
      if time ≤ fabricTime s then commitNow t x.records s
      else { s with routing := { s.routing with txn := some { x with due := some (BitVec.ofNat 64 time, t) } } }

def execTxnCommit (sq : BitVec 8) (d : Desc) (s : State) : Host.Outcome State Fault Refusal :=
  .next (runCommand 0x32 sq d (fun t s =>
    if dRsvdOk d [(16, 8)] then txnCommit (field d 16 8) t s else txnBad t 0x05 0 s) s)

/-- TXN_FROG (R267). -/
def txnFrog (t : Tok) (s : State) : State :=
  match s.routing.txn with
  | none => txnBad t 0x01 0 s
  | some x =>
    match x.due with
    | none => ok t 0 [] (clearTxn s)
    | some (time, c) =>
      if fabricTime s < time.toNat then ok t 0 [] (txnBad c 0x0B 0 (clearTxn s)) else txnBad t 0x01 0 s

def execTxnFrog (sq : BitVec 8) (d : Desc) (s : State) : Host.Outcome State Fault Refusal :=
  .next (runCommand 0x33 sq d (fun t s => if dRsvdOk d [] then txnFrog t s else txnBad t 0x05 0 s) s)

/-- SETTING_READ: the committed value. -/
def settingRead (a : Nat) (t : Tok) (s : State) : State :=
  if settingMapped a then ok t (readSetting s a) [] s else txnBad t 0x04 0 s

def execSettingRead (sq : BitVec 8) (d : Desc) (s : State) : Host.Outcome State Fault Refusal :=
  .next (runCommand 0x34 sq d (fun t s =>
    if dRsvdOk d [(8, 4)] then settingRead (field d 8 4) t s else txnBad t 0x05 0 s) s)

/-! ## ROUTE_LOAD (R261) -/

/-- Addresses of a bank's entries in the order of a bank image. -/
def imageAddr (bank : Bool) (i : Nat) : Nat := 0x10000 * b2n bank + i

/-- A bank replaced by an image of 34,816 entries. -/
def loadBank (bank : Bool) (entries : List Nat) (s : State) : State :=
  let new := (entries.mapIdx fun i v => (imageAddr bank i, BitVec.ofNat 64 v)).filter fun q => q.2 != 0
  let lo := imageAddr bank 0
  let below := s.routing.settings.filter fun q => decide (q.1 < lo)
  let above := s.routing.settings.filter fun q => decide (lo + 0x8800 ≤ q.1)
  { s with routing := { s.routing with settings := below ++ new ++ above } }

def routeLoad (d : Desc) (h : HostRead) (t : Tok) (s : State) : State :=
  let bank := field d 8 1
  if 1 < bank then txnBad t 0x05 0 s
  else if bankState s (bank == 1) ≠ .retired then txnBad t 0x07 0 s
  else match hostRead s (field d 16 8) 278528 h with
  | none => txnBad t dtHostRead 0 (noteRead (field d 16 8) 278528 h s)
  | some bs =>
    let es := (chunksOf 8 bs).map leNat
    if (es.mapIdx fun i v => (imageAddr (bank == 1) i, v)).any fun q => !settingOk q.1 q.2 then txnBad t 0x05 0 s
    else ok t 0 [] (loadBank (bank == 1) es s)

def execRouteLoad (sq : BitVec 8) (d : Desc) (host : HostRead) (s : State) : Host.Outcome State Fault Refusal :=
  .next (runCommand 0x38 sq d (fun t s =>
    if dRsvdOk d [(8, 1), (16, 8)] then routeLoad d host t s else txnBad t 0x05 0 s) s)

end Sys2Proof.Machine
end

