-- ==== Sys2Proof/Machine/Groups.lean ====
section
/-!
DEFINITION. Group records and what follows from them: the layouts of Tables 5.2 to 5.4 and 6.4 to 6.6, the pattern tree
(R79 to R81, R134, R135), the checks of a cast-on (Table 5.5), and a group's reservations (Table 5.6, R141, R177, R178,
R185, R186).
-/
namespace Sys2Proof.Machine

/-! ## The record (Tables 5.2 to 5.4, 6.4 to 6.6) -/

/-- `ops_mask` permits an operation code. -/
def permits (r : Record) (op : Nat) : Bool := bit r.opsMask op
/-- n of R133. -/
def ranksOf (r : Record) : Nat := r.ranks.length
/-- The group permits REDUCE_APPLY. -/
def hasApply (r : Record) : Bool := permits r 6

def recRanks (bs : List Byte) : Nat := leAt bs 16 2
def recNodes (bs : List Byte) : Nat := leAt bs 18 2
/-- Where the shard table begins. -/
def shardsAt (bs : List Byte) : Nat := 128 + 8 * recRanks bs + 8 * recNodes bs

/-- The record and tables that bytes spell. -/
def recordOf (bs : List Byte) : Record :=
  let n := recRanks bs
  let m := recNodes bs
  let mode := leAt bs 31 1
  let o := shardsAt bs
  let apply := bit (leAt bs 29 1) 6
  let shards := if apply then leAt bs o 4 else 0
  let spans := if apply then leAt bs (o + 4) 4 else 0
  { groupId := leAt bs 0 4, firstSeq := leAt bs 4 4, seed := leAt bs 8 8, dwellLimit := leAt bs 20 4
    maxChunk := leAt bs 24 4, window := leAt bs 28 1, opsMask := leAt bs 29 1, workFmt := leAt bs 30 1
    arrival := bit mode 0, staging := bits mode 2 1, reduceSlot := leAt bs 32 1, mapSlot := leAt bs 33 1
    applySlot := leAt bs 34 1, retryLimit := leAt bs 35 1, outFmt := (List.range 4).map fun j => leAt bs (36 + j) 1
    outCount := leAt bs 40 1, castOnLimit := leAt bs 44 4, rowBase := leAt bs 48 2, rowCount := leAt bs 50 2
    hankCount := leAt bs 52 4, reduceDigest := leAt bs 56 8, mapDigest := leAt bs 64 8, applyDigest := leAt bs 72 8
    ranks := (List.range n).map fun k =>
      let e := 128 + 8 * k
      { endpoint := leAt bs e 2, leafPos := leAt bs (e + 2) 2, outSel := leAt bs (e + 4) 1 }
    nodes := (List.range m).map fun k =>
      let e := 128 + 8 * n + 8 * k
      { moduleId := leAt bs e 2, level := leAt bs (e + 2) 1, slotLevel := leAt bs (e + 3) 1, index := leAt bs (e + 4) 2 }
    totalElems := if apply then leAt bs (o + 8) 8 else 0
    stateFmts := if apply then [leAt bs (o + 16) 1, leAt bs (o + 17) 1, leAt bs (o + 18) 1] else []
    shards := (List.range shards).map fun k =>
      let e := o + 32 + 32 * k
      { owner := leAt bs e 2, partner := leAt bs (e + 2) 2, firstSpan := leAt bs (e + 4) 4, base := leAt bs (e + 8) 8
        count := leAt bs (e + 16) 8, spanCount := leAt bs (e + 24) 4 }
    spans := (List.range spans).map fun k =>
      let e := o + 32 + 32 * shards + 16 * k
      { base := leAt bs e 8, count := leAt bs (e + 8) 8 } }

/-- The record's length agrees with its counts (R137, R180). -/
def recordLenOk (bs : List Byte) (len : Nat) : Bool :=
  let o := shardsAt bs
  let sl := leAt bs 80 4
  len == o + sl && (!bit (leAt bs 29 1) 6 || sl == 32 + 32 * leAt bs o 4 + 16 * leAt bs (o + 4) 4)

/-- The check value of R138: the local part read as zeros. -/
def checkValue (bs : List Byte) : BitVec 64 := sha8 (bs.take 44 ++ List.replicate 12 0 ++ bs.drop 56)

/-- Reserved bytes of the record and its tables are 0 (check 1). -/
def recordRsvdOk (bs : List Byte) (r : Record) : Bool :=
  let n := ranksOf r
  let o := shardsAt bs
  let nodesAt := 128 + 8 * n
  leAt bs 3 1 == 0 && bits r.opsMask 7 7 == 0 && bits r.workFmt 7 4 == 0 && bits (leAt bs 31 1) 7 3 == 0 &&
  bits r.retryLimit 7 4 == 0 && leAt bs 41 3 == 0 && leAt bs 84 44 == 0 &&
  ((List.range n).all fun k => leAt bs (128 + 8 * k + 5) 3 == 0) &&
  ((List.range r.nodes.length).all fun k => leAt bs (nodesAt + 8 * k + 6) 2 == 0) &&
  (!hasApply r || (leAt bs (o + 19) 13 == 0 && (List.range r.shards.length).all fun k => leAt bs (o + 32 + 32 * k + 28) 4 == 0))

/-- A state format of R181. -/
def stateFmtOk (f : Nat) : Bool := f == 0 || f == 1 || f == 9

/-- Fields lie in the ranges of Tables 5.2 to 5.4 and 6.4 to 6.6 (check 1). -/
def recordRangesOk (bs : List Byte) (r : Record) : Bool :=
  let n := ranksOf r
  let limit (v : Nat) : Bool := decide (1250 ≤ v ∧ v ≤ 1250000000)
  decide (1 ≤ n ∧ n ≤ 32768) && decide (1 ≤ r.nodes.length) && limit r.dwellLimit && limit r.castOnLimit &&
  decide (4096 ≤ r.maxChunk ∧ r.maxChunk ≤ 4194304) && decide (1 ≤ r.window ∧ r.window ≤ 64) && r.opsMask != 0 &&
  (r.workFmt == 0 || r.workFmt == 1 || r.workFmt == 2 || r.workFmt == 9 || r.workFmt == 10) && r.staging != 3 &&
  decide (r.reduceSlot < 64) && (decide (r.mapSlot < 64) || r.mapSlot == 0xFF) &&
  (if hasApply r then decide (r.applySlot < 64) else r.applySlot == 0xFF) &&
  (r.mapSlot != 0xFF || r.mapDigest == 0) && (hasApply r || r.applyDigest == 0) &&
  decide (1 ≤ r.outCount ∧ r.outCount ≤ 4) && decide (r.rowBase + r.rowCount ≤ 65536) &&
  (hasApply r || leAt bs 80 4 == 0) &&
  (r.ranks.all fun k => decide (k.endpoint < 32768 ∧ k.leafPos < n ∧ k.outSel < r.outCount)) &&
  (r.nodes.all fun k => decide ((k.moduleId < 2048 ∨ k.moduleId = 0xFFFF) ∧ k.level ≤ 15 ∧ k.slotLevel < k.level)) &&
  (!hasApply r ||
    (decide (1 ≤ r.shards.length ∧ r.shards.length ≤ 4096) && decide (r.spans.length ≤ 1048576) &&
     decide (r.totalElems < 2 ^ 40) &&
     (match r.stateFmts with
      | [a, b, c] => stateFmtOk a && (stateFmtOk b || b == 0xFF) && (stateFmtOk c || c == 0xFF) && (c == 0xFF || b != 0xFF)
      | _ => false) &&
     (r.shards.all fun k => decide (k.owner < 2048 ∧ k.partner < 2048 ∧ k.base < 2 ^ 40 ∧ k.count < 2 ^ 40 ∧
        k.spanCount ≤ 1048576 ∧ (k.spanCount ≠ 0 ∨ k.firstSpan = 0))) &&
     (r.spans.all fun k => decide (k.base < 2 ^ 40 ∧ k.count < 2 ^ 40))))

/-- Check 1 of Table 5.5. -/
def check1 (s : State) (id : Nat) (bs : List Byte) (r : Record) : Bool :=
  r.groupId == id && recordRsvdOk bs r && recordRangesOk bs r && (findGroup s id).isNone &&
  decide (s.groups.length < 4096) && noDup (r.ranks.map (·.endpoint)) &&
  !(permits r 4 && decide (1024 < ranksOf r)) &&
  ((r.outFmt.take r.outCount).all fun f => (Spec.ofNat f).valid false)

/-! ## Programs of a group (check 2, R104, R118, R184) -/

/-- Streams of an APPLY against the arrays present, and the formats the library programs need (R131, R184). Table 6.7 binds
streams without a direction; that an APPLY may not read streams 8 to 10 nor write streams 0 to 3 is the model's (DESIGN
CHOICE, log entry 18). -/
def applyStreamsOk (r : Record) (i : Image) : Bool :=
  let present (k : Nat) : Bool := r.stateFmts.getD k 0xFF != 0xFF
  let rd := imgRead i
  let wr := imgWrite i
  bits rd 15 11 == 0 && bits rd 10 8 == 0 && bits wr 3 0 == 0 && bits wr 15 11 == 0 &&
  ((List.range 3).all fun k => (present k || !bit rd (1 + k)) && present k == bit wr (8 + k)) &&
  (!bit (imgFlags i) 1 || ((List.range 3).all fun k => !present k || r.stateFmts.getD k 0xFF == 0))

/-- Check 2: a slot that holds a program holds one of its kind; R104; the streams of R184. -/
def check2 (s : State) (r : Record) : Bool :=
  let kindOk (slot kind : Nat) (p : Image → Bool) : Bool := match (getSlot s slot).image with
    | some i => imgKind i == kind && p i
    | none => true
  kindOk r.reduceSlot 0 (fun i => imgOpTy i == 0xFF || imgOpTy i == r.workFmt) &&
  (r.mapSlot == 0xFF || kindOk r.mapSlot 1 fun _ => true) &&
  (!hasApply r || kindOk r.applySlot 2 (applyStreamsOk r))

/-! ## The pattern (R81, R134, R135) -/

def nodeLo (d : Node) : Nat := d.index * 2 ^ d.level
def nodeHi (n : Nat) (d : Node) : Nat := min (nodeLo d + 2 ^ d.level) n
/-- Slots of a node. -/
def slotCount (n : Nat) (d : Node) : Nat := ceilDiv (nodeHi n d - nodeLo d) (2 ^ d.slotLevel)
def nodeAt (r : Record) (i : Nat) : Node := r.nodes.getD i default

/-- The node that is slot k of a node, when its slots are nodes. -/
def childOf (r : Record) (d : Node) (k : Nat) : Option Nat :=
  if d.slotLevel = 0 then none
  else
    let i := d.index * 2 ^ (d.level - d.slotLevel) + k
    r.nodes.findIdx? fun c => c.level == d.slotLevel && c.index == i

/-- The parent of a node, and its slot there. -/
def parentOf (r : Record) (i : Nat) : Option (Nat × Nat) :=
  let c := nodeAt r i
  (r.nodes.findIdx? fun d => d.slotLevel == c.level && decide (c.level < d.level) &&
    decide (nodeLo d ≤ nodeLo c ∧ nodeLo c < nodeLo d + 2 ^ d.level)).map fun p =>
    (p, (nodeLo c - nodeLo (nodeAt r p)) / 2 ^ c.level)

/-- The root: the node that is no node's slot. -/
def rootOf (r : Record) : Nat := ((List.range r.nodes.length).find? fun i => (parentOf r i).isNone).getD 0

/-- The node whose slots include a leaf position, and the slot. -/
def leafOf (r : Record) (pos : Nat) : Option (Nat × Nat) :=
  (r.nodes.findIdx? fun d => d.slotLevel == 0 && decide (nodeLo d ≤ pos ∧ pos < nodeHi (ranksOf r) d)).map fun i =>
    (i, pos - nodeLo (nodeAt r i))

/-- The rank at a leaf position. -/
def rankAt (r : Record) (pos : Nat) : Nat := (r.ranks.findIdx? fun k => k.leafPos == pos).getD 0

/-- The node table meets R81 and R135. -/
def patternOk (r : Record) : Bool :=
  let n := ranksOf r
  let root := rootOf r
  let key (d : Node) : Nat := d.level * 65536 + d.index
  noDup (r.nodes.map key) && noDup (r.ranks.map (·.leafPos)) &&
  (r.nodes.all fun d => decide (nodeLo d < n) && decide (1 ≤ slotCount n d ∧ slotCount n d ≤ 64) &&
    (d.slotLevel == 0 || (List.range (slotCount n d)).all fun k => (childOf r d k).isSome)) &&
  ((List.range r.nodes.length).all fun i =>
    let c := nodeAt r i
    let parents := (r.nodes.filter fun d => d.slotLevel == c.level && decide (c.level < d.level) &&
      decide (nodeLo d ≤ nodeLo c ∧ nodeLo c < nodeLo d + 2 ^ d.level)).length
    if i = root then parents == 0 && nodeLo c == 0 && nodeHi n c == n else parents == 1) &&
  ((List.range r.nodes.length).all fun i => (nodeAt r i).moduleId != 0xFFFF || (hasApply r && i == root)) &&
  (!hasApply r || ((nodeAt r root).moduleId == 0xFFFF && (nodeAt r root).slotLevel != 0))

/-- The bank that is CURRENT. -/
def currentBank (s : State) : Option Bool :=
  if s.routing.bank0 = .current then some false else if s.routing.bank1 = .current then some true else none

/-- Every rank's leaf module is one of its endpoint's course (R134). -/
def homesOk (s : State) (r : Record) : Bool :=
  match currentBank s with
  | none => false
  | some b => r.ranks.all fun k =>
    let e := routeEntry s b k.endpoint
    match leafOf r k.leafPos with
    | some (i, _) => bit e 63 && bits e 62 52 / 2 == (nodeAt r i).moduleId / 2
    | none => false

/-- Shard and span tables meet R181 and R327. -/
def shardsOk (s : State) (r : Record) : Bool :=
  let outside := s.course.state == .unset || s.course.state == .refused || s.course.state == .severed
  let ranges := (r.shards.filter fun k => k.spanCount != 0).map fun k => (k.firstSpan, k.spanCount)
  (r.shards.foldl (fun (a : Bool × Nat) k => (a.1 && k.base == a.2, a.2 + k.count)) (true, 0)) == (true, r.totalElems) &&
  (r.shards.all fun k => k.base % 128 == 0 && k.partner == k.owner ^^^ 1 &&
    !(outside && (k.owner == s.label || k.partner == s.label)) &&
    (k.spanCount == 0 || (decide (k.firstSpan + k.spanCount ≤ r.spans.length) &&
      ((r.spans.drop k.firstSpan).take k.spanCount).foldl
        (fun (a : Bool × Nat) p => (a.1 && p.base == a.2 && p.base % 16 == 0, a.2 + p.count)) (true, k.base)
        == (true, k.base + k.count)))) &&
  windowsDisjoint ranges

/-- Every program slot named holds an image of the digest expected (R129). -/
def digestsOk (s : State) (r : Record) : Bool :=
  let good (slot dig : Nat) : Bool := match (getSlot s slot).image with
    | some i => digest8 i == dig
    | none => false
  good r.reduceSlot r.reduceDigest && (r.mapSlot == 0xFF || good r.mapSlot r.mapDigest) &&
  (!hasApply r || good r.applySlot r.applyDigest)

/-- Check 3 of Table 5.5. -/
def check3 (s : State) (r : Record) : Bool :=
  patternOk r && homesOk s r && (!hasApply r || shardsOk s r) && digestsOk s r

/-! ## Levels (R136, check 4) -/

/-- Level of an operation code (Table 5.1). -/
def opLevel (op : Nat) : Nat := if op = 4 then 2 else if op = 6 then 3 else 1

/-- The needed level of a group (R136). -/
def neededLevel (r : Record) : Nat :=
  let ops := ((List.range 7).map fun o => if permits r o then opLevel o else 1).foldl max 1
  let two := decide (9 ≤ r.workFmt) || ((r.outFmt.take r.outCount).any fun f => fmtIsMx (Spec.ofNat f).format) ||
    r.mapSlot != 0xFF
  if two then max ops 2 else ops

/-- Modules that hold a node: its own module, or the owners for the per-shard root (R135). -/
def nodeModules (r : Record) (i : Nat) : List Nat :=
  if (nodeAt r i).moduleId = 0xFFFF then (r.shards.map (·.owner)).eraseDups else [(nodeAt r i).moduleId]

/-- Indices of the nodes that have an instance at a module. -/
def nodesAt (r : Record) (m : Nat) : List Nat := (List.range r.nodes.length).filter fun i => (nodeModules r i).contains m

/-- Modules that hold a node instance adjacent to one of a module's. -/
def adjacentModules (r : Record) (m : Nat) : List Nat :=
  let near := (nodesAt r m).flatMap fun i =>
    let d := nodeAt r i
    (match parentOf r i with | some (p, _) => [p] | none => []) ++
      (List.range (slotCount (ranksOf r) d)).filterMap (childOf r d)
  ((near.flatMap (nodeModules r)).filter (· != m)).eraseDups

/-- A port that has negotiated a level below the one needed. -/
def levelLow (s : State) (p need : Nat) : Bool :=
  let l := (getPort s p).level.toNat
  l != 0 && decide (l < need)

/-- Check 4 of Table 5.5. -/
def check4 (s : State) (r : Record) : Bool :=
  let need := neededLevel r
  let eps := r.ranks.filterMap fun k => epPort s k.endpoint
  let mods := match currentBank s with
    | none => []
    | some b => (adjacentModules r s.label).flatMap fun m =>
      let e := routeEntry s b (modAddr m)
      if bit e 63 then
        bits e 6 0 :: (((List.range 4).map fun i => bits e (8 * i + 15) (8 * i + 8)).filter (bit · 7)).map (· % 128)
      else []
  !((eps ++ mods).any (levelLow s · need))

/-! ## Reservations (Table 5.6, R141, R177, R178, R186) -/

/-- The node instances of a module: one per node, and one of the per-shard root for each shard owned (R135). -/
def instancesAt (r : Record) (m : Nat) : List (Nat × Option Nat) :=
  (List.range r.nodes.length).flatMap fun i =>
    let id := (nodeAt r i).moduleId
    if id = 0xFFFF then
      ((List.range r.shards.length).filter fun k => (r.shards.getD k default).owner == m).map fun k => (i, some k)
    else if id = m then [(i, none)] else []

/-- Buffers of a node instance, each of `max_chunk_bytes` (R141). -/
def instBuffers (r : Record) (i : Nat × Option Nat) : Nat :=
  (r.window + 1) * (slotCount (ranksOf r) (nodeAt r i.1) + (if i.2.isSome then r.outCount else 1))

/-- Buffers of a group at a module. -/
def groupBuffers (r : Record) (m : Nat) : Nat := ((instancesAt r m).map (instBuffers r)).sum

/-- Cells of those buffers, per pool. -/
def groupCells (r : Record) (m : Nat) : List Nat := (bufferCells r.maxChunk).map (· * groupBuffers r m)

/-- Units of 16 KiB of those buffers in staging hanks. -/
def groupUnits (r : Record) (m : Nat) : Nat := groupBuffers r m * ceilDiv r.maxChunk 16384

/-- Credit entries of a group at a module. -/
def groupCredits (r : Record) (m : Nat) : Nat :=
  ((instancesAt r m).map fun i =>
    let d := nodeAt r i.1
    let k := slotCount (ranksOf r) d
    if d.slotLevel = 0 then k else 2 * k).sum

/-- Program slots a record names. -/
def namedSlots (r : Record) : List Nat :=
  [r.reduceSlot] ++ (if r.mapSlot = 0xFF then [] else [r.mapSlot]) ++ (if hasApply r then [r.applySlot] else [])

/-- Contexts and credit entries in use, over every group. -/
def contextsUsed (s : State) : Nat := (s.groups.map fun g => (g.record.window + 1) * g.insts.length).sum
def creditsUsed (s : State) : Nat := (s.groups.map fun g => groupCredits g.record s.label).sum

/-- Two ranges of row counters share one. -/
def rowsMeet (a b : Record) : Bool :=
  decide (a.rowBase < b.rowBase + b.rowCount ∧ b.rowBase < a.rowBase + a.rowCount) && a.rowCount != 0 && b.rowCount != 0

/-- Width of a state format in bytes (R185). -/
def fmtWidth (f : Nat) : Nat := if f = 1 then 2 else 4

/-- Array length L of R185. -/
def arrayLen (f count : Nat) : Nat := if f = 9 then ceilDiv count 128 * 512 else count * fmtWidth f

/-- h of R185. -/
def hanksFor (f count : Nat) : Nat := ceilDiv (arrayLen f count) hankBytes

/-- Format of array 0 to 2 (A1 to A3), or FP32 for scratch 4 to 7. -/
def arrayFmt (r : Record) (a : Nat) : Nat := if a < 3 then r.stateFmts.getD a 0xFF else 0

/-- State arrays present. -/
def presentArrays (r : Record) : List Nat := (List.range 3).filter fun k => r.stateFmts.getD k 0xFF != 0xFF

/-- Scratch arrays the APPLY program declares (R184). -/
def scratchArrays (s : State) (r : Record) : List Nat :=
  match (getSlot s r.applySlot).image with
  | some i => ([4, 5, 6, 7] : List Nat).filter fun k => bit (imgRead i ||| imgWrite i) k
  | none => []

/-- The arrays of one shard allocated: state arrays of two sets, and scratch at its owner. -/
def allocShard (r : Record) (k : Nat) (owner : Bool) (s : State) : Option (Shard × State) :=
  let count := (r.shards.getD k default).count
  let st : HankState := if owner then .shard else .sympathetic
  let scratch := if owner then scratchArrays s r else []
  (presentArrays r ++ scratch).foldl (fun (a : Option (Shard × State)) x =>
    match a with
    | none => none
    | some (sh, s) =>
      let h := hanksFor (arrayFmt r x) count
      let two := decide (x < 3)
      match allocArray (if two then st else .staging) (if two then 2 * h else h) s with
      | none => none
      | some (hs, s) =>
        some ({ sh with arrays := sh.arrays ++ [{ array := x, set0 := hs.take h, set1 := hs.drop h }] }, s))
    (some ({ index := k, owner := owner, arrays := [] }, s))

/-- Shards of a record held at a module in a role, in table order. -/
def shardsOf (r : Record) (m : Nat) (owner : Bool) : List Nat :=
  (List.range r.shards.length).filter fun k =>
    let e := r.shards.getD k default
    (if owner then e.owner else e.partner) == m

/-- A shard taken over from an old group in a role (R357): its state arrays keep their hanks, in the state of the role,
and an owner gets scratch. -/
def keepShard (r : Record) (sh : Shard) (owner : Bool) (s : State) : Option (Shard × State) :=
  let st : HankState := if owner then .shard else .sympathetic
  let s := forEach (sh.arrays.flatMap fun a => a.set0 ++ a.set1)
    (fun h s => if hankState s h = .retired then s else setHank st h s) s
  let count := (r.shards.getD sh.index default).count
  (if owner then scratchArrays s r else []).foldl (fun (a : Option (Shard × State)) x =>
    match a with
    | none => none
    | some (sh, s) => (allocArray .staging (hanksFor 0 count) s).map fun (hs, s) =>
      ({ sh with arrays := sh.arrays ++ [{ array := x, set0 := hs, set1 := [] }] }, s))
    (some ({ sh with owner := owner }, s))

/-- The shards a group holds here, those in `kept` taken over with their hanks (R186, R357). -/
def allocShards (r : Record) (kept : List Shard) (s : State) : Option (List Shard × State) :=
  let want := (shardsOf r s.label true).map (fun k => (k, true)) ++ (shardsOf r s.label false).map (fun k => (k, false))
  want.foldl (fun (a : Option (List Shard × State)) w =>
    match a with
    | none => none
    | some (l, s) =>
      let x := match kept.find? (·.index == w.1) with
        | some sh => keepShard r sh w.2 s
        | none => allocShard r w.1 w.2 s
      x.map fun (sh, s) => (l ++ [sh], s)) (some ([], s))

/-- Every reservation of Table 5.6 made at once, with the shards taken over; none where one is short (R138 step 3). Cells that are
reserved are so under the carve; where none are, the carve is not applied (R166). -/
def reserveGroup (r : Record) (check : BitVec 64) (kept : List Shard) (s : State) : Option (Group × State) :=
  let insts := instancesAt r s.label
  let short := decide (16384 < contextsUsed s + (r.window + 1) * insts.length) ||
    decide (65536 < creditsUsed s + groupCredits r s.label) || (s.groups.any fun g => rowsMeet g.record r) ||
    ((namedSlots r).any fun n => decide (4096 ≤ (getSlot s n).binds)) ||
    (r.staging == 1 && decide (128 * r.hankCount < groupUnits r s.label))
  if short then none
  else
    let cells := groupCells r s.label
    let none' := r.staging == 1 || cells.all (· == 0)
    let inCells : Option (List Nat × State) :=
      if none' then some ([0, 0, 0, 0], s)
      else match reserveCells cells (applyCarve s) with
        | some s => some (cells, s)
        | none =>
          if r.staging = 2 ∧ groupUnits r s.label ≤ 128 * r.hankCount then some ([0, 0, 0, 0], s) else none
    match inCells with
    | none => none
    | some (cells, s) =>
      match allocArray .staging r.hankCount s with
      | none => none
      | some (hanks, s) =>
        match allocShards r kept s with
        | none => none
        | some (shards, s) =>
          let s := forEach (namedSlots r) (fun n => updSlot n (fun q => { q with binds := q.binds + 1 })) s
          some ({ id := r.groupId, record := r, check := check, castAt := s.clock.now
                  insts := insts.map fun i => { node := i.1, shard := i.2, baseSeq := r.firstSeq }
                  nextSeq := r.firstSeq, staging := hanks, shards := shards, reserved := cells }, s)

/-- Hanks of a shard: those of its arrays, and those reserved for a secure point. -/
def shardHanks (sh : Shard) : List Nat := sh.arrays.flatMap fun a => a.set0 ++ a.set1
def secureHanks (sh : Shard) : List Nat := match sh.secure with
  | some p => p.hanks.map (·.2.1)
  | none => []

/-- The numbers of a group's buffers in use: of its open contexts, of what it holds and of its transfers. -/
def groupBufs (s : State) (gid : Nat) : List Nat := (s.pools.buffers.filter (·.2.group == gid)).map (·.1)

/-- A buffer's cells freed to its group's reservation, and the buffer forgotten. -/
def freeBuffer (b : Nat) (s : State) : State :=
  let cells := (tget { group := 0, cells := [], refs := 0 } s.pools.buffers b : Buffer).cells
  let s := forEach cells (fun c => freeCell c.1 c.2 true) s
  { s with pools := { s.pools with buffers := tdel s.pools.buffers b } }

/-- Every buffer of a group freed. -/
def freeBuffers (gid : Nat) (s : State) : State := forEach (groupBufs s gid) freeBuffer s

/-- Every reservation of a group released (R142, R138 step 7); hanks in `keep` stay as they are. -/
def releaseGroup (g : Group) (keep : List Nat) (s : State) : State :=
  let s := unreserveCells g.reserved (freeBuffers g.id s)
  let hanks := g.staging ++ g.shards.flatMap fun sh => shardHanks sh ++ secureHanks sh
  let s := forEach (hanks.filter fun h => !keep.contains h) releaseHank s
  let s := forEach (namedSlots g.record) (fun n => updSlot n (fun q => { q with binds := q.binds - 1 })) s
  { s with groups := s.groups.filter (·.id != g.id), bed := voidBed g.id s.bed }

end Sys2Proof.Machine
end

