-- ==== Sys2Proof/Machine/Flows.lean ====
section
/-!
DEFINITION. Point-to-point flows (R214, R216 to R221): the sender's side, with its window, incarnations and resends, and
the receiver's acceptance of sequence numbers. What a PUT writes is in Puts.lean.
-/
namespace Sys2Proof.Machine

/-- The module's own address. -/
def me (s : State) : Nat := modAddr s.label


/-! ## Sending (R216) -/

/-- The incarnation a new flow or a renewed one takes (R216). -/
def newIncarn (s : State) (old : Option (BitVec 16)) : BitVec 16 :=
  let t := bits (fabricTime s) 45 30
  match old with
  | none => BitVec.ofNat 16 t
  | some o => if newer16 t (o.toNat + 1) ∨ t = (o.toNat + 1) % 65536 then BitVec.ofNat 16 t else o + 1

def getFlow (s : State) (dst : Nat) : Option TxFlow := (s.flows.tx.find? (·.1 == dst)).map (·.2)

def setFlow (dst : Nat) (f : TxFlow) (s : State) : State :=
  { s with flows := { s.flows with tx := tins dst f (s.flows.tx.filter (·.1 != dst)) } }

/-- A flow packet with its sequence number and incarnation (Tables 7.6, 7.9). -/
def numbered (p : Packet) (seq : BitVec 32) (incarn : BitVec 16) : Packet :=
  let h := if pType p = 0x43 then setField (setField p.hdr 8 4 seq.toNat) 28 2 incarn.toNat
    else setField (setField p.hdr 12 4 seq.toNat) 24 2 incarn.toNat
  sealCrc { p with hdr := h }

/-- The origin of a flow packet's work (R432). -/
def Purpose.priv : Purpose → Nat
  | .inject _ | .shardWrite _ => 1
  | .mirror _ _ _ => 0
  | .report => 2

/-- Every packet of a flow that its window lets go and that has not been sent is sent, oldest first (R216). -/
def pumpFlow (dst : Nat) (s : State) : State :=
  match getFlow s dst with
  | none => s
  | some f =>
    match f.unacked.find? (!·.acked) with
    | none => s
    | some o =>
      let may (x : TxPkt) : Bool := x.sentAt.isNone && decide ((x.seq - o.seq).toNat < 256)
      let now := s.clock.now
      let go := (f.unacked.filter may).map fun x =>
        (x.cell, x.purpose.priv, numbered (reInject x.pkt (fabricTime s)) x.seq f.incarn)
      let un := f.unacked.map fun x =>
        if may x then { x with sentAt := some now, due := now + ticks20us, cell := none } else x
      forEach go (fun q => originateIn q.1 q.2.1 q.2.2) (setFlow dst { f with unacked := un } s)

/-- A PUT or GET_REQ of this module joined to its flow, and sent when the window allows. -/
def sendFlow (p : Packet) (cell : Option (Nat × Nat)) (why : Purpose) (s : State) : State :=
  let dst := pDst p
  let f := (getFlow s dst).getD { incarn := newIncarn s none, next := 0, unacked := [] }
  let x : TxPkt := { seq := f.next, pkt := p, sentAt := none, due := 0, refused := none, resends := 0, cell := cell,
                     purpose := why }
  pumpFlow dst (setFlow dst { f with next := f.next + 1, unacked := f.unacked ++ [x] } s)

/-- A PUT of this module on VL1 (R455), its payload whole units and a message of its own. -/
def putPacket (s : State) (dst addr : Nat) (payload : List Byte) : Packet :=
  dataPacket 0x01 1 dst (me s) 0 0 (fabricTime s) [(16, 8, addr)] payload true 0 none

/-- A packet of a flow sent again now (R214, R220). -/
def resendNow (dst : Nat) (seq : BitVec 32) (s : State) : State :=
  match getFlow s dst with
  | none => s
  | some f =>
    match f.unacked.find? (·.seq == seq) with
    | none => s
    | some x =>
      let x' := { x with sentAt := some s.clock.now, due := s.clock.now + ticks20us }
      originate x.purpose.priv (numbered (reInject x.pkt (fabricTime s)) x.seq f.incarn)
        (setFlow dst { f with unacked := lupdate (·.seq == seq) (fun _ => x') f.unacked } s)

/-- A refused packet reported to the host (Table 7.12), which Table 13.23 has no event for (log entry 26). -/
def reportRefused (p : Packet) (code : Nat) (s : State) : State :=
  { s with flows := { s.flows with refused := s.flows.refused ++ [(code, p.hdr)] } }

/-- A packet of a flow changed. -/
def updTx (dst : Nat) (seq : BitVec 32) (g : TxPkt → TxPkt) (s : State) : State :=
  match getFlow s dst with
  | none => s
  | some f => setFlow dst { f with unacked := lupdate (·.seq == seq) g f.unacked } s

/-- The cells of packets that were never sent freed. -/
def freeUnsent (l : List TxPkt) (s : State) : State := forEach (l.filterMap (·.cell)) (fun c => freeCell c.1 c.2 false) s

/-- A packet of a flow taken out. -/
def dropTx (dst : Nat) (seq : BitVec 32) (s : State) : State :=
  match getFlow s dst with
  | none => s
  | some f =>
    setFlow dst { f with unacked := f.unacked.filter (·.seq != seq) } (freeUnsent (f.unacked.filter (·.seq == seq)) s)

/-- FLOW_UNKNOWN: a new incarnation, every unacknowledged packet renumbered from 0 and sent again (R216). -/
def renewFlow (dst : Nat) (s : State) : State :=
  match getFlow s dst with
  | none => s
  | some f =>
    let un := f.unacked.mapIdx fun i x => { x with seq := BitVec.ofNat 32 i, sentAt := none, acked := false }
    pumpFlow dst (setFlow dst
      { incarn := newIncarn s (some f.incarn), next := BitVec.ofNat 32 un.length, unacked := un } s)

/-- The packets that an E_ACK acknowledges (R218). -/
def ackedBy (seq cum : BitVec 32) (l : List TxPkt) : List TxPkt :=
  l.filter fun x => x.seq == seq || decide (1 ≤ (cum - x.seq).toNat ∧ (cum - x.seq).toNat ≤ 2 ^ 31)

/-! ## Receiving (R217) -/

/-- What the receiver finds of a packet's place in its flow. -/
inductive Place where
  | fresh
  | duplicate
  | unknown
  | dropped
  deriving DecidableEq, Repr

/-- `cum` moved past every set bit. The fuel is the number of bits. -/
def advanceCum : Nat → BitVec 32 → List (BitVec 32) → BitVec 32 × List (BitVec 32)
  | 0, c, l => (c, l)
  | k + 1, c, l => if l.contains c then advanceCum k (c + 1) (l.filter (· != c)) else (c, l)

/-- A sequence number judged within a started flow of its incarnation. -/
def judgeSeq (f : RxFlow) (seq : BitVec 32) : Place :=
  let d := (seq - f.cum).toNat
  if d < 256 then (if f.bits.contains seq then .duplicate else .fresh)
  else if d < 2 ^ 31 then .dropped
  else .duplicate

/-- A packet judged against the receiver's state of its flow, and the state with its incarnation in force (R217). -/
def judgeFlow (s : State) (key : Nat) (incarn : BitVec 16) (seq : BitVec 32) : Place × RxFlow :=
  let now := s.clock.now
  let start : RxFlow := { started := true, incarn := incarn, cum := 0, bits := [], last := now }
  match (s.flows.rx.find? (·.1 == key)).map (·.2) with
  | none => (.unknown, { start with started := false })
  | some f =>
    if newer16 incarn.toNat f.incarn.toNat then (judgeSeq start seq, start)
    else if !f.started then (.unknown, { f with last := now })
    else if incarn = f.incarn then (judgeSeq f seq, { f with last := now })
    else (.dropped, { f with last := now })

def setRx (key : Nat) (f : RxFlow) (s : State) : State :=
  { s with flows := { s.flows with rx := tins key f (s.flows.rx.filter (·.1 != key)) } }

/-- A new sequence number accepted: its bit is set, and `cum` advances. -/
def acceptSeq (seq : BitVec 32) (f : RxFlow) : RxFlow :=
  let (c, l) := advanceCum 257 f.cum (seq :: f.bits)
  { f with cum := c, bits := l }

/-- E_ACK of a packet (R218), from the address the packet was sent to. -/
def sendAck (p : Packet) (seq : Nat) (f : RxFlow) (s : State) : State :=
  sendCtl (ctlPacket 0x41 2 (pSrc p) (pDst p)
    [(8, 4, seq), (12, 4, f.cum.toNat), (16, 2, f.incarn.toNat), (18, 1, pType p)]) s

/-- The key of a flow towards this module: its source, and whether the packet names the adopted label (R337). -/
def rxKey (s : State) (p : Packet) : Nat := pSrc p + 65536 * b2n (pDst p != me s)

/-- The receiver's state of a flow discarded after an hour without a packet of it (R217). -/
def execFlowStateExpiry (src : BitVec 16) (s : State) : Host.Outcome State Fault Refusal :=
  .next { s with flows := { s.flows with
    rx := s.flows.rx.filter fun q => q.1 % 65536 != src.toNat || decide (since s q.2.last < ticks1h) } }

/-- 20 µs, or the delay of Table 7.12, have passed since a packet was last sent (R220). -/
def resendTimeout (dst : Nat) (seq : BitVec 32) (s : State) : State :=
  match getFlow s dst with
  | none => s
  | some f =>
    match f.unacked.find? (·.seq == seq) with
    | some x => if x.sentAt.isSome ∧ x.due ≤ s.clock.now then resendNow dst seq s else s
    | none => s

def execResendTimeout (dst : BitVec 16) (seq : BitVec 32) (s : State) : Host.Outcome State Fault Refusal :=
  .next (resendTimeout dst.toNat seq s)

end Sys2Proof.Machine
end

