-- ==== Sys2Proof/Machine/Tick.lean ====
section
/-!
DEFINITION. Counts that run with time: the clockless core's handshakes with the slots of each category (R430, R431), and the
selectors of the performance counters, held while dumps are enabled (R434).
-/
namespace Sys2Proof.Machine

/-- Handshakes of the needle bed counted with their column slots (R430, R431): `busy` handshakes whose slots are `retired`
or wasted, and handshakes in which every column starves at the front or at the back. -/
def countSlots (retired busy front back : Nat) (s : State) : State :=
  let p := s.perf
  let c := s.columns
  let retired := min retired (busy * c)
  { s with perf := { p with
      retired := p.retired + BitVec.ofNat 48 retired, wasted := p.wasted + BitVec.ofNat 48 (busy * c - retired)
      front := p.front + BitVec.ofNat 48 (c * front), back := p.back + BitVec.ofNat 48 (c * back)
      handshakes := p.handshakes + BitVec.ofNat 48 (busy + front + back) } }

/-! ## The handshake rate (R22, R25, R39, R446) -/

/-- Any throttle is engaged. -/
def throttled (s : State) : Bool := s.power.droopThr || s.power.thermThr || s.power.powerThr

/-- The core rail and the junction lie in their operating range (R22, Table 16.3). -/
def coreInRange (s : State) : Bool := s.power.railsGood && decide (s.power.tjCompute.toNat ≤ 105)

/-- The nominal point of R22: the core rail at 0.75 V and the junction at 60 °C. -/
def isNominal (s : State) : Bool := s.power.coreMv == 750 && s.power.tjCompute == 60

/-- Hundredths of a handshake in this tick: 1.8 G handshakes/s at the nominal point, 1.2 to 2.2 G in the operating range (R22), the
lower rate that a throttle calls for while one is engaged (R39, R446), and none without the core rail. -/
def handshakeRate (s : State) : Nat :=
  let r := if isNominal s then 144 else Config.rate s.clock.now
  let r := if throttled s then min r (Config.throttledRate s.clock.now) else r
  if !s.power.railsGood then 0 else if coreInRange s then max 96 (min 176 r) else r

/-- What the rails do in a tick: the core rail is where the headstock holds it, within its window (R446), and a rail that is out of
regulation is in it again 8 ms after PWRGD's rise, or the fault, has begun the bring-up (Table 16.2). -/
def tickRails (s : State) : State :=
  let up := s.power.railsGood || (s.boot.life == .inReset && s.power.pwrgd && decide (10000000 ≤ s.clock.now))
  { s with power := { s.power with
    railsGood := up, coreMv := if up then BitVec.ofNat 16 (max 650 (min 850 (Config.coreVoltage s.clock.now))) else 0 } }

/-! ## The work of a stitch (R31, R126, R430) -/

/-- Handshakes in which a load executes instructions. -/
def Load.busy (cols : Nat) (l : Load) : Nat := ceilDiv l.elems (cols * 1024) * l.cost + l.pre

/-- Column slots retired by the first n of them: the preambles first, then wave by wave; the last wave fills `last` columns. A
discarded duplicate's slots are all wasted (log entry 19). -/
def Load.retired (cols : Nat) (l : Load) (n : Nat) : Nat :=
  let full := l.elems / (cols * 1024) * l.cost
  if l.dup then 0
  else min n l.pre * (if full = 0 then l.last else cols) + min (n - l.pre) full * cols +
    min (n - l.pre - full) (if l.elems % (cols * 1024) = 0 then 0 else l.cost) * l.last

/-- Column slots by category, with the handshakes in which a stitch executes. -/
structure Spent where
  retired : Nat := 0
  busy    : Nat := 0
  front   : Nat := 0
  back    : Nat := 0
  deriving DecidableEq, Repr

def Spent.add (a b : Spent) : Spent :=
  { retired := a.retired + b.retired, busy := a.busy + b.busy, front := a.front + b.front, back := a.back + b.back }

/-- What the first n handshakes do of one piece of the bed's work: their slots, what is left of it, and the handshakes left over. -/
def passPiece (cols n : Nat) : Work → Spent × Option Work × Nat
  | .change k =>
    let m := min n k
    ({ busy := m }, if m = k then none else some (.change (k - m)), n - m)
  | .stitch l d =>
    let m := min n (l.busy cols - d)
    ({ retired := l.retired cols (d + m) - l.retired cols d, busy := m },
      if l.busy cols ≤ d + m then none else some (.stitch l (d + m)), n - m)
  | .wait f b =>
    let m := min n f
    let k := min (n - m) b
    ({ front := m, back := k }, if m = f ∧ k = b then none else some (.wait (f - m) (b - k)), n - m - k)

/-- n handshakes pass over the work of the bed, in order. -/
def passWork (cols : Nat) : Nat → List Work → Spent × List Work × Nat
  | n, [] => ({}, [], n)
  | n, w :: ws => match passPiece cols n w with
    | (a, some w, _) => (a, w :: ws, 0)
    | (a, none, m) =>
      let r := passWork cols m ws
      (a.add r.1, r.2)

/-- The bed is on a stitch that still has instructions to execute. -/
def isExecuting (s : State) : Bool :=
  match s.bed.work with
  | .stitch _ _ :: _ => true
  | _ => false

/-- The waits of this tick of n handshakes at the front and at the back, where the bed is on a stitch (a FREE VALUE, log entry 4). -/
def waitsNow (s : State) (n : Nat) : Nat × Nat :=
  let w := Config.stitchWaits s.clock.now
  if isExecuting s then (min w.1 (n - min w.2 n), min w.2 n) else (0, 0)

/-- The handshakes of one tick counted: the work of the bed passes, with its waits; a stitch whose instructions are done and which has
not ended waits for its result to be taken, and an idle bed starves at the front (Table 15.1). -/
def tickHandshakes (s : State) : State :=
  let p := s.perf
  let all := p.rateFrac + handshakeRate s
  let h := all / 100
  let (f, b) := waitsNow s h
  let (a, ws, r) := passWork s.columns (h - f - b) s.bed.work
  let (idle, stuck) := if s.bed.running.isNone then (r, 0) else (0, r)
  countSlots a.retired a.busy (a.front + f + idle) (a.back + b + stuck)
    { s with bed := { s.bed with work := ws }, perf := { p with rateNow := p.rateNow + h, rateFrac := all % 100 } }

/-- Held selector writes take effect and clear their counters (R434). -/
def applySelectors (s : State) : State :=
  let p := s.perf
  let sel := p.heldSel.foldl (fun t q => tset 0 t q.1 q.2) p.sel
  let addr := p.heldAddr.foldl (fun t q => tset 0 t q.1 q.2) p.addr
  let cnt := (p.heldSel ++ p.heldAddr).foldl (fun t q => tset 0 t q.1 0) p.cnt
  { s with perf := { p with sel := sel, addr := addr, cnt := cnt, heldSel := [], heldAddr := [] } }

/-! ## Whole microseconds of fabric time (R25, R431) -/

/-- `rate_last` taken when fabric time has come to another microsecond (R431), and how long the rate has been low (R25);
`old` is the time before. -/
def tickRate (old : Nat) (s : State) : State :=
  if fabricTime s / 1250 ≠ old / 1250 then
    { s with perf := { s.perf with
        rateLast := BitVec.ofNat 32 s.perf.rateNow, rateNow := 0
        lowFor := if s.perf.rateNow < 1200 then s.perf.lowFor + 1 else 0 } }
  else s

end Sys2Proof.Machine
end

