-- ==== Sys2Proof/Machine/Collect.lean ====
section
/-!
DEFINITION. What the operations of a group share: the geometry of an operation's chunks (R144, R145, R223), window bases
and group credits (R146, R226), transfers held until they are acknowledged (R155, R174, R227), results sent down (R149,
R150), layer and input digests (R367 to R372, R379).
-/
namespace Sys2Proof.Machine

/-! ## The COLLECTIVE descriptor (Table 5.7) -/

def dSeq (d : Desc) : Nat := field d 12 4
def dCount (d : Desc) : Nat := field d 16 8
def dChunk (d : Desc) : Nat := field d 24 4
def dInFmt (d : Desc) : Nat := field d 28 1
def dPass (d : Desc) : Nat := field d 29 1
def dMap (d : Desc) : Bool := bit (field d 30 1) 0
def dOp (d : Desc) : Nat := field d 31 1
def dRowLen (d : Desc) : Nat := field d 32 4
def dRowBase (d : Desc) : Nat := field d 36 2
def dRowShift (d : Desc) : Nat := field d 38 1
def dRoot (d : Desc) : Nat := field d 40 2
def dParam (d : Desc) : Nat := field d 48 8
def dStep (d : Desc) : Nat := field d 56 8

/-! ## Chunks (R144, R145, R152) -/

/-- ALL_REDUCE, REDUCE_SCATTER and REDUCE_APPLY (Table 5.1). -/
def isReducing (op : Nat) : Bool := op == 0 || op == 1 || op == 6
/-- ALL_GATHER, BROADCAST and ALL_TO_ALL_V. -/
def isForwarding (op : Nat) : Bool := op == 2 || op == 3 || op == 4

/-- The specifier of contributions; count vectors are 4 B elements (R152). -/
def inSpec (op : Op) : Spec := if op.op = 4 then Spec.ofNat 0 else Spec.ofNat (dInFmt op.desc)

/-- Chunks of an operation (R145); phase C of ALL_TO_ALL_V has one for each rank, a BARRIER one. -/
def chunksOfOp (r : Record) (d : Desc) : Nat :=
  let per := if dChunk d = 0 then 0 else ceilDiv (dCount d) (dChunk d)
  match dOp d with
  | 2 => per * ranksOf r
  | 4 => ranksOf r
  | 5 => 1
  | _ => per

/-- First element of a chunk within the contribution it belongs to. -/
def chunkFirst (r : Record) (op : Op) (c : Nat) : Nat :=
  match op.op with
  | 2 => c / ranksOf r * dChunk op.desc
  | 4 | 5 => 0
  | _ => c * dChunk op.desc

/-- Elements of a chunk. -/
def chunkLen (r : Record) (op : Op) (c : Nat) : Nat :=
  match op.op with
  | 4 => ranksOf r
  | 5 => 0
  | _ => min (dChunk op.desc) (dCount op.desc - chunkFirst r op c)

/-- Element index, in the result tensor, of a chunk's first element (R150). -/
def chunkLogical (r : Record) (op : Op) (c : Nat) : Nat :=
  match op.op with
  | 2 => c % ranksOf r * dCount op.desc + chunkFirst r op c
  | 4 => c * ranksOf r
  | _ => chunkFirst r op c

/-- The rank a chunk comes from, for the operations in which one rank sends it. -/
def chunkRank (r : Record) (op : Op) (c : Nat) : Option Nat :=
  match op.op with
  | 2 => some (c % ranksOf r)
  | 3 => some (dRoot op.desc)
  | 4 => some c
  | _ => none

/-- Elements of the result tensor. -/
def resultLen (r : Record) (op : Op) : Nat :=
  match op.op with
  | 2 => ranksOf r * dCount op.desc
  | 4 => ranksOf r * ranksOf r
  | 5 => 0
  | _ => dCount op.desc

/-- The shard whose per-shard root serves a chunk (R135): that of its first element; shard 0 for a BARRIER, for an ALL_TO_ALL_V,
whose count vectors and segments cross one instance, and for an element beyond the shards (log entry 13). -/
def rootShard (r : Record) (op : Op) (c : Nat) : Nat :=
  if op.op = 4 ∨ op.op = 5 then 0
  else
    let e := chunkLogical r op c
    (r.shards.findIdx? fun k => decide (k.base ≤ e ∧ e < k.base + k.count)).getD 0

/-- A chunk has work at an instance (R135, R146). -/
def hasWork (r : Record) (op : Op) (i : Inst) (c : Nat) : Bool :=
  decide (c < op.chunks) && (match i.shard with
    | some k => rootShard r op c == k
    | none => true)

/-- The output formats in use, with their index; a count matrix has one (R152). -/
def outSpecs (r : Record) (op : Op) : List (Nat × Spec) :=
  if op.op = 4 then [(0, Spec.ofNat 0)] else (r.outFmt.take r.outCount).mapIdx fun j f => (j, Spec.ofNat f)

/-- Bytes of a chunk's stream without fill (R223). -/
def streamBytes (r : Record) (op : Op) (sp : Spec) (c : Nat) : Nat :=
  streamLen sp (dRowLen op.desc) (chunkFirst r op c) (chunkLen r op c)

/-- The format of what arrives at slot k of an instance: partials of a reducing operation in the working format, else
contributions or forwarded chunks (R223). -/
def slotSpec (r : Record) (op : Op) (i : Inst) : Spec :=
  if isReducing op.op ∧ (nodeAt r i.node).slotLevel ≠ 0 then Spec.ofNat r.workFmt else inSpec op

/-! ## Instances -/

def instKey (i : Inst) : Nat × Option Nat := (i.node, i.shard)
def instAt (g : Group) (k : Nat × Option Nat) : Option Inst := g.insts.find? (instKey · == k)

def updInst (gid : Nat) (k : Nat × Option Nat) (f : Inst → Inst) (s : State) : State :=
  updGroup gid (fun g => { g with insts := lupdate (instKey · == k) f g.insts }) s

def updOp (gid seq : Nat) (f : Op → Op) (s : State) : State :=
  updGroup gid (fun g => { g with ops := lupdate (·.seq == seq) f g.ops }) s

def findOp (g : Group) (seq : Nat) : Option Op := g.ops.find? (·.seq == seq)

/-- The operation a packet's `seq_lo` names. -/
def opByLo (g : Group) (lo : Nat) : Option Op := g.ops.find? (·.seq % 65536 == lo)

/-- An instance is a root: it has no parent. -/
def isRoot (r : Record) (i : Inst) : Bool := (parentOf r i.node).isNone

/-- Slots of an instance. -/
def instSlots (r : Record) (i : Inst) : Nat := slotCount (ranksOf r) (nodeAt r i.node)

/-- Leaf positions under slot k of an instance: from, to. -/
def slotRange (r : Record) (i : Inst) (k : Nat) : Nat × Nat :=
  let d := nodeAt r i.node
  (nodeLo d + k * 2 ^ d.slotLevel, min (nodeLo d + (k + 1) * 2 ^ d.slotLevel) (nodeHi (ranksOf r) d))

/-- The endpoint at a leaf slot. -/
def slotEndpoint (r : Record) (i : Inst) (k : Nat) : Option Nat :=
  if (nodeAt r i.node).slotLevel = 0 then
    (r.ranks.find? fun x => x.leafPos == nodeLo (nodeAt r i.node) + k).map (·.endpoint)
  else none

/-- Endpoints whose leaf module this module is, with their ranks. -/
def leafRanks (s : State) (r : Record) : List (Nat × Rank) :=
  ((r.ranks.mapIdx fun k x => (k, x))).filter fun x => match leafOf r x.2.leafPos with
    | some (i, _) => (nodeAt r i).moduleId == s.label
    | none => false

/-! ## Order of chunks (R146, R226) -/

/-- a comes before b in 32-bit serial order. -/
def seqLt (a b : Nat) : Bool :=
  let d := (b + 2 ^ 32 - a % 2 ^ 32) % 2 ^ 32
  decide (0 < d ∧ d < 2 ^ 31)

/-- (`seq`, chunk) a comes before b. -/
def chunkLt (a b : Nat × Nat) : Bool := seqLt a.1 b.1 || (a.1 == b.1 && decide (a.2 < b.2))

/-- The first chunk from c on that satisfies a test; the fuel is the number of chunks left. -/
def firstChunk (p : Nat → Bool) : Nat → Nat → Option Nat
  | 0, _ => none
  | k + 1, c => if p c then some c else firstChunk p k (c + 1)

/-- The reducing operations of a group from a `seq` on, in order. -/
def opsFrom (g : Group) (seq : Nat) : List Op :=
  g.ops.filter fun o => isReducing o.op && o.resend.isNone && !seqLt o.seq seq

/-- The lowest chunk, from `start` on, that a test picks; else the start of the next operation to be posted. -/
def nextBase (g : Group) (start : Nat × Nat) (p : Op → Nat → Bool) : Nat × Nat :=
  ((opsFrom g start.1).findSome? fun o =>
    let c0 := if o.seq = start.1 then start.2 else 0
    (firstChunk (p o) (o.chunks - c0) c0).map fun c => (o.seq, c)).getD (g.nextSeq, 0)

/-- The chunk attempt (`seq`, c) has been completed at an instance (R146). A BARRIER, and a forwarded chunk, counts when
it has been passed on. -/
def instDone (op : Op) (i : Inst) (c : Nat) : Bool :=
  if isReducing op.op then chunkLt (op.seq, c) (i.baseSeq, i.baseChunk) || i.doneAbove.contains (op.seq, c)
  else i.passed.contains (op.seq, c)

/-- The reducing operations that have completed here, and those in progress. -/
def allReducing (g : Group) : List Op :=
  ((g.past.filter fun o => isReducing (dOp o.desc)).map fun o =>
    { seq := o.seq, op := dOp o.desc, desc := o.desc, tok := default, chunks := o.chunks }) ++
  g.ops.filter fun o => isReducing o.op && o.resend.isNone && !o.again

/-- Chunks with work in past operations and those posted, between a base and x: the position of x beyond the base, cut at
`limit` (R226). -/
def windowPos (g : Group) (keep : Op → Nat → Bool) (base x : Nat × Nat) (limit : Nat) : Nat :=
  let ops := (allReducing g).filter fun o => !seqLt o.seq base.1 && !seqLt x.1 o.seq
  min limit ((ops.map fun o =>
    let lo := if o.seq = base.1 then base.2 else 0
    let hi := if o.seq = x.1 then x.2 else o.chunks
    ((List.range (hi - lo)).filter fun k => keep o (lo + k)).length).sum)

/-! ## Group credits (R226) -/

/-- A GCREDIT. -/
def gcreditPacket (s : State) (gid dst node slot : Nat) (base : Nat × Nat) : Packet :=
  ctlPacket 0x48 0 dst (me s) [(8, 3, gid), (11, 1, slot), (12, 2, node), (14, 2, base.1), (16, 4, base.2)]

/-- Where slot k's input comes from: an endpoint, or a node's module. -/
def slotSource (r : Record) (i : Inst) (k : Nat) : Option Nat :=
  match slotEndpoint r i k with
  | some e => some e
  | none => (childOf r (nodeAt r i.node) k).bind fun c => ((nodeModules r c).head?).map modAddr

/-- The window base sent to every sender of an instance; kept back in a pause (R163). -/
def sendCredits (gid : Nat) (k : Nat × Option Nat) (s : State) : State :=
  match findGroup s gid with
  | none => s
  | some g => match instAt g k with
    | none => s
    | some i =>
      if g.pause ≠ .running then updInst gid k (fun i => { i with creditDue := true }) s
      else
        forEach (List.range (instSlots g.record i)) (fun n s => match slotSource g.record i n with
          | some d => sendCtl (gcreditPacket s gid d i.node n (i.baseSeq, i.baseChunk)) s
          | none => s) (updInst gid k (fun i => { i with creditDue := false }) s)

/-- The window base moved to the lowest chunk with work not completed, and its credit sent (R146). -/
def advanceBase (gid : Nat) (k : Nat × Option Nat) (s : State) : State :=
  match findGroup s gid with
  | none => s
  | some g => match instAt g k with
    | none => s
    | some i =>
      let b := nextBase g (i.baseSeq, i.baseChunk) fun o c =>
        hasWork g.record o i c && !i.doneAbove.contains (o.seq, c)
      if b = (i.baseSeq, i.baseChunk) then s
      else
        sendCredits gid k (updInst gid k (fun i => { i with
          baseSeq := b.1, baseChunk := b.2, doneAbove := i.doneAbove.filter fun x => !chunkLt x b }) s)

/-- A chunk marked complete at an instance. -/
def markDone (gid : Nat) (k : Nat × Option Nat) (op : Op) (c : Nat) (s : State) : State :=
  if isReducing op.op then
    advanceBase gid k (updInst gid k (fun i =>
      if instDone op i c then i else { i with doneAbove := i.doneAbove ++ [(op.seq, c)] }) s)
  else updInst gid k (fun i => if i.passed.contains (op.seq, c) then i else { i with passed := i.passed ++ [(op.seq, c)] }) s

/-! ## Buffers with holders (R141, R168, R169, R174) -/

/-- Cells of a pool popped, `n` of them, against a reservation. -/
def popReserved (pool : Nat) : Nat → State → List (Nat × Nat) × State
  | 0, s => ([], s)
  | n + 1, s => match allocReserved pool s with
    | some (c, s) =>
      let (l, s) := popReserved pool n s
      ((pool, c) :: l, s)
    | none => ([], s)

/-- Cells for a buffer of `max_chunk_bytes` of a group; none where its buffers lie in staging hanks. -/
def popCells (g : Group) (s : State) : List (Nat × Nat) × State :=
  if g.reserved.all (· == 0) then ([], s)
  else
    (List.range 4).foldl (fun (a : List (Nat × Nat) × State) p =>
      let (l, s) := popReserved p ((bufferCells g.record.maxChunk).getD p 0) a.2
      (a.1 ++ l, s)) ([], s)

/-- `n` more buffers lie within a group's reservation (R169). -/
def hasBuffers (g : Group) (n : Nat) (s : State) : Bool :=
  decide ((groupBufs s g.id).length + n ≤ groupBuffers g.record s.label)

/-- The buffers of a group lie in its staging hanks (R148). -/
def isStaged (g : Group) : Bool := !g.staging.isEmpty && g.reserved.all (· == 0)

/-- Units of 16 KiB of a group's staging hanks, 128 a hank, that no buffer of it takes (R141). -/
def freeUnits (g : Group) (s : State) : List Nat :=
  let used := (s.pools.buffers.filter (·.2.group == g.id)).flatMap (·.2.units)
  (List.range (128 * g.staging.length)).filter (!used.contains ·)

/-- Units for a buffer; which of the free ones is a FREE VALUE (log entry 78). -/
def pickUnits (key : List Nat) : Nat → List Nat → List Nat
  | 0, _ => []
  | _ + 1, [] => []
  | n + 1, u :: us =>
    let x := (u :: us).getD (Config.stagingUnit (n :: key) % (us.length + 1)) u
    x :: pickUnits key n ((u :: us).erase x)

/-- A buffer of a group's reservation taken, with its holders; its number. -/
def takeBuffer (g : Group) (holders : Nat) (s : State) : Nat × State :=
  let (cells, s) := popCells g s
  let b := s.pools.nextBuf
  let units := if isStaged g then pickUnits [g.id, b] (ceilDiv g.record.maxChunk 16384) (freeUnits g s) else []
  let x : Buffer := { group := g.id, cells := cells, refs := holders, units := units }
  (b, { s with pools := { s.pools with nextBuf := b + 1, buffers := tins b x (tdel s.pools.buffers b) } })

/-- `n` buffers taken, each with one holder. -/
def takeBuffers (g : Group) : Nat → State → List Nat × State
  | 0, s => ([], s)
  | n + 1, s =>
    let (b, s) := takeBuffer g 1 s
    let (l, s) := takeBuffers g n s
    (b :: l, s)

/-- One holder releases a buffer; at 0 its cells are freed. A buffer that has no holder left is a double free. -/
def releaseHolder (b : Nat) (s : State) : State :=
  let x : Buffer := tget { group := 0, cells := [], refs := 0 } s.pools.buffers b
  if x.refs = 0 then doubleFree 0 b s
  else if x.refs = 1 then freeBuffer b s
  else { s with pools := { s.pools with buffers := tins b { x with refs := x.refs - 1 } (tdel s.pools.buffers b) } }

/-- A buffer's holders set (R174). -/
def setHolders (b n : Nat) (s : State) : State :=
  let x : Buffer := tget { group := 0, cells := [], refs := 0 } s.pools.buffers b
  { s with pools := { s.pools with buffers := tins b { x with refs := n } (tdel s.pools.buffers b) } }

/-- The staging hank that byte `off` of a buffer lies in (R141). -/
def stagedHank (s : State) (g : Group) (b off : Nat) : Nat :=
  let x : Buffer := tget { group := 0, cells := [], refs := 0 } s.pools.buffers b
  g.staging.getD (x.units.getD (off / 16384) 0 / 128) 0

/-- Bytes [off, off + n) cut where a unit of 16 KiB ends: offset and length. -/
def unitPieces (off n : Nat) : List (Nat × Nat) :=
  (List.range (ceilDiv (off + n) 16384 - off / 16384)).map fun k =>
    let lo := max off ((off / 16384 + k) * 16384)
    (lo, min (off + n) ((off / 16384 + k + 1) * 16384) - lo)

/-- Bytes [off, off + n) of a buffer written to its staging hanks (0x21) or read from them (0x20), counted (R148). A group whose
buffers lie in cells counts none. -/
def countStaged (g : Group) (code : Nat) (b off n : Nat) (s : State) : State :=
  if !isStaged g ∨ n = 0 then s
  else forEach (unitPieces off n) (fun q s =>
    count { code := code, priv := some 0, hank := some (stagedHank s g b q.1) } q.2 s) s

/-- The first n bytes of a buffer lie in part in a staging hank that is RETIRED: it had an uncorrectable error (R35, R179). -/
def bufferLost (s : State) (g : Group) (b n : Nat) : Bool :=
  isStaged g && (unitPieces 0 n).any fun q => hankState s (stagedHank s g b q.1) == .retired

/-! ## Transfers (R155, R226, R227) -/

/-- The packets of a chunk byte stream, each built by `mk` from its offset, payload, `last` and trim (R224). -/
def streamPackets (units : Nat) (bs : List Byte) (mk : Nat → List Byte → Bool → Nat → Packet) : List Packet :=
  (cutStream units bs).map fun c => mk c.1 c.2.1 c.2.2.1 c.2.2.2

/-- The parent's window lets a transfer up go: any attempt of a chunk below its base may, and of another only inside the window
(R146, R226). -/
def mayUp (g : Group) (op : Op) (t : Transfer) : Bool :=
  let r := g.record
  if !isReducing op.op then
    decide ((g.transfers.filter fun x => x.sent && x.dir == t.dir && x.dest == t.dest && x.dst == t.dst && x.slot == t.slot).length
      < r.window)
  else match instAt g (t.node, t.shard), t.dest with
    | some i, some p =>
      let base := tget (r.firstSeq, 0) i.parentBase t.dst
      let sh := rootShard r op t.chunk
      let keep (o : Op) (c : Nat) : Bool := (nodeAt r p).moduleId != 0xFFFF || rootShard r o c == sh
      chunkLt (op.seq, t.chunk) base || decide (windowPos g keep base (op.seq, t.chunk) r.window < r.window)
    | _, _ => true

/-- Formats that ranks of [lo, hi) receive of a chunk (R149, R150). -/
def neededFmts (r : Record) (op : Op) (c lo hi : Nat) : List Nat :=
  let under := (r.ranks.mapIdx fun k x => (k, x)).filter fun x => decide (lo ≤ x.2.leafPos ∧ x.2.leafPos < hi)
  if op.op = 4 ∨ op.op = 5 then (if under.isEmpty then [] else [0])
  else
    let e := chunkFirst r op c
    let n := chunkLen r op c
    let part := dCount op.desc / ranksOf r
    let wants (k : Nat) : Bool := op.op != 1 || decide (k * part < e + n ∧ e < (k + 1) * part)
    ((under.filter fun x => wants x.1).map (·.2.outSel)).eraseDups

/-- Formats that pass down through an instance. -/
def instNeeds (r : Record) (op : Op) (i : Inst) (c : Nat) : List Nat :=
  neededFmts r op c (nodeLo (nodeAt r i.node)) (nodeHi (ranksOf r) (nodeAt r i.node))

/-- The child's down credits let a transfer down to a node go; an endpoint needs none (R226). -/
def mayDown (g : Group) (op : Op) (t : Transfer) : Bool :=
  match t.dest with
  | none => true
  | some child =>
    if isReducing op.op ∧ op.resend.isNone then
      match instAt g (t.node, t.shard) with
      | some i =>
        let r := g.record
        let ci : Inst := { node := child, baseSeq := 0 }
        let base := tget (r.firstSeq, 0) i.downBase t.slot
        let keep (o : Op) (c : Nat) : Bool := !(instNeeds r o ci c).isEmpty
        chunkLt (op.seq, t.chunk) base || decide (windowPos g keep base (op.seq, t.chunk) r.window < r.window)
      | none => true
    else
      let others := g.transfers.filter fun x => x.sent && x.dir == t.dir && x.dest == t.dest && x.dst == t.dst &&
        !(x.seq == t.seq && x.chunk == t.chunk)
      decide (((others.map fun x => (x.seq, x.chunk)).eraseDups).length < g.record.window)

/-- A transfer may be sent now. -/
def maySend (g : Group) (t : Transfer) : Bool :=
  match findOp g t.seq with
  | none => true
  | some op => if t.dest.isNone then true else if t.dir = 0 then mayUp g op t
    else if t.dir = 1 then mayDown g op t else mayUp g op t

/-- A transfer's packets sent now. -/
def sendPackets (t : Transfer) (s : State) : State :=
  forEach t.packets (fun p s => originateOwn (if pIsCtl p then p else reInject p (fabricTime s)) s) s

/-- A transfer is the same one. -/
def sameTransfer (a b : Transfer) : Bool :=
  a.node == b.node && a.shard == b.shard && a.seq == b.seq && a.chunk == b.chunk && a.attempt == b.attempt &&
  a.dir == b.dir && a.fmt == b.fmt && a.slot == b.slot && a.srcRank == b.srcRank && a.dstRank == b.dstRank &&
  a.dest == b.dest && a.dst == b.dst

def updTransfer (gid : Nat) (t : Transfer) (f : Transfer → Transfer) (s : State) : State :=
  updGroup gid (fun g => { g with transfers := lupdate (sameTransfer t) f g.transfers }) s

/-- Transfers of one multicast, which share a buffer (R174). -/
def sameMulticast (a b : Transfer) : Bool :=
  a.node == b.node && a.shard == b.shard && a.seq == b.seq && a.chunk == b.chunk && a.attempt == b.attempt &&
  a.dir == b.dir && a.fmt == b.fmt && a.srcRank == b.srcRank && a.dstRank == b.dstRank

/-- A transfer of packets without payload takes no buffer: none has 0 bytes (R167). -/
def needsBuffer (t : Transfer) : Bool := t.packets.any (!pIsCtl ·)

/-- The logical port that packets of a collective to a destination leave by, as the route bank stands; `inst` for this module
itself. -/
def leavesBy (s : State) (dst inst : Nat) : Nat :=
  if forMe s dst then inst
  else
    let p := bits (routeEntry s s.routing.epoch dst) 6 0
    if portDown s p then (detour s dst 128 p).getD p else p

/-- The holder that a transfer is of its buffer: the port it leaves by, or the node instance here that reads it (R174). -/
def holderOf (s : State) (t : Transfer) : Nat := leavesBy s t.dst (128 + t.slot)

/-- The transfers of a multicast put in a buffer, one holder for each port and each reading instance. -/
def putInBuffer (gid b : Nat) (t : Transfer) (s : State) : State :=
  match findGroup s gid with
  | none => s
  | some g =>
    let n := (((g.transfers.filter (sameMulticast t)).map (holderOf s)).eraseDups).length
    let put (x : Transfer) : Transfer := if sameMulticast t x then { x with buf := some b, via := holderOf s x } else x
    setHolders b n (updGroup gid (fun g => { g with transfers := g.transfers.map put }) s)

/-- A result buffer is written once and, where it is staged, read once (R148). -/
def countResult (g : Group) (b bytes : Nat) (s : State) : State :=
  countStaged g 0x20 b 0 bytes (countStaged g 0x21 b 0 bytes s)

/-- A transfer without a buffer is given one for its multicast, where the group's reservation has one left (R169): the result
that it carries is staged there. -/
def giveBuffer (g : Group) (t : Transfer) (s : State) : State :=
  if t.buf.isSome || !needsBuffer t || !hasBuffers g 1 s then s
  else
    let (b, s) := takeBuffer g 1 s
    countResult g b ((t.packets.map (·.payload.length)).sum) (putInBuffer g.id b t s)

/-- Every transfer kept back that may now go is sent, oldest first: its receiver's window lets it, and it has a buffer. -/
def flushTransfers (gid : Nat) (s : State) : State :=
  match findGroup s gid with
  | none => s
  | some g =>
    forEach (g.transfers.filter (!·.sent)) (fun t s =>
      match findGroup s gid with
      | none => s
      | some g => match g.transfers.find? (sameTransfer t) with
        | none => s
        | some t =>
          let ready := t.buf.isSome || !needsBuffer t || hasBuffers g 1 s
          let s := giveBuffer g t s
          if ready && maySend g t then sendPackets t (updTransfer gid t (fun t => { t with sent := true }) s)
          else s) s

/-- A transfer acknowledged or no longer awaited. Its holder releases the buffer when no other transfer of it is left
(R174). -/
def dropTransfer (gid : Nat) (t : Transfer) (s : State) : State :=
  match findGroup s gid with
  | none => s
  | some g =>
    let rest := g.transfers.filter (!sameTransfer t ·)
    let s := updGroup gid (fun g => { g with transfers := rest }) s
    match t.buf with
    | some b => if rest.any (fun x => x.buf == some b && x.via == t.via) then s else releaseHolder b s
    | none => s

/-- Transfers held, in place of those they repeat, and sent as far as may be. `src` is the buffer that the chunk lies in
already; none has it put in one of its own. -/
def addTransfers (gid : Nat) (src : Option Nat) (ts : List Transfer) (s : State) : State :=
  let old := match findGroup s gid with
    | some g => g.transfers.filter fun x => ts.any (sameTransfer x)
    | none => []
  let s := forEach old (dropTransfer gid) s
  let s := updGroup gid (fun g => { g with transfers := g.transfers ++ ts }) s
  let s := match src, ts with
    | some b, [] => releaseHolder b s
    | some b, t :: _ => putInBuffer gid b t s
    | none, _ => s
  flushTransfers gid s

/-! ## Up (R222, R225, R226) -/

/-- A COLL_UP packet. -/
def collUpPacket (s : State) (gid : Nat) (op : Op) (dst node slot c attempt : Nat) (fl : BitVec 6) (off : Nat)
    (payload : List Byte) (last : Bool) (trim : Nat) : Packet :=
  dataPacket 0x10 3 dst (me s) fl attempt (fabricTime s)
    [(11, 3, gid), (14, 2, op.seq), (16, 4, c), (20, 2, node), (22, 2, off), (24, 8, 2 ^ slot)] payload last trim none

/-- The module of a node's instance that serves a chunk (R135). -/
def moduleFor (r : Record) (op : Op) (node c : Nat) : Nat :=
  if (nodeAt r node).moduleId = 0xFFFF then (r.shards.getD (rootShard r op c) default).owner
  else (nodeAt r node).moduleId

/-- A chunk's stream sent from an instance to its parent: a partial, a forwarded chunk (which lies in buffer `src`), or a
barrier's arrival. -/
def sendUp (g : Group) (op : Op) (i : Inst) (c attempt : Nat) (fl : BitVec 6) (bs : List Byte) (src : Option Nat)
    (s : State) : State :=
  match parentOf g.record i.node with
  | none => s
  | some (p, slot) =>
    let dst := modAddr (moduleFor g.record op p c)
    let ps := if op.op = 5 then
        [ctlPacket 0x4C 3 dst (me s)
          [(8, 3, g.id), (11, 1, attempt), (12, 2, p), (14, 2, op.seq), (16, 8, 2 ^ slot)]]
      else streamPackets 32 bs (collUpPacket s g.id op dst p slot c attempt fl)
    addTransfers g.id src [{ node := i.node, shard := i.shard, seq := op.seq, chunk := c, attempt := attempt, dir := 0
                             slot := slot, dest := some p, dst := dst, packets := ps }] s

/-! ## Down (R149, R150, R153) -/

/-- A COLL_DOWN packet. -/
def collDownPacket (s : State) (gid : Nat) (op : Op) (dst node c fmt elem : Nat) (fl : BitVec 6) (off : Nat)
    (payload : List Byte) (last : Bool) (trim : Nat) : Packet :=
  dataPacket 0x11 4 dst (me s) fl 0 (fabricTime s)
    [(11, 3, gid), (14, 2, op.seq), (16, 4, c), (20, 2, off + 16384 * fmt), (22, 6, elem), (28, 2, node)]
    payload last trim none

/-- Destination of what goes down slot k: the address, the child node (none for an endpoint), and the units a packet may
have. -/
def downDest (s : State) (r : Record) (i : Inst) (k : Nat) : Option (Nat × Option Nat × Nat) :=
  match slotEndpoint r i k with
  | some e => some (e, none, unitsTo s e)
  | none => (childOf r (nodeAt r i.node) k).bind fun c => ((nodeModules r c).head?).map fun m => (modAddr m, some c, 32)

/-- One result of a chunk multicast from an instance along the slots that need its format; one buffer holds it, `src` where it
came from the parent (R174). -/
def sendDown (g : Group) (op : Op) (i : Inst) (c fmt : Nat) (fl : BitVec 6) (bs : List Byte) (src : Option Nat)
    (s : State) : State :=
  let r := g.record
  let slots := (List.range (instSlots r i)).filter fun k =>
    (neededFmts r op c (slotRange r i k).1 (slotRange r i k).2).contains fmt
  let ts := slots.filterMap fun k => (downDest s r i k).map fun (dst, dest, units) =>
    let node := dest.getD 0xFFFF
    let ps := if op.op = 5 then
        [ctlPacket 0x4D 4 dst (me s) [(8, 3, g.id), (12, 2, node), (14, 2, op.seq)]]
      else streamPackets units bs (collDownPacket s g.id op dst node c fmt (chunkLogical r op c) fl)
    ({ node := i.node, shard := i.shard, seq := op.seq, chunk := c, dir := 1, fmt := fmt, slot := k, dest := dest
       dst := dst, packets := ps } : Transfer)
  let s := updOp g.id op.seq (fun o =>
    if o.downDone.contains (i.node, i.shard, c, fmt) then o
    else { o with downDone := o.downDone ++ [(i.node, i.shard, c, fmt)], flags := o.flags ||| fl }) s
  addTransfers g.id src ts s

/-! ## Digests (R367 to R372, R379) -/

/-- Bytes of the logical stream of m elements (R367). -/
def logicalLen (sp : Spec) (rowLen m : Nat) : Nat :=
  if fmtIsLimb sp.format then m * logicalWidth sp.format else streamLen sp rowLen 0 m

/-- The parts of a tensor's logical stream that a chunk of n elements from element e fills: offset and bytes. An MX
chunk fills a part of the element array and one of the scale array. -/
def streamParts (sp : Spec) (rowLen total e n : Nat) (bs : List Byte) : List (Nat × List Byte) :=
  if fmtIsMx sp.format then
    let eb := sp.block * (targetOf sp.format).width / 8
    let blocks (m : Nat) : Nat := streamLen sp rowLen 0 m / (eb + 1)
    let mine := bs.length / (eb + 1)
    [(blocks e * eb, bs.take (mine * eb)), (blocks total * eb + blocks e, bs.drop (mine * eb))]
  else [(e * logicalWidth sp.format, logicalStream sp n bs)]

/-- Parts folded into a partial digest of a stream of n bytes (R370, R371); byte 0's holder adds K(n). -/
def foldParts (n : Nat) (d : BitVec 64) (parts : List (Nat × List Byte)) : BitVec 64 :=
  parts.foldl (fun d p =>
    if p.2.isEmpty then d else d ^^^ crcPlaced n p.1 p.2 ^^^ (if p.1 = 0 then crcK n else 0)) d

/-- A chunk's results folded into the operation's digest, once (R372). -/
def foldChunk (g : Group) (op : Op) (c : Nat) (outs : List (Nat × List Byte)) (s : State) : State :=
  if op.folded.contains c then s
  else
    let r := g.record
    let rl := dRowLen op.desc
    let m := resultLen r op
    let specs := outSpecs r op
    let total := (specs.map fun q => logicalLen q.2 rl m).sum
    let parts := specs.flatMap fun q =>
      let base := ((specs.take q.1).map fun z => logicalLen z.2 rl m).sum
      match outs.find? (·.1 == q.1) with
      | some (_, bs) =>
        (streamParts q.2 rl m (chunkLogical r op c) (chunkLen r op c) bs).map fun p => (base + p.1, p.2)
      | none => []
    updOp g.id op.seq (fun o => { o with folded := o.folded ++ [c], digest := foldParts total o.digest parts }) s

/-- A leaf's contribution of a chunk folded into the input digest as first completed (R379). For ALL_TO_ALL_V this waits
for the matrix. -/
def foldInput (g : Group) (op : Op) (pos c : Nat) (bs : List Byte) (s : State) : State :=
  let rank := rankAt g.record pos
  if op.inFolded.contains (rank, c) ∨ op.op = 4 ∨ op.op = 5 then s
  else
    let r := g.record
    let sp := inSpec op
    let rl := dRowLen op.desc
    let len := logicalLen sp rl (dCount op.desc)
    let (at0, total) := if op.op = 3 then (0, len) else (pos * len, ranksOf r * len)
    let parts := (streamParts sp rl (dCount op.desc) (chunkFirst r op c) (chunkLen r op c)
      (bs.take (streamBytes r op sp c))).map fun p => (at0 + p.1, p.2)
    updOp g.id op.seq (fun o => { o with
      inFolded := o.inFolded ++ [(rank, c)], inDigest := foldParts total o.inDigest parts }) s

/-! ## Phase X (R150, R76, R368) -/

/-- The chunk's result converted to every output format in use: index, stream, and the flags of every conversion. `src`
is the format of `bs`; `own` says that its NaN and ∞ are the chunk's own arithmetic's (R90). What enters from outside is told as it
is decoded: an ∞ that a finite MX element becomes there is none (R50, R71). -/
def convertOutputs (r : Record) (op : Op) (c : Nat) (src : Spec) (own : Bool) (bs : List Byte) :
    List (Nat × List Byte) × BitVec 6 :=
  let n := chunkLen r op c
  let rl := dRowLen op.desc
  let e := chunkFirst r op c
  let keep : BitVec 6 := if own then ~~~(fNanIn ||| fInfIn) else BitVec.allOnes 6
  let outs := (outSpecs r op).map fun q =>
    if isForwarding op.op ∧ q.2 = src then (q.1, bs, fNone)
    else
      let (vs, f1) := decodeInput src true rl e n bs
      let d : Draw := { sto := q.2.sto, seed := r.seed, seq := op.seq, site := q.1, stream := 0 }
      let (o, f2) := encodeStream q.2 d false rl (chunkLogical r op c) vs
      (q.1, o, (f1 ||| f2) &&& keep)
  (outs.map fun q => (q.1, q.2.1), fOr (outs.map fun q => q.2.2))

/-- Phase X and phase D at a root instance: conversion, the digest, and the multicast (R149, R150). -/
def phaseX (g : Group) (op : Op) (i : Inst) (c : Nat) (src : Spec) (own : Bool) (fl : BitVec 6) (bs : List Byte)
    (s : State) : State :=
  let (outs, f) := convertOutputs g.record op c src own bs
  let all := fl ||| f
  let s := updOp g.id op.seq (fun o => { o with flags := o.flags ||| all }) (foldChunk g op c outs s)
  forEach outs (fun q => sendDown g op i c q.1 all q.2 none) s

end Sys2Proof.Machine
end

