-- ==== Sys2Proof/Machine/Shards.lean ====
section
/-!
DEFINITION. Parameter shards: their arrays in hanks (R185), the sympathetic copy (R330, R331), secure points and their
copies (R189, R342, R343), generation flips and the step commit (R190 to R192), state digests (R373), commit reports and
step records (R345, R347).
-/
namespace Sys2Proof.Machine

/-! ## Arrays (R185) -/

def updShard (gid k : Nat) (f : Shard → Shard) (s : State) : State :=
  updGroup gid (fun g => { g with shards := lupdate (·.index == k) f g.shards }) s

def entryOf (r : Record) (k : Nat) : ShardEntry := r.shards.getD k default

/-- Hanks of an array of a shard in set 0 or 1; a scratch array has one set. -/
def arraySet (sh : Shard) (x : Nat) (set : Bool) : List Nat :=
  match sh.arrays.find? (·.array == x) with
  | some a => if set && decide (x < 3) then a.set1 else a.set0
  | none => []

/-- Byte offset of the shard's element m, a multiple of 128 for BF16X2. -/
def elemOff (f m : Nat) : Nat := if f = 9 then m / 128 * 512 else m * fmtWidth f

/-- Shards held in a role, in table order. -/
def heldShards (g : Group) (owner : Bool) : List Shard :=
  (List.range g.record.shards.length).filterMap fun k => g.shards.find? fun sh => sh.index == k && sh.owner == owner

/-- A REDUCE_APPLY of the group is in progress here. -/
def applyPosted (g : Group) : Bool := g.ops.any fun o => o.op == 6 && o.resend.isNone && !o.again

/-- A REDUCE_APPLY of the group waits in its queue. -/
def applyQueuedUp (g : Group) : Bool := g.queue.any fun p => !p.resend && dOp p.desc == 6

/-- A REDUCE_APPLY of the group is posted, and has neither committed nor failed for the shards held in a role (R187, R188,
R330). -/
def applyOpen (g : Group) (owner : Bool) : Bool :=
  applyQueuedUp g || g.ops.any fun o => o.op == 6 && o.resend.isNone && !o.again &&
    (if owner then o.committed.isNone else !(g.seals.any (·.1 == dStep o.desc)))

/-- A module is LOST or DRAINED in the fault table (R332). -/
def isGone (s : State) (m : Nat) : Bool :=
  let f : FaultState := tget .up s.course.faults m
  f == .lost || f == .drained

/-- The shards owned here run solo (R332). -/
def runsSolo (s : State) (g : Group) : Bool :=
  isGone s s.partnerLabel || (heldShards g true).all (·.solo) && !(heldShards g true).isEmpty

/-! ## Secure points and their copies (R189, R342, R343) -/

/-- Where a protected hank's secured state is: itself until the copy is made. -/
def securedHank (sh : Shard) (h : Nat) : Nat :=
  match sh.secure with
  | some p => match p.hanks.find? (·.1 == h) with
    | some (_, c, true) => c
    | _ => h
  | none => h

/-- A hank is protected and its copy not yet made. -/
def isProtected (s : State) (h : Nat) : Bool :=
  s.groups.any fun g => g.shards.any fun sh => match sh.secure with
    | some p => p.hanks.any fun q => q.1 == h && !q.2.2
    | none => false

/-- Hanks that a run of bytes of an array touches. -/
def runHanks (hanks : List Nat) (o n : Nat) : List Nat :=
  (hankRuns (hanks.length + 1) o n).map fun r => hanks.getD r.1 0

/-- The copy of a protected hank made (R189, COW_COPY of Table 15.3). -/
def copyHank (h : Nat) (s : State) : State :=
  match s.groups.findSome? fun g => g.shards.findSome? fun sh => sh.secure.bind fun p =>
      (p.hanks.find? fun q => q.1 == h && !q.2.2).map (·.2.1) with
  | none => s
  | some c =>
    let mark (p : Secure) : Secure :=
      { p with hanks := p.hanks.map fun q => if q.1 == h then (q.1, q.2.1, true) else q }
    let s := { s with
      skein := { s.skein with mem := memCopyHank s.skein.mem h c, copying := s.skein.copying.filter (· != h) }
      groups := s.groups.map fun g => { g with shards := g.shards.map fun sh => { sh with secure := sh.secure.map mark } } }
    count { code := 0x23, hank := some h } 1 s

/-- Bytes written to an array with the copies that protected hanks need made first. -/
def guardedWrite (priv : Nat) (hanks : List Nat) (o : Nat) (bs : List Byte) (s : State) : State :=
  let s := forEach ((runHanks hanks o bs.length).filter (isProtected s)) copyHank s
  countSkein 0x21 priv hanks o bs.length (arrayWrite hanks o bs s)

/-- Protection lifted, and SNAPSHOT hanks returned to FREE (R342, R343). -/
def liftSecure (gid : Nat) (s : State) : State :=
  match findGroup s gid with
  | none => s
  | some g =>
    let s := forEach (g.shards.flatMap secureHanks) releaseHank s
    updGroup gid (fun g => { g with shards := g.shards.map fun sh => { sh with secure := none } }) s

/-- The FREE hank reserved for a protected hank's copy: on the hank's own skein if there is one, else on the skein with
most FREE hanks (DESIGN CHOICE, log entry 14). -/
def snapshotHank (s : State) (h : Nat) : Option Nat :=
  match lowestFree s (h / 65536) with
  | some c => some c
  | none =>
    let best := (List.range s.config.skeins).foldl (fun b j => if freeHanks s b < freeHanks s j then j else b) 0
    lowestFree s best

/-- One SNAPSHOT hank reserved for each hank; none where FREE hanks are short. -/
def reserveSnapshots : List Nat → State → Option (List (Nat × Nat × Bool) × State)
  | [], s => some ([], s)
  | h :: hs, s => match snapshotHank s h with
    | none => none
    | some c => (reserveSnapshots hs (setHank .snapshot c s)).map fun q => ((h, c, false) :: q.1, q.2)

/-- Hanks of the current set of every state array of a shard. -/
def currentHanks (g : Group) (sh : Shard) : List Nat := (presentArrays g.record).flatMap fun x => arraySet sh x sh.gen

/-- A secure point of the group taken over its current sets (R342): reported with its outcome. -/
def takeSecure (gid : Nat) (s : State) : State :=
  match findGroup s gid with
  | none => s
  | some g =>
    let s := updGroup gid (fun g => { g with secureReq := false }) s
    match reserveSnapshots (g.shards.flatMap (currentHanks g)) s with
    | none => postEvent 0x000A gid 2 [] s
    | some (hs, s') =>
      let s := liftSecure gid s'
      let s := updGroup gid (fun g => { g with shards := g.shards.map fun sh =>
        { sh with secure := some { set := sh.gen, hanks := hs.filter fun q => (currentHanks g sh).contains q.1 } } }) s
      postEvent 0x000A gid 1 [] s

/-- A secure point that is due at a flip: taken once every shard held here has flipped for the step, so that it is the state of
that step in both roles (R342). -/
def secureAtFlip (gid step : Nat) (s : State) : State :=
  match findGroup s gid with
  | none => s
  | some g =>
    let at' (sh : Shard) : Bool := sh.step == step || sh.lost || (!sh.owner && isGone s s.partnerLabel)
    if g.secureReq && g.shards.all at' then takeSecure gid s else s

/-- A secure point still due when no REDUCE_APPLY is posted any more: taken over the current sets (R342). -/
def secureCheck (gid : Nat) (s : State) : State :=
  match findGroup s gid with
  | none => s
  | some g => if g.secureReq && g.phase == .active && !applyPosted g && !applyQueuedUp g then takeSecure gid s else s

/-- A secure point requested: taken at once when no REDUCE_APPLY is posted (R342). -/
def requestSecure (gid : Nat) (s : State) : State :=
  match findGroup s gid with
  | none => s
  | some g =>
    if applyPosted g || applyQueuedUp g then updGroup gid (fun g => { g with secureReq := true }) s
    else takeSecure gid s

/-! ## State digests (R373) -/

/-- Logical bytes of one array of a shard's current set. -/
def arrayLogical (s : State) (g : Group) (sh : Shard) (x : Nat) : List Byte :=
  let f := arrayFmt g.record x
  let n := (entryOf g.record sh.index).count
  logicalStream (Spec.ofNat f) n (arrayRead s (arraySet sh x sh.gen) 0 (arrayLen f n))

/-- The state digest of array x over the shards held in a role; 0 where the array is absent. -/
def stateDigest (s : State) (g : Group) (owner : Bool) (x : Nat) : BitVec 64 :=
  if (presentArrays g.record).contains x then
    crc64xz ((heldShards g owner).flatMap fun sh => arrayLogical s g sh x)
  else 0

def stateDigests (s : State) (g : Group) (owner : Bool) : List (BitVec 64) := (List.range 3).map (stateDigest s g owner)

/-! ## Step records (R345, R347) -/

/-- The lead's label (R328). -/
def leadOf (s : State) : Nat := match s.course.leadNow with
  | some l => l.toNat
  | none => bits s.course.cfg.toNat 26 16

/-- 0 worker, 1 lead, 2 standby lead (Table 11.3). Until COURSE_SETUP is accepted or a LEAD_TAKEN heard it is 0, its reset
value (DEDUCED, log entry 111). -/
def leadRole (s : State) : Nat :=
  if s.course.leadNow.isNone then 0
  else if s.label = leadOf s then 1 else if s.label = leadOf s ^^^ 1 then 2 else 0

/-- Key of a commit report: group, owner. -/
def reportKey (b : List Byte) : Nat × Nat := (leAt b 0 3, leAt b 18 2)

/-- The record of a step, opened where it is among the 16 newest. -/
def openRecord (step : Nat) (l : List StepRec) : Option (List StepRec) :=
  if l.any (·.step == step) then some l
  else
    let older := l.filter fun x => decide (x.step < step)
    let newer := l.filter fun x => decide (step < x.step)
    if 16 ≤ newer.length then none
    else
      let all := older ++ [({ step := step, reports := [], notes := [] } : StepRec)] ++ newer
      some (all.drop (all.length - 16))

/-- A report taken into a record: whether it is kept, and the record. A report of kind 0 replaces one of kind 1. -/
def takeReport (b : List Byte) (x : StepRec) : Bool × Bool × StepRec :=
  match x.reports.find? (reportKey · == reportKey b) with
  | some old =>
    if leAt b 20 1 = 0 ∧ leAt old 20 1 = 1 then
      (true, false, { x with reports := lupdate (reportKey · == reportKey b) (fun _ => b) x.reports })
    else (false, false, x)
  | none =>
    if x.reports.length < 32768 then (true, false, { x with reports := x.reports ++ [b] }) else (false, true, x)

/-- A second note of an endpoint for a step: its loss compared bitwise with the stored one (R359 step 6). -/
def verifyNote (e step : Nat) (b : List Byte) (l : List StepRec) (s : State) : State :=
  match (l.find? (·.step == step)).bind fun x => x.notes.find? (·.1 == e) with
  | some old =>
    { s with course := { s.course with
      verified := s.course.verified ++ [(step, e, slice b 8 8 == slice old.2 8 8)] } }
  | none => s

/-- A note taken into a record. -/
def takeNote (e : Nat) (b : List Byte) (x : StepRec) : Bool × Bool × StepRec :=
  if x.notes.any (·.1 == e) then (false, false, x)
  else if x.notes.length < 32768 then (true, false, { x with notes := x.notes ++ [(e, b)] })
  else (false, true, x)

/-- A report (`ep` none) or an endpoint's note entered in the step records; one kept is forwarded by the lead to the
standby lead (R347). A forwarded note names its endpoint in the low bits of `addr` (DESIGN CHOICE, log entry 15). -/
def keepEntry (ep : Option Nat) (b : List Byte) (s : State) : State :=
  let step := match ep with
    | some _ => leAt b 0 8
    | none => leAt b 8 8
  let discard : State := { s with course := { s.course with recDiscards := s.course.recDiscards + 1 } }
  match openRecord step s.course.records with
  | none => discard
  | some l =>
    match l.find? (·.step == step) with
    | none => discard
    | some x =>
      let (kept, full, x) := match ep with
        | some e => takeNote e b x
        | none => takeReport b x
      if full then discard
      else if !kept then (match ep with
        | some e => verifyNote e step b l s
        | none => s)
      else
        let s := { s with course := { s.course with records := lupdate (·.step == step) (fun _ => x) l } }
        let standby := leadOf s ^^^ 1
        if leadRole s = 1 then
          let addr := match ep with
            | some e => 0xC000000000000000 + e
            | none => 0x4000000000000000
          sendFlow (putPacket s (modAddr standby) addr b) none .report s
        else s

/-- The commit report of a group (Table 11.12): kind 0 of the shards owned here, kind 1 of those partnered here; `dig` holds
their state digests. -/
def commitReport (s : State) (g : Group) (kind seq step : Nat) (out : BitVec 64) (dig : List (BitVec 64)) : List Byte :=
  let own := kind == 0
  let owner := if own then s.label else s.partnerLabel
  let rows := (List.range g.record.rowCount).flatMap fun k => leBytes 8 (rowValue s (g.record.rowBase + k))
  padTo 256 (leBytes 4 g.id ++ leBytes 4 seq ++ leBytes 8 step ++ leBytes 2 s.label ++ leBytes 2 owner ++
    leBytes 1 kind ++ leBytes 3 0 ++ leBytes 4 (heldShards g own).length ++ leBytes 4 g.record.shards.length ++
    leBytes 8 (if own then out.toNat else 0) ++ dig.flatMap (fun x => leBytes 8 x.toNat) ++
    leBytes 8 (if own then (crc64xz rows).toNat else 0))

/-- A report to the lead; the lead keeps its own. One to a lead that is lost goes to the module that adopts its label (R349). -/
def sendReport (b : List Byte) (s : State) : State :=
  if leadRole s = 1 then keepEntry none b s
  else sendFlow (putPacket s (modAddr (leadOf s)) 0x4000000000000000 b) none .report s

/-! ## Generation flips (R190) -/

/-- An APPLY stitch of the group is on the needle bed: its reads began before the flip. -/
def applyRunning (s : State) (gid : Nat) : Bool :=
  let is (x : Stitch) : Bool := x.group == gid && (x.kind == .apply1 || x.kind == .apply2)
  s.bed.queue.any is || (liveStitch s).any is

/-- The course leaves REFILL once every shard that the returned module partners has sealed a step (Table 11.2): those owned here
at the module that stayed, those partnered here at the one that returned. -/
def refillDone (s : State) : State :=
  if s.course.state = .refill ∧
      (s.groups.all fun g => g.shards.all fun sh => !sh.refill || sh.owner == s.course.refillHere) then
    postEvent 0x0009 1 s.partnerLabel [] { s with course := { s.course with state := .paired, refillHere := false } }
  else s

/-- The sets of the shards held in a role flipped as one change, with a secure point requested. -/
def flipRole (gid : Nat) (owner : Bool) (step : Nat) (s : State) : State :=
  let s := updGroup gid (fun g => { g with shards := g.shards.map fun sh =>
    if sh.owner == owner then { sh with gen := !sh.gen, step := step, refill := false, mirrorBytes := 0 } else sh }) s
  refillDone (secureAtFlip gid step s)

/-- A HANDOVER reported to the host and to the lead (R344; log entry 16). -/
def reportHandover (gid : Nat) (s : State) : State :=
  postEvent 0x0009 5 s.partnerLabel [] { s with course := { s.course with toLead := s.course.toLead ++ [(leadOf s, gid)] } }

/-- A hank of a shard given a state; a RETIRED hank stays so. -/
def assignHank (st : HankState) (h : Nat) (s : State) : State := if hankState s h = .retired then s else setHank st h s

/-- Hanks of a shard's state arrays, in both sets. -/
def stateHanks (g : Group) (sh : Shard) : List Nat :=
  (presentArrays g.record).flatMap fun x => arraySet sh x false ++ arraySet sh x true

/-- The roles of the shards that a module hands over swapped, with their hank states (R344): those held as `owner` here. At
the module that hands over, later REDUCE_APPLYs are held. -/
def swapRoles (gid : Nat) (owner : Bool) (s : State) : State :=
  match findGroup s gid with
  | none => s
  | some g =>
    let s := forEach (g.shards.filter (·.owner == owner)) (fun sh s =>
      forEach (stateHanks g sh) (assignHank (if sh.owner then .sympathetic else .shard)) s) s
    reportHandover gid (updGroup gid (fun g => { g with
      swapDue := g.swapDue.erase owner, handedOver := g.handedOver || owner
      shards := g.shards.map fun sh => if sh.owner == owner then { sh with owner := !sh.owner } else sh }) s)

/-- The role swap of the shards in a role, where it is due, made at the end of a step. -/
def swapIfDue (gid : Nat) (owner : Bool) (s : State) : State :=
  match findGroup s gid with
  | some g => if g.swapDue.contains owner then swapRoles gid owner s else s
  | none => s

/-- The step committed at an owner (step 4 of R190): the flip, the last committed step, the secure point, the report to
the lead and a role swap that is due. -/
def commitStep (gid step : Nat) (s : State) : State :=
  match findGroup s gid with
  | none => s
  | some g => match g.ops.find? fun o => o.op == 6 && o.resend.isNone with
    | none => s
    | some op =>
      let s := updGroup gid (fun g => { g with
        flipDue := none, lastStep := step, stepSeqs := (step, op.seq, op.desc) :: g.stepSeqs }) s
      let s := flipRole gid true step s
      let s := match findGroup s gid with
        | none => s
        | some g =>
          let s := updOp gid op.seq (fun o => { o with committed := some true, postState := stateDigests s g true }) s
          sendReport (commitReport s g 0 op.seq step op.digest (stateDigests s g true)) s
      swapIfDue gid true s

/-- A commit that is due takes effect once no read of the old set remains. -/
def flipNow (gid : Nat) (s : State) : State :=
  match findGroup s gid with
  | none => s
  | some g => match g.flipDue with
    | some step => if applyRunning s gid then s else commitStep gid step s
    | none => s

/-! ## STEP_SEAL at the owner (R190, R192, R256) -/

/-- STEP_SEAL to the partner. -/
def sealPacket (s : State) (gid step : Nat) (abandon : Bool) : Packet :=
  ctlPacket 0x58 0 (modAddr s.partnerLabel) (me s) [(8, 3, gid), (11, 1, b2n abandon), (16, 8, step)]

/-- Every chunk of the shards owned here has completed or failed. -/
def ownedDone (g : Group) (op : Op) : Bool :=
  let mine (c : Nat) : Bool := (heldShards g true).any (·.index == rootShard g.record op c)
  (List.range op.chunks).all fun c => !mine c || op.complete.contains c || op.failed.contains c

/-- Phase K begun once its first step is met: a commit where no chunk known here failed, else an abandoned step
(DEDUCED, log entry 17). Solo, or with no shard mirrored, it takes effect at once. -/
def tryCommit (gid : Nat) (s : State) : State :=
  match findGroup s gid with
  | none => s
  | some g => match g.ops.find? fun o => o.op == 6 && o.resend.isNone && dCount o.desc != 0 with
    | none => s
    | some op =>
      if (heldShards g true).isEmpty || op.committed.isSome || op.sealSent.isSome || g.flipDue.isSome ||
          !ownedDone g op then s
      else
        let abandon := !op.failed.isEmpty
        if runsSolo s g then
          if abandon then updOp gid op.seq (fun o => { o with abandon := true, committed := some false }) s
          else flipNow gid (updGroup gid (fun g => { g with flipDue := some (dStep op.desc) }) s)
        else
          let s := updOp gid op.seq (fun o => { o with abandon := abandon, sealSent := some s.clock.now }) s
          sendCtl (sealPacket s gid (dStep op.desc) abandon) s

/-- STEP_SEALED at the owner: the flip, or the end of an abandoned step. -/
def takeSealed (gid step : Nat) (s : State) : State :=
  match findGroup s gid with
  | none => s
  | some g => match g.ops.find? fun o => o.op == 6 && o.resend.isNone && dStep o.desc == step with
    | none => s
    | some op =>
      if op.sealSent.isNone || op.committed.isSome || g.flipDue.isSome then s
      else if op.abandon then
        swapIfDue gid true (updOp gid op.seq (fun o => { o with committed := some false }) s)
      else flipNow gid (updGroup gid (fun g => { g with flipDue := some step }) s)

/-- STEP_SEAL repeated every 100 µs until it is answered (R256). -/
def sealRetry (gid : Nat) (s : State) : State :=
  match findGroup s gid with
  | none => s
  | some g => match g.ops.find? fun o => o.op == 6 && o.resend.isNone with
    | none => s
    | some op => match op.sealSent with
      | some t =>
        if op.committed.isNone && g.flipDue.isNone && decide (125000 ≤ since s t) then
          sendCtl (sealPacket s gid (dStep op.desc) op.abandon)
            (updOp gid op.seq (fun o => { o with sealSent := some s.clock.now }) s)
        else s
      | none => s

def execStepSealRetry (group : BitVec 24) (s : State) : Host.Outcome State Fault Refusal := .next (sealRetry group.toNat s)

/-! ## The sympathetic copy (R330, R331) -/

/-- Units of 256 B of a shard's part of a mirror space. -/
def partUnits (r : Record) (x k : Nat) : Nat := ceilDiv (arrayLen (arrayFmt r x) (entryOf r k).count) 256

/-- First unit of a shard's part, among the shards held in a role. -/
def mirrorBase (g : Group) (owner : Bool) (x k : Nat) : Nat :=
  (((heldShards g owner).filter fun sh => decide (sh.index < k)).map fun sh => partUnits g.record x sh.index).sum

/-- A mirror-space address. -/
def mirrorAddr (gid x : Nat) (cur : Bool) (unit : Nat) : Nat :=
  0x8000000000000000 + gid * 2 ^ 38 + x * 2 ^ 36 + 2 ^ 35 * b2n cur + unit

/-- Units [u, u + n) of a shard's array sent to the partner from a set, in PUTs of at most 32 units. They carry what has just been
stored there, so that the skeins are not read for them (R195: Table 6.9 has a mirror term at the partner alone). -/
def sendMirror (gid k x : Nat) (cur set : Bool) (u n : Nat) (why : Purpose) (s : State) : State :=
  match findGroup s gid with
  | none => s
  | some g => match g.shards.find? (·.index == k) with
    | none => s
    | some sh =>
      let base := mirrorBase g true x k
      forEach (List.range (ceilDiv n 32)) (fun i s =>
        let m := min 32 (n - 32 * i)
        let bs := arrayRead s (arraySet sh x set) (256 * (u + 32 * i)) (256 * m)
        sendFlow (putPacket s (modAddr s.partnerLabel) (mirrorAddr gid x cur (base + u + 32 * i)) bs) none why s) s

/-- The partner's place of a mirror-space unit: the shard and the unit within its part. -/
def mirrorPlace (g : Group) (x unit : Nat) : Option (Shard × Nat) :=
  ((heldShards g false).foldl (fun (a : Option (Shard × Nat) × Nat) sh =>
    let n := partUnits g.record x sh.index
    match a.1 with
    | some _ => a
    | none => if a.2 ≤ unit ∧ unit < a.2 + n then (some (sh, unit - a.2), a.2) else (none, a.2 + n)) (none, 0)).1

/-- Where a mirror PUT writes: group, shard, array, set and unit; none where it is refused with NO_ACCESS (R330). A group that
binds off is active until its last operation has completed (R142). -/
def mirrorTarget (s : State) (p : Packet) : Option (Group × Shard × Nat × Bool × Nat) :=
  let a := pAddr p
  let x := bits a 37 36
  let cur := bit a 35
  match findGroup s (bits a 61 38) with
  | none => none
  | some g =>
    if (g.phase ≠ .active ∧ g.phase ≠ .binding) ∨ 3 ≤ x ∨ pSrc p ≠ modAddr s.partnerLabel ∨ (cur ∧ applyOpen g false) then
      none
    else match mirrorPlace g x (bits a 34 0) with
    | none => none
    | some (sh, u) =>
      if partUnits g.record x sh.index < u + pUnits p then none
      else some (g, sh, x, if cur then sh.gen else !sh.gen, u)

/-- A shard's mirror writes of the step are all there. -/
def mirrorFull (g : Group) (sh : Shard) : Bool :=
  decide (((presentArrays g.record).map fun x => 256 * partUnits g.record x sh.index).sum ≤ sh.mirrorBytes)

/-- STEP_SEALED to the owner. -/
def sendSealed (gid step : Nat) (s : State) : State :=
  sendCtl (ctlPacket 0x59 0 (modAddr s.partnerLabel) (me s) [(8, 3, gid), (16, 8, step)]) s

/-- Shards partnered here whose seal a flip awaits: those not lost. -/
def sealable (g : Group) : List Shard := (heldShards g false).filter (!·.lost)

/-- The digests of a step just sealed for the shards partnered here, kept for a takeover (R337); the lead keeps the 16 newest
steps (R347). -/
def keepSealed (gid step : Nat) (s : State) : State :=
  match findGroup s gid with
  | none => s
  | some g =>
    let dig := stateDigests s g false
    updGroup gid (fun g => { g with sealed := ((step, dig) :: g.sealed.filter (·.1 != step)).take 16 }) s

/-- A seal that waits takes effect once the mirror chunks are written: the flip, and its answer (step 3 of R190). -/
def sealNow (gid : Nat) (s : State) : State :=
  match findGroup s gid with
  | none => s
  | some g => match g.sealDue with
    | none => s
    | some step =>
      if (sealable g).all (mirrorFull g) then
        let s := updGroup gid (fun g => { g with
          sealDue := none, seals := g.seals ++ [(step, true)]
          stepSeqs := if g.stepSeqs.any (·.1 == step) then g.stepSeqs
            else ((g.ops.filter fun o => o.op == 6 && o.resend.isNone && dStep o.desc == step).map fun o =>
              (step, o.seq, o.desc)) ++ g.stepSeqs }) s
        sendSealed gid step (swapIfDue gid false (keepSealed gid step (flipRole gid false step s)))
      else s

/-- A mirror PUT's payload written at the partner, but to a shard lost here, which takes no update (R35). -/
def mirrorWrite (p : Packet) (s0 : State) : State :=
  match mirrorTarget s0 p with
  | none => s0
  | some (g, sh, x, set, u) =>
    let f := arrayFmt g.record x
    let cur := bit (pAddr p) 35
    let keep := min p.payload.length (arrayLen f (entryOf g.record sh.index).count - 256 * u)
    let s := guardedWrite 0 (arraySet sh x set) (256 * u) (p.payload.take keep) s0
    if sh.lost then s0
    else if cur then s
    else sealNow g.id (updShard g.id sh.index (fun sh => { sh with
      mirrorBytes := sh.mirrorBytes + p.payload.length, begun := max sh.begun (sh.step + 1) }) s)

/-- Protected hanks that a mirror PUT would write (R189). -/
def mirrorBlocked (s : State) (p : Packet) : List Nat :=
  match mirrorTarget s p with
  | none => []
  | some (_, sh, x, set, u) =>
    if sh.lost then [] else (runHanks (arraySet sh x set) (256 * u) p.payload.length).filter (isProtected s)

/-- A step is sealed for the shards partnered here: theirs, or one before it (R190). -/
def isSealed (g : Group) (step : Nat) : Bool :=
  decide (1 ≤ step) && (heldShards g false).any fun sh => decide (step ≤ sh.step)

/-- STEP_SEAL at the partner (R190, R192). One already sealed is answered again (R256), in a FAULTED group as well. -/
def takeSeal (gid step : Nat) (abandon : Bool) (s : State) : State :=
  match findGroup s gid with
  | none => s
  | some g =>
    if g.phase = .casting then s
    else if !abandon && isSealed g step then sendSealed gid step s
    else if g.phase = .faulted then s
    else if abandon then
      let again := g.seals.contains (step, false) || (g.abandoned == some step && !g.ops.any fun o => dStep o.desc == step)
      let s := updGroup gid (fun g => { g with
        sealDue := none, seals := if again then g.seals else g.seals ++ [(step, false)]
        shards := g.shards.map fun sh => if sh.owner then sh else { sh with mirrorBytes := 0 } }) s
      sendSealed gid step (swapIfDue gid false s)
    else sealNow gid (updGroup gid (fun g => { g with sealDue := some step }) s)

end Sys2Proof.Machine
end

