-- ==== Sys2Proof/Machine/Posting.lean ====
section
/-!
DEFINITION. Operations of a group from posting to completion: the checks of a COLLECTIVE (R143 to R145, Tables 5.7, 5.8),
the group's queue (R193, R344, R399, R400), when a chunk and an operation are complete at a module (R156, R157), and what
a completion carries and leaves (Table 5.11, R229, R378).
-/
namespace Sys2Proof.Machine

/-! ## Checks (Tables 5.7, 5.8) -/

/-- Reserved fields of Table 5.7 are 0. -/
def postRsvdOk (d : Desc) : Bool :=
  dRsvdOk d [(8, 3), (12, 4), (16, 5), (24, 4), (28, 1), (29, 1), (30, 1), (31, 1), (32, 4), (36, 2), (38, 1), (40, 2),
    (48, 8), (56, 8)] && bits (field d 30 1) 7 1 == 0

/-- Format specifiers of an operation: its contributions, and its outputs where it has phase X. -/
def opFormats (r : Record) (d : Desc) : List Spec :=
  Spec.ofNat (dInFmt d) :: (if dOp d = 4 then [] else (r.outFmt.take r.outCount).map Spec.ofNat)

/-- Chunk bytes of a full chunk (R144). -/
def chunkBytes (r : Record) (d : Desc) : Nat :=
  let sp := if isReducing (dOp d) then Spec.ofNat r.workFmt else Spec.ofNat (dInFmt d)
  streamLen sp (dRowLen d) 0 (dChunk d)

/-- Row lengths meet R61 and R144. -/
def rowLenOk (r : Record) (d : Desc) : Bool :=
  let mx := (opFormats r d).filter fun sp => fmtIsMx sp.format
  if mx.isEmpty then dRowLen d == 0
  else
    dRowLen d != 0 && dCount d % dRowLen d == 0 &&
    (dChunk d % dRowLen d == 0 || mx.all fun sp => dRowLen d % sp.block == 0)

/-- Chunks meet R144, R145 and R183. -/
def chunksOk (r : Record) (d : Desc) : Bool :=
  dChunk d != 0 && dChunk d % 128 == 0 && decide (4096 ≤ chunkBytes r d ∧ chunkBytes r d ≤ r.maxChunk) &&
  rowLenOk r d && decide (chunksOfOp r d ≤ 2 ^ 32) &&
  (dOp d != 6 || r.shards.all fun k => k.base % dChunk d == 0)

/-- The row counters of Table 5.10 lie in the group's reservation. -/
def rowsOk (r : Record) (d : Desc) : Bool :=
  let n := if dCount d = 0 ∨ dRowShift d = 32 then 0 else (chunksOfOp r d - 1) >>> dRowShift d
  decide (r.rowBase ≤ dRowBase d ∧ dRowBase d + n < r.rowBase + r.rowCount)

/-- The rules of Table 5.8 for each operation. -/
def opRulesOk (r : Record) (d : Desc) : Bool :=
  let n := ranksOf r
  let fmtOk := (Spec.ofNat (dInFmt d)).valid true && dPass d == passOf (Spec.ofNat (dInFmt d)).format
  let work := workingOf (Spec.ofNat (dInFmt d)).format == r.workFmt
  (dOp d == 3 || dRoot d == 0) && (dOp d == 6 || dStep d == 0) && decide (dRowShift d ≤ 32) &&
  (match dOp d with
  | 0 => fmtOk && work
  | 1 => fmtOk && work && dCount d % n == 0
  | 2 => fmtOk && decide (n * dCount d < 2 ^ 48)
  | 3 => fmtOk && decide (dRoot d < n)
  | 4 => fmtOk && decide (dCount d < 2 ^ 32) && fmtIsScalar (Spec.ofNat (dInFmt d)).format && dRowShift d == 32
  | 5 => dCount d == 0 && dChunk d == 0 && dInFmt d == 0 && dPass d == 0 && dRowLen d == 0 && dRowShift d == 32
  | 6 => fmtOk && work && (dCount d == 0 || dCount d == r.totalElems)
  | _ => false)

/-- MAP reads stream 0 and writes stream 8 alone (DESIGN CHOICE, log entry 18). -/
def mapStreamsOk (s : State) (r : Record) : Bool :=
  match (getSlot s r.mapSlot).image with
  | some i => imgRead i == 1 && imgWrite i == 256
  | none => false

/-- The detail with which a COLLECTIVE is refused (R143); none where it is accepted. The manual gives no order of these checks: of
several that fail the first of this list counts (DESIGN CHOICE, log entry 118). A MAP that names a stream which R101 does not bind fails
here, since R118 has the descriptor fail that binds it, and with STATE (DESIGN CHOICE, log entry 18). -/
def postError (s : State) (g : Group) (d : Desc) (h : HostRead) : Option Nat :=
  let r := g.record
  if !postRsvdOk d then some dtReserved
  else if dSeq d ≠ g.nextSeq then some dtOrder
  else if !permits r (dOp d) then some dtRange
  else if !opRulesOk r d then some dtRange
  else if dMap d ∧ 3 < dOp d then some dtRange
  else if dMap d ∧ (r.mapSlot = 0xFF ∨ !mapStreamsOk s r) then some dtState
  else if dOp d ≠ 5 ∧ !chunksOk r d then some dtRange
  else if !rowsOk r d then some dtRange
  else if dOp d = 6 ∧ dStep d ≠ g.lastStep + 1 then some dtOrder
  else if dParam d = 0 then (if dMap d ∨ dOp d = 6 then some dtRange else none)
  else if (hostRead s (dParam d) 64 h).isNone then some dtHostRead
  else none

/-! ## When a chunk is complete here (R156) -/

/-- The formats an instance must pass down of a chunk have all been passed down. -/
def downSent (r : Record) (op : Op) (i : Inst) (c : Nat) : Bool :=
  (instNeeds r op i c).all fun f => op.downDone.contains (i.node, i.shard, c, f)

/-- The rank that sends a chunk lies under an instance. -/
def sourceUnder (r : Record) (op : Op) (i : Inst) (c : Nat) : Bool :=
  match chunkRank r op c with
  | some k =>
    let p := (r.ranks.getD k default).leafPos
    decide (nodeLo (nodeAt r i.node) ≤ p ∧ p < nodeHi (ranksOf r) (nodeAt r i.node))
  | none => true

/-- An instance has finished its work on a chunk. -/
def instFinished (g : Group) (op : Op) (i : Inst) (c : Nat) : Bool :=
  let r := g.record
  let up := if op.resend.isSome then true
    else if isReducing op.op then instDone op i c
    else !sourceUnder r op i c || i.passed.contains (op.seq, c)
  up && downSent r op i c && !(i.ctxs.any fun x => x.seq == op.seq && x.chunk == c && op.resend.isNone) &&
  !(i.retries.any fun q => q.1 == op.seq && q.2.1 == c)

/-- Instances with work on a chunk. A SHARD_RESEND's work is at its root instances. -/
def workers (g : Group) (op : Op) (c : Nat) : List Inst :=
  g.insts.filter fun i => hasWork g.record op i c && (op.resend.isNone || isRoot g.record i)

/-- Phases A and M of a chunk are done where its shard is owned here (R154, R331). -/
def applyDone (s : State) (g : Group) (op : Op) (c : Nat) : Bool :=
  if op.op = 6 ∧ op.resend.isNone ∧ (heldShards g true).any (·.index == rootShard g.record op c) then
    op.applied.contains c && op.mirrored.contains c &&
    !(s.flows.tx.any fun f => f.2.unacked.any fun x => x.purpose == .mirror g.id op.seq c)
  else true

/-- A chunk completes at this module. -/
def chunkReady (s : State) (g : Group) (op : Op) (c : Nat) : Bool :=
  !(workers g op c).isEmpty && (workers g op c).all (instFinished g op · c) &&
  !(g.transfers.any fun t => t.seq == op.seq && t.chunk == c && t.dir != 2) && applyDone s g op c

/-! ## All-to-all chunks (R152) -/

/-- Chunks of the segment from rank a to rank b. -/
def pairChunks (op : Op) (a b : Nat) : Nat :=
  if dChunk op.desc = 0 then 0 else ceilDiv ((tget [] op.matrix a).getD b 0) (dChunk op.desc)

/-- A node covers a rank's leaf position. -/
def covers (r : Record) (node k : Nat) : Bool :=
  let p := (r.ranks.getD k default).leafPos
  decide (nodeLo (nodeAt r node) ≤ p ∧ p < nodeHi (ranksOf r) (nodeAt r node))

/-- The chunks from a to b turn down at this node: no node below it covers both. -/
def turnsHere (r : Record) (node a b : Nat) : Bool :=
  covers r node a && covers r node b &&
  !((List.range (slotCount (ranksOf r) (nodeAt r node))).any fun k => match childOf r (nodeAt r node) k with
    | some c => covers r c a && covers r c b
    | none => false)

/-- The chunks from a to b cross a node. -/
def onPath (r : Record) (node a b : Nat) : Bool := (covers r node a != covers r node b) || turnsHere r node a b

/-- The matrix has passed whole. -/
def matrixFull (r : Record) (op : Op) : Bool := (List.range (ranksOf r)).all fun a => (tget [] op.matrix a).length == ranksOf r

/-- The instance of a node that a phase-T chunk crosses: its only one, or the per-shard root's for shard 0 (log entry 13). -/
def a2aInst (i : Inst) : Bool := i.shard.getD 0 == 0

/-- Every phase-T chunk that crosses this module has crossed: none does without elements, or where no instance lies on a
path. -/
def transitDone (g : Group) (op : Op) : Bool :=
  let n := ranksOf g.record
  let insts := g.insts.filter a2aInst
  op.chunks == 0 || insts.isEmpty ||
    (matrixFull g.record op && insts.all fun i => (List.range n).all fun a => (List.range n).all fun b =>
      !onPath g.record i.node a b || (List.range (pairChunks op a b)).all fun c => op.crossed.contains (i.node, a, b, c))

/-! ## Completion (R157) -/

/-- Every chunk with work here has completed or failed. -/
def chunksDone (g : Group) (op : Op) : Bool :=
  (List.range op.chunks).all fun c =>
    (workers g op c).isEmpty || op.complete.contains c || op.failed.contains c

/-- The owner of the shards partnered here has sealed the step or abandoned it: how, once it has. -/
def partnerOutcome (g : Group) (op : Op) : Option Bool := (g.seals.find? (·.1 == dStep op.desc)).map (·.2)

/-- A REDUCE_APPLY with data, not a resend. -/
def isStep (op : Op) : Bool := op.op == 6 && op.resend.isNone && dCount op.desc != 0

/-- No chunk of an operation is being made again here. -/
def settledAgain (g : Group) (op : Op) : Bool :=
  !(g.transfers.any (·.seq == op.seq)) && g.insts.all fun i =>
    !(i.ctxs.any (·.seq == op.seq)) && !(i.retries.any (·.1 == op.seq))

/-- Everything an operation's completion waits for; one that has completed here before is done once nothing is made again. -/
def opDone (g : Group) (op : Op) : Bool :=
  if op.again then settledAgain g op
  else chunksDone g op && (op.op != 4 || transitDone g op || !op.failed.isEmpty) &&
  (!isStep op || (((heldShards g true).isEmpty || op.committed.isSome) &&
    ((sealable g).isEmpty || (partnerOutcome g op).isSome)))

/-- DROPPED_STITCH or OK. -/
def opStatus (g : Group) (op : Op) : Nat :=
  if !op.failed.isEmpty || op.committed == some false || (isStep op && partnerOutcome g op == some false) then stDropped
  else stOK

/-- Table 5.11. -/
def opPart (op : Op) (status : Nat) : List Byte :=
  let first := op.failed.foldl min 0xFFFFFFFF
  leBytes 4 op.seq ++ leBytes 1 status ++ leBytes 1 op.flags.toNat ++ leBytes 2 (min 0xFFFF op.retries.length) ++
  leBytes 4 op.failed.length ++ leBytes 4 first ++ leBytes 8 op.digest.toNat ++ leBytes 4 (min 0xFFFFFFFF op.nondet) ++
  leBytes 4 0

/-- OP_COMPLETE to every endpoint whose leaf module this is (R229). -/
def sendOpComplete (g : Group) (part : List Byte) (s : State) : State :=
  forEach (leafRanks s g.record) (fun x s =>
    sendCtl (ctlPacket 0x56 0 x.2.endpoint (me s) [(8, 3, g.id), (12, 16, leAt part 0 16)]) s) s

/-- Digest of a slot's image; 0 for an empty one. -/
def slotDigest (s : State) (n : Nat) : Nat := match (getSlot s n).image with
  | some i => i.digest.toNat
  | none => 0

/-- First 8 B of SHA-512 over the leaf positions and the node table with every module read as 0 (Table 12.7). -/
def patternDigest (r : Record) : Nat :=
  (sha8 ((r.ranks.flatMap fun k => leBytes 2 k.leafPos) ++ r.nodes.flatMap fun d =>
    leBytes 2 0 ++ leBytes 1 d.level ++ leBytes 1 d.slotLevel ++ leBytes 2 d.index ++ leBytes 2 0)).toNat

/-- Bytes 0 to 383 of a provenance record (Table 12.7). -/
def provContent (s : State) (g : Group) (op : Op) (status : Nat) : List Byte :=
  let r := g.record
  let d := op.desc
  let digests (l : List (BitVec 64)) : List Byte := if op.op = 6 then l.flatMap fun x => leBytes 8 x.toNat else leBytes 24 0
  leBytes 2 1 ++ leBytes 1 op.op ++ leBytes 1 (b2n (op.nondet != 0) + 2 * b2n (status != 0)) ++ leBytes 4 g.id ++
  leBytes 4 op.seq ++ leBytes 4 (min 0xFFFFFFFF op.nondet) ++ leBytes 8 (dStep d) ++ leBytes 8 r.seed ++
  leBytes 8 (dCount d) ++ leBytes 1 (dInFmt d) ++ leBytes 1 (dPass d) ++ leBytes 1 r.workFmt ++ leBytes 1 r.outCount ++
  (r.outFmt.flatMap (leBytes 1)) ++ leBytes 4 (dRowLen d) ++ leBytes 4 (ranksOf r) ++ leBytes 8 (patternDigest r) ++
  leBytes 64 (slotDigest s r.reduceSlot) ++ leBytes 64 (if dMap d then slotDigest s r.mapSlot else 0) ++
  leBytes 64 (if op.op = 6 then slotDigest s r.applySlot else 0) ++
  ((List.range 16).flatMap fun k => leBytes 4 (op.params.getD k 0)) ++ leBytes 8 op.inDigest.toNat ++
  leBytes 8 op.digest.toNat ++ digests op.preState ++ digests op.postState

/-- An operation completes at this module with a status: its completion, the notices to endpoints, the last committed step, and what
is kept of it. One that had completed before is only taken off again. -/
def finishOpAs (status gid : Nat) (op : Op) (s : State) : State :=
  match findGroup s gid with
  | none => s
  | some g =>
    let op := if op.op = 6 ∧ op.committed ≠ some true then { op with postState := stateDigests s g true } else op
    let keep (g : Group) : Group := { g with
      ops := g.ops.filter fun o => !(o.seq == op.seq && o.resend == op.resend)
      insts := g.insts.map fun i => { i with
        ctxs := i.ctxs.filter fun c => c.seq != op.seq || op.resend.isSome, bufs := i.bufs.filter (·.seq != op.seq)
        passed := i.passed.filter (·.1 != op.seq), aborted := i.aborted.filter (·.1 != op.seq)
        retries := i.retries.filter (·.1 != op.seq) } }
    let aborted := g.insts.flatMap fun i => (i.aborted.filter (·.1 == op.seq)).map (instKey i, ·)
    if op.again then updGroup gid (fun g => { keep g with
      past := g.past.map fun o => if o.seq = op.seq then { o with aborted := aborted } else o }) s
    else match op.resend with
    | some _ =>
      let res := leBytes 8 op.digest.toNat ++ (stateDigests s g true).flatMap fun x => leBytes 8 x.toNat
      complete op.tok status 0 0 res (updGroup gid keep s)
    | none =>
      let step := dStep op.desc
      let prov : Prov := { seq := op.seq, content := provContent s g op status }
      let bufs := g.insts.flatMap fun i => (i.ctxs.filter (·.seq == op.seq)).flatMap (·.bufs) ++
        (i.bufs.filter (·.seq == op.seq)).filterMap (·.cells)
      let s := forEach bufs releaseHolder s
      let s := updGroup gid (fun g =>
        let g := keep g
        { g with
          past := if !isForwarding op.op && op.chunks != 0 then g.past ++ [{ seq := op.seq, desc := op.desc, chunks := op.chunks
                                                                             params := op.params, aborted := aborted }]
            else g.past
          provs := (prov :: g.provs).take 64
          seals := if isStep op then g.seals.filter (·.1 != step) else g.seals
          abandoned := if isStep op && partnerOutcome g op == some false then some step else g.abandoned
          lastStep := if isStep op && status == stOK then step else g.lastStep
          stepSeqs := if isStep op && status == stOK && !(g.stepSeqs.any (·.1 == step)) then
            (step, op.seq, op.desc) :: g.stepSeqs else g.stepSeqs }) s
      let s := sendOpComplete g (opPart op status) s
      complete op.tok status 0 0 (opPart op status) s

/-- An operation that is done completes. -/
def finishOp (gid : Nat) (op : Op) (s : State) : State :=
  match findGroup s gid with
  | some g => finishOpAs (opStatus g op) gid op s
  | none => s

/-- Every operation that is done completes; the fuel is the number of operations. -/
def finishOps (gid : Nat) : Nat → State → State
  | 0, s => s
  | k + 1, s =>
    let s := tryCommit gid s
    match findGroup s gid with
    | none => s
    | some g => match g.ops.find? (opDone g) with
      | some op => finishOps gid k (finishOp gid op s)
      | none => s

/-! ## Posting (R143, R164, R193) -/

/-- An operation put in the order of `seq` from a base on. -/
def bySeq (base : Nat) (o : Op) : List Op → List Op
  | [] => [o]
  | x :: xs => if (o.seq + 2 ^ 32 - base) % 2 ^ 32 < (x.seq + 2 ^ 32 - base) % 2 ^ 32 then o :: x :: xs else x :: bySeq base o xs

/-- Chunks with work at an instance from a base on, in (`seq`, chunk) order, over completed operations and those posted; 64 at
most. -/
def chunksFrom (g : Group) (i : Inst) (base : Nat × Nat) : List (Nat × Nat) :=
  let ops := ((allReducing g).filter fun o => !seqLt o.seq base.1).foldl (fun l o => bySeq base.1 o l) []
  (ops.flatMap fun o =>
    let lo := if o.seq = base.1 then base.2 else 0
    ((List.range (o.chunks - lo)).filter fun k => hasWork g.record o i (lo + k)).map fun k => (o.seq, lo + k)).take 64

/-- The completed chunks of a restored image placed as far as their operations are posted (R376). -/
def placeRestored (g : Group) (i : Inst) : Inst :=
  match i.restored with
  | none => i
  | some (q, c, done) =>
    let new := ((chunksFrom g i (q, c)).zipIdx).filterMap fun x =>
      if done.getLsbD x.2 && !chunkLt x.1 (i.baseSeq, i.baseChunk) && !i.doneAbove.contains x.1 then some x.1 else none
    { i with doneAbove := i.doneAbove ++ new }

/-- A chunk stands complete at an instance before its operation begins, restored from an image; one with a retry pending there
does not (R375, R376). -/
def restoredAt (op : Op) (i : Inst) (c : Nat) : Bool :=
  i.restored.isSome && instDone op i c && !(i.retries.any fun q => q.1 == op.seq && q.2.1 == c)

/-- An operation whose chunks restored from an image stand complete here, so that they signal nothing again, and have been
passed down by their instances (R376, R377). -/
def restoreOp (g : Group) (op : Op) : Op :=
  if isReducing op.op && g.insts.any (·.restored.isSome) then
    { op with
      complete := (List.range op.chunks).filter fun c =>
        !(workers g op c).isEmpty && (workers g op c).all (restoredAt op · c)
      downDone := (List.range op.chunks).flatMap fun c => ((workers g op c).filter (restoredAt op · c)).flatMap fun i =>
        (instNeeds g.record op i c).map fun f => (i.node, i.shard, c, f) }
  else op

/-- An operation accepted: its number consumed, its parameters read. One without elements signals its counter. -/
def acceptOp (g : Group) (p : Posted) (s : State) : State :=
  let d := p.desc
  let params := match hostRead s (dParam d) 64 p.host with
    | some bs => if dParam d = 0 then [] else (chunksOf 4 bs).map leNat
    | none => []
  let empty := decide (dCount d = 0 ∧ dOp d ≠ 5)
  let op : Op := { seq := dSeq d, op := dOp d, desc := d, params := params, tok := p.tok
                   chunks := if empty then 0 else chunksOfOp g.record d
                   matrix := []
                   preState := if dOp d = 6 then stateDigests s g true else [0, 0, 0] }
  let s := updGroup g.id (fun g =>
    let g := { g with ops := g.ops ++ [op], nextSeq := (g.nextSeq + 1) % 2 ^ 32 }
    let g := { g with insts := g.insts.map (placeRestored g) }
    { g with ops := lupdate (·.seq == op.seq) (restoreOp g) g.ops }) s
  if empty then addRow (dRowBase d) 1 s else s

/-- The A1 values of a chunk in a set of its shard: stored form. -/
def chunkState (s : State) (g : Group) (sh : Shard) (x : Nat) (set : Bool) (op : Op) (c : Nat) : List Byte :=
  let f := arrayFmt g.record x
  let rel := chunkFirst g.record op c - (entryOf g.record sh.index).base
  arrayRead s (arraySet sh x set) (elemOff f rel) (arrayLen f (chunkLen g.record op c))

/-- Bytes of a chunk read from a set, counted (SKEIN_RD of Table 15.3). -/
def countChunkRead (g : Group) (sh : Shard) (x : Nat) (set : Bool) (op : Op) (c : Nat) (s : State) : State :=
  let f := arrayFmt g.record x
  let rel := chunkFirst g.record op c - (entryOf g.record sh.index).base
  countSkein 0x20 0 (arraySet sh x set) (elemOff f rel) (arrayLen f (chunkLen g.record op c)) s

/-- Stream 8 of a chunk converted and multicast from the shard's root instance (R150, R154, R358). `reads` names the arrays
read from the skeins for it: none where the needle bed has just written the values (R184, Table 6.9). -/
def sendWeights (gid seq : Nat) (resend : Bool) (c : Nat) (set : Shard → Bool) (reads : List Nat) (fl : BitVec 6)
    (s : State) : State :=
  match findGroup s gid with
  | none => s
  | some g => match g.ops.find? fun o => o.seq == seq && o.resend.isSome == resend with
    | none => s
    | some op =>
      let k := rootShard g.record op c
      match g.shards.find? (·.index == k), g.insts.find? (·.shard == some k) with
      | some sh, some i =>
        let bs := chunkState s g sh 0 (set sh) op c
        phaseX g op i c (Spec.ofNat (arrayFmt g.record 0)) (!resend) fl bs
          (forEach reads (fun x => countChunkRead g sh x (set sh) op c) s)
      | _, _ => s

/-- SHARD_RESEND started (R358): every chunk of the shards owned here sent from the current sets; the state arrays are read
once. -/
def startResend (g : Group) (p : Posted) (s : State) : State :=
  if (heldShards g true).isEmpty then bad p.tok dtRole s
  else match g.stepSeqs.find? (·.1 == g.lastStep) with
  | none => bad p.tok dtState s
  | some (_, seq, d) =>
    let row := field p.desc 12 2
    if !(decide (g.record.rowBase ≤ row ∧ row < g.record.rowBase + g.record.rowCount)) then bad p.tok dtRange s
    else
      let op : Op := { seq := seq, op := 6, desc := d, tok := p.tok, resend := some row, chunks := chunksOfOp g.record d }
      let s := updGroup g.id (fun g => { g with ops := g.ops ++ [op] }) s
      let mine (c : Nat) : Bool := (heldShards g true).any (·.index == rootShard g.record op c)
      forEach ((List.range op.chunks).filter mine) (fun c => sendWeights g.id seq true c (·.gen) (presentArrays g.record) fNone) s

/-- The first command of the queue must wait: an uncommitted REDUCE_APPLY stands before it, or the shards are handed
over, or another resend runs (R193, R344). -/
def mustWait (g : Group) (p : Posted) : Bool :=
  if p.resend then g.ops.any fun o => o.resend.isSome || o.op == 6
  else dOp p.desc == 6 && (applyPosted g || g.handedOver)

/-- Commands of the queue taken up in order, as far as they may; the fuel is the queue's length. The state also tells
which operations were accepted. -/
def takeQueue (gid : Nat) : Nat → State → State
  | 0, s => s
  | k + 1, s =>
    match findGroup s gid with
    | none => s
    | some g => match g.queue with
      | [] => s
      | p :: rest =>
        if g.phase = .casting ∨ g.recast.isSome ∨ mustWait g p then s
        else
          let s := updGroup gid (fun g => { g with queue := rest }) s
          let s :=
            if g.phase = .faulted then bad p.tok dtState s
            else if p.resend then
              (if dRsvdOk p.desc [(8, 3), (12, 2)] then startResend g p s else bad p.tok dtReserved s)
            else match postError s g p.desc p.host with
              | some e => bad p.tok e (if e = dtHostRead then noteRead (dParam p.desc) 64 p.host s else s)
              | none => acceptOp g p s
          takeQueue gid k s

end Sys2Proof.Machine
end

