-- ==== Sys2Proof/Machine/Stitches.lean ====
section
/-!
DEFINITION. Stitches: the contexts of a node instance (R141, R158 to R160), the needle bed's queue and its accounting
(R30, R31, R126, R430), what a REDUCE, MAP or APPLY stitch computes (R79 to R83, R101, R118 to R124), and what follows
from its result (Table 5.9).
-/
namespace Sys2Proof.Machine

/-! ## Contexts -/

def ctxAt (i : Inst) (seq c : Nat) : Option Ctx := i.ctxs.find? fun x => x.seq == seq && x.chunk == c

def updCtx (gid : Nat) (k : Nat × Option Nat) (seq c : Nat) (f : Ctx → Ctx) (s : State) : State :=
  updInst gid k (fun i => { i with ctxs := lupdate (fun x => x.seq == seq && x.chunk == c) f i.ctxs }) s

/-- An attempt above 0 counted once at this module (Table 5.11; RETRY of Table 15.3). -/
def countRetry (gid seq c attempt : Nat) (s : State) : State :=
  match findGroup s gid with
  | none => s
  | some g => match findOp g seq with
    | none => s
    | some op =>
      if attempt = 0 ∨ op.retries.contains (c, attempt) then s
      else count { code := 0x12 } 1 (updOp gid seq (fun o => { o with retries := o.retries ++ [(c, attempt)] }) s)

/-- Buffers of a context: one for each slot and each result (R141); none for a BARRIER, which has no data (R167). -/
def ctxBuffers (r : Record) (op : Op) (i : Inst) : Nat :=
  if op.op = 5 then 0 else instSlots r i + (if i.shard.isSome then r.outCount else 1)

/-- The chunk stream that a held packet is of: what names its slot buffer; none for a packet without data. -/
def heldKey (p : Packet) : Option (List Nat) :=
  match pType p with
  | 0x10 => some [0x10, pSeqLo p, field p.hdr 16 4, field p.hdr 20 2, field p.hdr 24 8, pAttempt p]
  | 0x11 => some [0x11, pSeqLo p, field p.hdr 16 4, field p.hdr 28 2, bits (field p.hdr 20 2) 15 14]
  | 0x12 | 0x13 => some [pType p, pSeqLo p, field p.hdr 20 4, field p.hdr 28 2, field p.hdr 16 2, field p.hdr 18 2]
  | _ => none

/-- The buffers of held streams that a test picks released. -/
def freeHeld (gid : Nat) (pick : List Nat → Bool) (s : State) : State :=
  match findGroup s gid with
  | none => s
  | some g =>
    forEach (g.heldBufs.filter (pick ·.1)) (fun h => releaseHolder h.2)
      (updGroup gid (fun g => { g with heldBufs := g.heldBufs.filter fun h => !pick h.1 }) s)

/-- A context opened with its buffers, in place of those of the contributions held for it; none where the reservation has not
enough left (R141, R169). -/
def openCtx (g : Group) (op : Op) (i : Inst) (c attempt : Nat) (spare : Bool) (s : State) : Option State :=
  let n := ctxBuffers g.record op i
  let s := freeHeld g.id (fun k => k.take 4 == [0x10, op.seq % 65536, c, i.node]) s
  if !hasBuffers g n s then none
  else
    let (bufs, s) := takeBuffers g n s
    let x : Ctx := { seq := op.seq, chunk := c, attempt := attempt, slots := List.replicate (instSlots g.record i) {}
                     spare := spare, bufs := bufs }
    some (countRetry g.id op.seq c attempt (updInst g.id (instKey i) (fun i => { i with ctxs := i.ctxs ++ [x] }) s))

/-- A context's buffers released to the group's reservation. -/
def freeCtxCells (gid : Nat) (k : Nat × Option Nat) (seq c : Nat) (s : State) : State :=
  match (findGroup s gid).bind (instAt · k) with
  | none => s
  | some i => match ctxAt i seq c with
    | none => s
    | some x =>
      updCtx gid k seq c (fun x => { x with bufs := [], slots := [] }) (forEach x.bufs releaseHolder s)

/-- A context closed. -/
def closeCtx (gid : Nat) (k : Nat × Option Nat) (seq c : Nat) (s : State) : State :=
  updInst gid k (fun i => { i with ctxs := i.ctxs.filter fun x => !(x.seq == seq && x.chunk == c) })
    (freeCtxCells gid k seq c s)

/-- A context's result is out: its buffers are released (step 6 of the path of a stitch) as the result takes one for its
transfer. -/
def ctxDone (gid : Nat) (k : Nat × Option Nat) (seq c : Nat) (s : State) : State :=
  updCtx gid k seq c (fun x => { x with stage := .done }) (freeCtxCells gid k seq c s)

/-- The buffer that a context's reduced value lies in until MAP or APPLY has read it: its first result buffer, or the slot that is
passed on where there is one (R82, R141). -/
def valueBuf (c : Ctx) : Nat := c.bufs.getD (if c.slots.length = 1 then 0 else c.slots.length) 0

/-- The staged value of a chunk written to its result buffer (0x21), or read from it (0x20), for MAP and APPLY; a slot that is passed
on has been counted (R148). -/
def countValue (g : Group) (k : Nat × Option Nat) (seq c code bytes : Nat) (s : State) : State :=
  match (findGroup s g.id).bind fun g => (instAt g k).bind (ctxAt · seq c) with
  | some x => if x.slots.length = 1 then s else countStaged g code (valueBuf x) 0 bytes s
  | none => s

/-! ## The needle bed -/

/-- Program slot a stitch runs. -/
def stitchProgram (r : Record) (x : Stitch) : Nat :=
  match x.kind with
  | .reduce => r.reduceSlot
  | .map => r.mapSlot
  | .apply1 | .apply2 => r.applySlot

def stitchImage (s : State) (r : Record) (x : Stitch) : Image := ((getSlot s (stitchProgram r x)).image).getD default

/-- The image that the stitch on the needle bed started with. -/
def runImage (s : State) : Image := s.bed.program.getD default

/-- A stitch dispatched (R30). -/
def dispatch (x : Stitch) (s : State) : State := { s with bed := { s.bed with queue := s.bed.queue ++ [x] } }

/-- Handshake slots of a phase per element, with output conversions after the last, and of its preamble (R126). -/
def phaseCost (img : Image) (phase outs : Nat) : Nat × Nat :=
  (sectionSlots (imgSection img phase false) + outs, sectionSlots (imgSection img phase true))

/-- Handshake slots of one element of a REDUCE of k slots, and of its preamble (R96, R126). -/
def reduceCost (img : Image) (r : Record) (k : Nat) : Nat × Nat :=
  if imgOpTy img = 0xFF then ((k - 1) * addSlots r.workFmt, 0)
  else ((k - 1) * sectionSlots (imgSection img 1 false), sectionSlots (imgSection img 1 true))

/-- Columns that the last wave of a stitch falls on: between the fewest and the most that can hold its elements. -/
def lastColumns (s : State) (r : Nat) : Nat :=
  min (min r s.columns) (max (ceilDiv r 1024) (Config.columnsUsed s.clock.now))

/-- Handshake slots of one element of a stitch, and of its preambles (R126). -/
def stitchCost (img : Image) (r : Record) (op : Op) (i : Inst) : StitchKind → Nat × Nat
  | .reduce =>
    let (c, p) := reduceCost img r (instSlots r i)
    (c + (if isRoot r i && op.op != 6 && !dMap op.desc then r.outCount else 0), p)
  | .map =>
    let (c1, p1) := phaseCost img 1 r.outCount
    let (c2, p2) := if imgPhases img = 2 then phaseCost img 2 0 else (0, 0)
    (c1 + c2, p1 + p2)
  | .apply1 => phaseCost img 1 (if imgPhases img = 2 then 0 else r.outCount)
  | .apply2 => phaseCost img 2 r.outCount

/-- The work of a stitch about to run; none where its operation is gone. -/
def stitchLoad (s : State) (g : Group) (x : Stitch) : Load :=
  match (findOp g x.seq).bind fun o => (instAt g (x.node, x.shard)).map (o, ·) with
  | none => {}
  | some (op, i) =>
    let r := g.record
    let n := chunkLen r op x.chunk
    let (cost, pre) := stitchCost (stitchImage s r x) r op i x.kind
    { elems := n, cost := cost, pre := pre, last := lastColumns s (n % (s.columns * 1024))
      dup := x.kind == .reduce && op.op == 6 && isRoot r i && op.applied.contains x.chunk }

/-- The head of the queue starts; a change of program leaves the bed idle for 256 handshakes, counted as wasted (R126). Two
slots that hold one image hold one program. TIME is that of the start, and of phase 1 for phase 2 of an APPLY (R102, R114;
log entry 91). -/
def startStitch (s : State) : State :=
  match s.bed.running, s.bed.queue with
  | none, x :: rest =>
    match findGroup s x.group with
    | none => { s with bed := { s.bed with queue := rest } }
    | some g =>
      let prog := stitchImage s g.record x
      let change := s.bed.program.isSome && s.bed.program != some prog
      let t := x.time.getD (BitVec.ofNat 64 (fabricTime s))
      let work := s.bed.work ++ (if change then [.change 256] else []) ++ [.stitch (stitchLoad s g x) 0]
      let bed : Bed := { queue := rest, running := some (x, t), work := work, program := some prog }
      updCtx x.group (x.node, x.shard) x.seq x.chunk (fun c => { c with stage := .running }) { s with bed := bed }
  | _, _ => s

def execStitchDispatch (s : State) : Host.Outcome State Fault Refusal := .next (startStitch s)

/-- The running stitch has so many handshakes to wait at the front and at the back yet, after those that ticks have passed. -/
def stallStitch (front back : Nat) (s : State) : State := { s with bed := { s.bed with work := s.bed.work ++ [.wait front back] } }

/-- The running stitch ends (R30). What it has still to execute and to wait passes in the ticks that follow (R429; log entry 4). -/
def settleStitch (front back : Nat) (s : State) : State :=
  let s := stallStitch front back s
  { s with bed := { s.bed with running := none, void := false } }

/-! ## REDUCE (R79 to R83, R101, R104) -/

/-- What a program may read besides its streams. -/
def phaseIn (g : Group) (op : Op) (time first : Nat) (hget : List Nat) : PhaseIn :=
  { params := op.params, time := time, hget := hget, seed := g.record.seed, seq := op.seq, first := first }

/-- Bytes of a slot's stream, in order. -/
def slotBytes (b : SlotBuf) : List Byte := b.parts.flatMap (·.2)

/-- The reduced chunk in the working format and its flags: the fixed tree over the slots, or the left fold in arrival
order (R82, R83). Leaves are read, partials are not; one slot is passed on. -/
def reduceChunk (img : Image) (g : Group) (op : Op) (i : Inst) (x : Ctx) (time : Nat) : List Byte × BitVec 6 :=
  let r := g.record
  let leaf := decide ((nodeAt r i.node).slotLevel = 0)
  let sp := slotSpec r op i
  let n := chunkLen r op x.chunk
  let e := chunkFirst r op x.chunk
  let inp := phaseIn g op time e [0, 0, 0, 0]
  let order := if r.arrival then x.order.map (·.1) else List.range x.slots.length
  let read := order.map fun k =>
    let bs := slotBytes (x.slots.getD k {})
    if leaf then decodeWorking sp true (dRowLen op.desc) e n bs else (rawWorking r.workFmt n bs, fNone)
  let fl := fOr (read.map (·.2)) ||| fOr (x.slots.map (·.flags))
  let vals := read.map (·.1)
  let outs := (List.range n).map fun j =>
    let row := vals.map fun v => v.getD j []
    let f := reduceOp img r.workFmt inp (e + j)
    if r.arrival then foldSlots f row else combine f row
  (packWorking r.workFmt (outs.map (·.1)), fl ||| fOr (outs.map (·.2)))

/-- A slot joins the order of those that became full, by the tick in which its last packet came and, within a tick, by index (R83; an
internal cycle is taken as a tick, log entry 92). -/
def joinOrder (slot now : Nat) : List (Nat × Nat) → List (Nat × Nat)
  | [] => [(slot, now)]
  | q :: qs => if now < q.2 ∨ (q.2 = now ∧ slot < q.1) then (slot, now) :: q :: qs else q :: joinOrder slot now qs

/-- What a stitch that runs adds to the non-determinism counter (R364): a REDUCE in arrival order, and a program that reads
TIME. The phases of an APPLY are those of one stitch (R102; log entry 91). -/
def nondetOf (r : Record) (img : Image) (k : StitchKind) : Nat :=
  match k with
  | .reduce => b2n r.arrival + b2n (imgReadsTime img)
  | .map | .apply1 => b2n (imgReadsTime img)
  | .apply2 => 0

/-- Increments of the non-determinism counter (R364). -/
def addNondet (gid seq n : Nat) (s : State) : State :=
  updOp gid seq (fun o => { o with nondet := o.nondet + n })
    (updGroup gid (fun g => { g with nondet := g.nondet + BitVec.ofNat 64 n }) s)

/-! ## APPLY (R118 to R124, R184) -/

/-- A part of a chunk that lies in one span: the span's number (the chunk's, where the shard names none), the first
element, the elements, and the span's first and last chunk (R122, R123). -/
structure Piece where
  key   : Nat
  first : Nat
  len   : Nat
  lo    : Nat
  hi    : Nat

/-- The pieces of a chunk. -/
def piecesOf (r : Record) (op : Op) (c : Nat) : List Piece :=
  let e := chunkFirst r op c
  let n := chunkLen r op c
  let k := entryOf r (rootShard r op c)
  let ce := max 1 (dChunk op.desc)
  if k.spanCount = 0 then [{ key := c, first := e, len := n, lo := c, hi := c }]
  else
    (List.range k.spanCount).filterMap fun j =>
      let p := r.spans.getD (k.firstSpan + j) default
      let a := max e p.base
      let b := min (e + n) (p.base + p.count)
      if a < b then
        some { key := k.firstSpan + j, first := a, len := b - a, lo := p.base / ce, hi := (p.base + p.count - 1) / ce }
      else none

/-- The accumulators of a span, fresh where nothing has reached them. -/
def spanAccOf (op : Op) (k phase : Nat) (p : Piece) : SpanAcc :=
  (op.spanAccs.find? fun a => a.shard == k && a.span == p.key && a.phase == phase).getD
    { shard := k, span := p.key, phase := phase, next := p.lo, last := p.hi }

def setSpanAcc (a : SpanAcc) (op : Op) : Op :=
  { op with spanAccs := op.spanAccs.filter (fun b => !(b.shard == a.shard && b.span == a.span && b.phase == a.phase)) ++ [a] }

/-- Block results added in ascending chunk order as far as they are there; the flags each chunk's adds call for. The
fuel is the number of chunks kept. -/
def runSpanAcc (img : Image) : Nat → SpanAcc → List (Nat × BitVec 6) → SpanAcc × List (Nat × BitVec 6)
  | 0, a, fs => (a, fs)
  | m + 1, a, fs =>
    match a.kept.find? (·.1 == a.next) with
    | none => (a, fs)
    | some (c, blocks) =>
      let rs := (List.range 4).map fun j => accAdd (accIsMax img j) (a.acc.getD j none) (blocks.getD j [])
      runSpanAcc img m { a with next := a.next + 1, kept := a.kept.filter (·.1 != c), acc := rs.map (·.1) }
        (fs ++ [(c, fOr (rs.map (·.2)))])

/-- A chunk's block results of a phase handed to its span (R123). -/
def giveBlocks (img : Image) (k c phase : Nat) (p : Piece) (blocks : List (List Nat)) (op : Op) : Op :=
  let a := spanAccOf op k phase p
  if c < a.next ∨ a.kept.any (·.1 == c) then op
  else
    let a := { a with kept := a.kept ++ [(c, blocks)] }
    let (a, fs) := runSpanAcc img a.kept.length a []
    let op := setSpanAcc a op
    { op with heldChunks := op.heldChunks.map fun h =>
        { h with flags := fs.foldl (fun f q => if q.1 = h.chunk then f ||| q.2 else f) h.flags } }

/-- Stored values of the streams a phase reads for a whole chunk: stream, strict bit, values; and the flags of reading
those it loads (R119). A NaN or ∞ of a scratch stream in `own`, which the stitch's phase 1 stored, does not come from outside
the operation (R49, R50, R125). -/
def applyStreams (s : State) (g : Group) (op : Op) (sh : Shard) (c : Nat) (grad : List Byte) (loads own : List Nat) :
    List (Nat × Bool × List Val) × BitVec 6 :=
  let r := g.record
  let n := chunkLen r op c
  let one (k : Nat) : (Nat × Bool × List Val) × BitVec 6 :=
    if k = 0 then
      let sp := Spec.ofNat r.workFmt
      let (v, f) := decodeStream sp false (dRowLen op.desc) (chunkFirst r op c) n grad
      ((0, sp.strict, v), f)
    else
      let x := if k ≤ 3 then k - 1 else k
      let sp := Spec.ofNat (arrayFmt r x)
      let (v, f) := decodeStream sp (!own.contains k) 0 0 n (chunkState s g sh x sh.gen op c)
      ((k, sp.strict, v), f)
  let l := (loads.eraseDups).map one
  (l.map (·.1), fOr (l.map (·.2)))

/-- A phase run over a chunk, piece by piece (R102, R122): values by stream, block results by piece, flags. -/
def applyPhase (s : State) (g : Group) (op : Op) (sh : Shard) (c phase time : Nat) (grad : List Byte) (img : Image) :
    List (Nat × List Val) × List (Piece × List (List Nat)) × BitVec 6 :=
  let body := imgSection img phase false
  let own := if phase = 2 then streamsOf 0x11 (imgSection img 1 false) else []
  let (ins, f0) := applyStreams s g op sh c grad (streamsOf 0x10 body) own
  let e := chunkFirst g.record op c
  let ps := piecesOf g.record op c
  let outs := ps.map fun p =>
    let part := ins.map fun q => (q.1, q.2.1, (q.2.2.drop (p.first - e)).take p.len)
    let a := spanAccOf op sh.index 1 p
    let hget := if phase = 2 then (List.range 4).map fun j => accFinal (accIsMax img j) (a.acc.getD j none)
      else [0, 0, 0, 0]
    (p, runPhase img phase (phaseIn g op time p.first hget) p.len part)
  let streams := (streamsOf 0x11 body).eraseDups
  (streams.map fun k => (k, outs.flatMap fun o => ((o.2.outs.find? (·.1 == k)).map (·.2)).getD []),
   outs.map fun o => (o.1, o.2.blocks), f0 ||| fOr (outs.map fun o => o.2.flags))

/-- The array and set that a stream written by an APPLY is bound to (Table 6.7). -/
def storeSet (sh : Shard) (k : Nat) : Nat × Bool := if 8 ≤ k then (k - 8, !sh.gen) else (k, false)

/-- Protected hanks that a chunk's stores would write (R189). -/
def applyBlocked (s : State) (g : Group) (op : Op) (sh : Shard) (c : Nat) (streams : List Nat) : List Nat :=
  let r := g.record
  let rel := chunkFirst r op c - (entryOf r sh.index).base
  (streams.flatMap fun k =>
    let (x, set) := storeSet sh k
    runHanks (arraySet sh x set) (elemOff (arrayFmt r x) rel) (arrayLen (arrayFmt r x) (chunkLen r op c))).filter
    (isProtected s)

/-- One stream's values stored (R120); the state, and the flags of the conversion. -/
def storeStream (g : Group) (op : Op) (sh : Shard) (c : Nat) (q : Nat × List Val) (s : State) : State × BitVec 6 :=
  let r := g.record
  let (x, set) := storeSet sh q.1
  let f := arrayFmt r x
  let sp := Spec.ofNat f
  let e := chunkFirst r op c
  let d : Draw := { sto := sp.sto, seed := r.seed, seq := op.seq, site := 4 + q.1, stream := 0 }
  let (bs, fl) := encodeStream sp d false 0 e q.2
  (guardedWrite 0 (arraySet sh x set) (elemOff f (e - (entryOf r sh.index).base)) bs s, fl)

/-- Phase M of a chunk started (R331); skipped when the shard runs solo (R332). -/
def startMirror (g : Group) (op : Op) (sh : Shard) (c : Nat) (s : State) : State :=
  let r := g.record
  let rel := chunkFirst r op c - (entryOf r sh.index).base
  let s := if runsSolo s g || sh.solo then s
    else forEach (presentArrays r) (fun x s =>
      let f := arrayFmt r x
      let o := elemOff f rel / 256
      let n := ceilDiv (arrayLen f (chunkLen r op c)) 256
      sendMirror g.id sh.index x false (!sh.gen) o n (.mirror g.id op.seq c) s) s
  updOp g.id op.seq (fun o => { o with mirrored := o.mirrored ++ [c] }) s

/-- A root instance's chunk is complete once its results are acknowledged (R146, R155). -/
def rootCheck (gid : Nat) (k : Nat × Option Nat) (seq c : Nat) (s : State) : State :=
  match findGroup s gid with
  | none => s
  | some g => match instAt g k, findOp g seq with
    | some i, some op =>
      if isRoot g.record i && downSent g.record op i c &&
          !(g.transfers.any fun t => t.node == k.1 && t.shard == k.2 && t.seq == seq && t.chunk == c && t.dir == 1) &&
          (match ctxAt i seq c with | some x => x.stage == .done | none => true) then
        markDone gid k op c (closeCtx gid k seq c s)
      else s
    | _, _ => s

/-- Phases M, X and D of a chunk just applied (Table 5.9). -/
def finishApply (gid : Nat) (k : Nat × Option Nat) (seq c : Nat) (fl : BitVec 6) (s : State) : State :=
  match findGroup s gid with
  | none => s
  | some g => match findOp g seq with
    | none => s
    | some op => match g.shards.find? fun sh => some sh.index == k.2 with
      | none => s
      | some sh =>
        let s := updOp gid seq (fun o => { o with applied := o.applied ++ [c], chunkFlags := tset 0 o.chunkFlags c fl }) s
        let s := startMirror g op sh c s
        let s := sendWeights gid seq false c (fun sh => !sh.gen) [] fl s
        rootCheck gid k seq c (ctxDone gid k seq c s)

/-- A phase's body feeds an accumulator. -/
def feedsAcc (img : Image) (phase : Nat) : Bool :=
  (imgSection img phase false).any fun w => wOp w == 0x12 || wOp w == 0x13 || wOp w == 0x14

/-- Chunks whose phase is complete go on (R123, R124): to phase 2 where every chunk of their spans has passed phase 1 of
two, and to their results where it was the last and their own block results have been added. Phase 2 is dispatched by itself,
since a stitch, once started, runs to completion (R30) and phase 2 waits for other chunks (DEDUCED, log entry 91). -/
def releaseHeld (gid : Nat) (k : Nat × Option Nat) (seq : Nat) (img : Image) (s : State) : State :=
  match (findGroup s gid).bind (fun g => (findOp g seq).map fun o => (g, o)) with
  | none => s
  | some (g, op) =>
    let ready (h : HeldChunk) : Bool := (piecesOf g.record op h.chunk).all fun p =>
      let a := spanAccOf op (k.2.getD 0) h.phase p
      decide (if h.phase < imgPhases img then a.last < a.next else h.chunk < a.next)
    let go := op.heldChunks.filter ready
    let s := updOp gid seq (fun o => { o with heldChunks := o.heldChunks.filter (!ready ·) }) s
    forEach go (fun h s =>
      if h.phase < imgPhases img then
        dispatch { kind := .apply2, group := gid, node := k.1, shard := k.2, seq := seq, chunk := h.chunk, attempt := 0
                   input := h.input, flags := h.flags, time := some h.time } s
      else finishApply gid k seq h.chunk h.flags s) s

/-- An APPLY stitch ends (one of two phases with its second, in STITCH of Table 15.3 as well: log entry 91), unless a protected hank's copy must be made first. -/
def endApply (g : Group) (op : Op) (sh : Shard) (x : Stitch) (time front back : Nat) (s : State) : State :=
  let r := g.record
  let img := runImage s
  let phase := if x.kind = .apply2 then 2 else 1
  let streams := (streamsOf 0x11 (imgSection img phase false)).eraseDups
  let wait := applyBlocked s g op sh x.chunk streams
  if !wait.isEmpty then
    let skein := { s.skein with copying := (s.skein.copying ++ wait).eraseDups }
    stallStitch front back { s with skein := skein }
  else
    let (outs, blocks, fl) := applyPhase s g op sh x.chunk phase time x.input img
    let loads := (streamsOf 0x10 (imgSection img phase false)).eraseDups
    let s := forEach (loads.filter (· != 0)) (fun k =>
      countChunkRead g sh (if k ≤ 3 then k - 1 else k) sh.gen op x.chunk) s
    let (s, fl) := outs.foldl (fun (a : State × BitVec 6) q =>
      let (s, f) := storeStream g op sh x.chunk q a.1
      (s, a.2 ||| f)) (s, x.flags ||| fl)
    let s := settleStitch front back s
    let s := if phase = 1 then countValue g (x.node, x.shard) op.seq x.chunk 0x20 x.input.length s else s
    let s := if phase = imgPhases img then count { code := 0x10 } 1 s else s
    let s := addNondet g.id op.seq (nondetOf r img x.kind) s
    let k := (x.node, x.shard)
    if phase = imgPhases img ∧ !feedsAcc img phase then finishApply g.id k op.seq x.chunk fl s
    else
      let h : HeldChunk := { chunk := x.chunk, phase := phase, input := x.input, flags := fl, time := BitVec.ofNat 64 time }
      let s := updOp g.id op.seq (fun o =>
        blocks.foldl (fun o b => giveBlocks img sh.index x.chunk phase b.1 b.2 o)
          { o with heldChunks := o.heldChunks ++ [h] }) s
      releaseHeld g.id k op.seq img s

/-! ## What follows from a reduced chunk (R149, R154) -/

/-- An APPLY stitch of a chunk is on the needle bed or in its queue. -/
def applyQueued (s : State) (gid seq c : Nat) : Bool :=
  let is (x : Stitch) : Bool := x.group == gid && x.seq == seq && x.chunk == c && (x.kind == .apply1 || x.kind == .apply2)
  s.bed.queue.any is || (liveStitch s).any is

/-- The value of a chunk at an instance goes up, or to MAP, APPLY or phase X at a root. -/
def afterReduce (g : Group) (op : Op) (i : Inst) (c attempt : Nat) (fl : BitVec 6) (bs : List Byte) (s : State) : State :=
  let k := instKey i
  let x : Stitch := { kind := .map, group := g.id, node := i.node, shard := i.shard, seq := op.seq, chunk := c
                      attempt := attempt, input := bs, flags := fl }
  if !isRoot g.record i then sendUp g op i c attempt fl bs none (ctxDone g.id k op.seq c s)
  else if op.op = 6 then
    if op.applied.contains c then
      let gen := op.committed == some true
      rootCheck g.id k op.seq c
        (sendWeights g.id op.seq false c (fun sh => if gen then sh.gen else !sh.gen) [0] (fl ||| tget 0 op.chunkFlags c)
          (ctxDone g.id k op.seq c s))
    else if op.heldChunks.any (·.chunk == c) || applyQueued s g.id op.seq c then s
    else
      dispatch { x with kind := .apply1 } (updShard g.id (k.2.getD 0) (fun sh => { sh with begun := max sh.begun (dStep op.desc) })
        (countValue g k op.seq c 0x21 bs.length s))
  else if dMap op.desc then dispatch x (countValue g k op.seq c 0x21 bs.length s)
  else
    rootCheck g.id k op.seq c (phaseX g op i c (Spec.ofNat g.record.workFmt) true fl bs (ctxDone g.id k op.seq c s))

/-- A MAP's result on a chunk in the format it came in, and flags (R101; its streams are log entry 18). -/
def mapChunk (g : Group) (op : Op) (c time : Nat) (img : Image) (bs : List Byte) : List Byte × BitVec 6 :=
  let r := g.record
  let own := isReducing op.op
  let sp := if own then Spec.ofNat r.workFmt else inSpec op
  let n := chunkLen r op c
  let e := chunkFirst r op c
  let first := chunkLogical r op c
  let (vs, f0) := decodeStream sp (!own) (dRowLen op.desc) e n bs
  let ins := [(0, sp.strict, vs)]
  let p1 := runPhase img 1 (phaseIn g op time first [0, 0, 0, 0]) n ins
  let accs := (List.range 4).map fun j => accAdd (accIsMax img j) none (p1.blocks.getD j [])
  let hget := (List.range 4).map fun j => accFinal (accIsMax img j) ((accs.getD j (none, fNone)).1)
  let p2 := if imgPhases img = 2 then some (runPhase img 2 (phaseIn g op time first hget) n ins) else none
  let vals := match p2.bind fun p => (p.outs.find? (·.1 == 8)).map (·.2) with
    | some v => v
    | none => ((p1.outs.find? (·.1 == 8)).map (·.2)).getD []
  let d : Draw := { sto := sp.sto, seed := r.seed, seq := op.seq, site := 12, stream := 0 }
  let (o, f1) := encodeStream sp d false (dRowLen op.desc) first vals
  let f2 := match p2 with
    | some p => p.flags
    | none => fNone
  (o, f0 ||| p1.flags ||| fOr (accs.map (·.2)) ||| f2 ||| f1)

/-- The staged slots of a context, read once by its REDUCE (R148). -/
def readSlots (g : Group) (c : Ctx) (s : State) : State :=
  forEach (List.range c.slots.length) (fun k =>
    countStaged g 0x20 (c.bufs.getD k 0) 0 (slotBytes (c.slots.getD k {})).length) s

/-- A REDUCE stitch ends. -/
def endReduce (g : Group) (op : Op) (i : Inst) (c : Ctx) (time front back : Nat) (s : State) : State :=
  let r := g.record
  let img := runImage s
  let (bs, fl) := reduceChunk img g op i c time
  let s := count { code := 0x10 } 1 (readSlots g c (settleStitch front back s))
  let s := addNondet g.id op.seq (nondetOf r img .reduce) s
  afterReduce g op i c.chunk c.attempt fl bs s

/-- A MAP stitch ends. -/
def endMap (g : Group) (op : Op) (i : Inst) (x : Stitch) (time front back : Nat) (s : State) : State :=
  let r := g.record
  let img := runImage s
  let (bs, fl) := mapChunk g op x.chunk time img x.input
  let s := count { code := 0x10 } 1 (settleStitch front back s)
  let s := addNondet g.id op.seq (nondetOf r img .map) s
  let sp := if isReducing op.op then Spec.ofNat r.workFmt else inSpec op
  let k := instKey i
  let s := if isReducing op.op then countValue g k op.seq x.chunk 0x20 x.input.length s else s
  let s := phaseX g op i x.chunk sp true (x.flags ||| fl) bs (ctxDone g.id k op.seq x.chunk s)
  rootCheck g.id k op.seq x.chunk (match x.buf with
    | some b => releaseHolder b s
    | none => s)

/-- The staged value that a MAP or an APPLY works on lies in part in a hank that is RETIRED: a forwarded chunk's buffer, or the
buffer of its context's value. -/
def inputLost (s : State) (g : Group) (x : Stitch) : Bool :=
  match x.buf, (instAt g (x.node, x.shard)).bind (ctxAt · x.seq x.chunk) with
  | some b, _ => bufferLost s g b x.input.length
  | none, some c => bufferLost s g (valueBuf c) x.input.length
  | none, none => false

/-- A stitch reads a staging hank that had an uncorrectable error, and is RETIRED (R35, R179): a slot of its context lies there, the
value it works on, or a part of a scratch array that its program loads. -/
def readsLost (s : State) (g : Group) (op : Op) (x : Stitch) : Bool :=
  let r := g.record
  match x.kind with
  | .reduce => match (instAt g (x.node, x.shard)).bind (ctxAt · x.seq x.chunk) with
    | some c => c.attempt == x.attempt && (List.range c.slots.length).any fun k =>
        bufferLost s g (c.bufs.getD k 0) (slotBytes (c.slots.getD k {})).length
    | none => false
  | .map => inputLost s g x
  | .apply1 | .apply2 =>
    let loads := streamsOf 0x10 (imgSection (runImage s) (if x.kind = .apply2 then 2 else 1) false)
    (loads.contains 0 && inputLost s g x) || (match g.shards.find? fun sh => some sh.index == x.shard with
      | none => false
      | some sh =>
        let rel := chunkFirst r op x.chunk - (entryOf r sh.index).base
        (loads.filter (4 ≤ ·)).any fun k =>
          (runHanks (arraySet sh k false) (elemOff 0 rel) (arrayLen 0 (chunkLen r op x.chunk))).any
            fun h => hankState s h == .retired)

/-- A stitch whose chunk is no longer wanted runs to completion without effect (R30), and is counted as one that ran
(R364). -/
def endVoid (front back : Nat) (x : Stitch) (s : State) : State :=
  let t := settleStitch front back s
  match findGroup s x.group with
  | none => t
  | some g => if s.bed.void then t else addNondet g.id x.seq (nondetOf g.record (runImage s) x.kind) t

/-- The running stitch ends with the handshakes it waited at the front and at the back. -/
def endStitch (front back : Nat) (s : State) : State :=
  match s.bed.running with
  | none => s
  | some (x, t) =>
    match if s.bed.void then none else
      (findGroup s x.group).bind fun g => (findOp g x.seq).bind fun o => (instAt g (x.node, x.shard)).map (g, o, ·) with
    | none => endVoid front back x s
    | some (g, op, i) =>
      match x.kind with
      | .reduce => match ctxAt i x.seq x.chunk with
        | some c => if c.stage = .running ∧ c.attempt = x.attempt then endReduce g op i c t.toNat front back s
          else endVoid front back x s
        | none => endVoid front back x s
      | .map => endMap g op i x t.toNat front back s
      | .apply1 | .apply2 => match g.shards.find? fun sh => some sh.index == x.shard with
        | some sh => if sh.lost then endVoid front back x s else endApply g op sh x t.toNat front back s
        | none => endVoid front back x s

/-- A context whose slots are all full is dispatched; one slot, or a barrier, does not occupy the needle bed (R82). -/
def fillCheck (gid : Nat) (k : Nat × Option Nat) (seq c : Nat) (s : State) : State :=
  match (findGroup s gid).bind fun g => (findOp g seq).bind fun o => (instAt g k).map (g, o, ·) with
  | none => s
  | some (g, op, i) => match ctxAt i seq c with
    | none => s
    | some x =>
      if x.stage ≠ .filling ∨ !(x.slots.all (·.full)) then s
      else if op.op = 5 then
        if isRoot g.record i then
          let s := sendDown g op i 0 0 fNone [] none (ctxDone gid k seq c s)
          markDone gid k op 0 (closeCtx gid k seq c s)
        else sendUp g op i 0 x.attempt fNone [] none (ctxDone gid k seq c s)
      else if x.slots.length = 1 then
        let (bs, fl) := reduceChunk (stitchImage s g.record { kind := .reduce, group := gid, node := k.1, seq := seq, chunk := c, attempt := 0 }) g op i x 0
        afterReduce g op i c x.attempt fl bs (updCtx gid k seq c (fun x => { x with stage := .queued }) (readSlots g x s))
      else
        dispatch { kind := .reduce, group := gid, node := k.1, shard := k.2, seq := seq, chunk := c, attempt := x.attempt }
          (updCtx gid k seq c (fun x => { x with stage := .queued }) s)

end Sys2Proof.Machine
end

