-- ==== Sys2Proof/Machine/Collectives.lean ====
section
/-!
DEFINITION. Collective packets at a node instance (R146, R151 to R153, R158 to R163, R223 to R232), dropped stitches and
retries (R160, R161), and the settling of a group after every change: completions, queued commands, pauses.
-/
namespace Sys2Proof.Machine

/-! ## Packets held and dropped -/

/-- The port a delivered packet came by; this module's own number where it is not in the inbox. -/
def inPortOf (p : Packet) (s : State) : Nat := match s.routing.inbox.find? (·.pkt == p) with
  | some q => min q.inPort 128
  | none => 128

/-- A duplicate discarded (R159, DUPLICATE of Table 15.3). -/
def dupDrop (port : Nat) (p : Packet) (s : State) : State :=
  drop port 15 (count { code := 0x0D, port := some port, src := srcAttr p, sub := sublane p } 1 s)

/-- A malformed collective packet dropped, counted at its port as well (R236, Table 15.10). -/
def malDrop (port : Nat) (p : Packet) (s : State) : State :=
  let s := if port < 128 then updPort port (fun q => { q with counts := { q.counts with dropped := q.counts.dropped + 1 } }) s
    else s
  drop port 7 (count { code := 0x06, port := some port, src := srcAttr p, sub := sublane p } 1 s)

/-- A packet for a group that is not active here dropped (R140, R236). -/
def inactiveDrop (port : Nat) (s : State) : State := drop port 9 s

/-- The part of a header that names a collective packet: everything but `lane` and, in a data packet, `inj_time`. -/
def headKey (h : BitVec 512) : Nat :=
  let h := setField h 1 1 0
  field (if field h 0 1 < 0x40 then setField h 8 3 0 else h) 0 32

/-- Where a packet of COLL_UP or COLL_DOWN lies in its stream, in units. -/
def heldOff (p : Packet) : Nat :=
  if pType p = 0x10 then bits (field p.hdr 22 2) 13 0 else bits (field p.hdr 20 2) 13 0

/-- A packet repeats one that is held, or covers a unit of its stream that one covers (R159, R224). What all-to-all packets cover is
known only with the count matrix, and told then. -/
def heldAlready (g : Group) (p : Packet) : Bool :=
  g.held.any fun q => headKey q.2.hdr == headKey p.hdr ||
    ((pType p == 0x10 || pType p == 0x11) && heldKey q.2 == heldKey p &&
      decide (heldOff q.2 < heldOff p + pUnits p ∧ heldOff p < heldOff q.2 + pUnits q.2))

/-- A packet kept in a slot buffer, for an operation not posted or a chunk that may not open yet (R158, R163). The first of a
chunk stream takes the buffer from the group's reservation (R168); where none is left the stream waits as it came (log entry
93). One that is held already is a duplicate (R159). -/
def hold (gid : Nat) (v : Via) (p : Packet) (s : State) : State :=
  match findGroup s gid with
  | none => s
  | some g =>
    if heldAlready g p then dupDrop v.port p s
    else
      let s := match heldKey p with
        | none => s
        | some k =>
          if g.heldBufs.any (·.1 == k) || !hasBuffers g 1 s then s
          else
            let (b, s) := takeBuffer g 1 s
            updGroup gid (fun g => { g with heldBufs := g.heldBufs ++ [(k, b)] }) s
      updGroup gid (fun g => { g with held := g.held ++ [(v, p)] }) s

/-- The group a collective packet names, where it runs here. -/
def liveGroup (s : State) (gid : Nat) : Option Group :=
  match findGroup s gid with
  | some g => if g.phase = .active ∨ g.phase = .binding then some g else none
  | none => none

/-- What `seq_lo` names: an operation in progress, one not posted yet, or one that has completed here. -/
inductive Named where
  | now (op : Op)
  | later
  | past
  deriving DecidableEq, Repr

def nameOp (g : Group) (lo : Nat) : Named :=
  match g.ops.find? fun o => o.resend.isNone && o.seq % 65536 == lo with
  | some o => .now o
  | none => if seqLt (expandSeq g.nextSeq lo) g.nextSeq then .past else .later

/-! ## Slot buffers (R159, R224) -/

/-- An operation that has completed here taken up again, for a chunk attempt of it that drops elsewhere (R160). -/
def reopenOp (gid lo : Nat) (s : State) : State :=
  updGroup gid (fun g => match g.past.reverse.find? (·.seq % 65536 == lo) with
    | none => g
    | some o =>
      let op : Op := { seq := o.seq, op := dOp o.desc, desc := o.desc, params := o.params, tok := default, again := true
                       chunks := o.chunks }
      { g with ops := g.ops ++ [op], insts := g.insts.map fun i => { i with
          aborted := i.aborted ++ (o.aborted.filter (·.1 == instKey i)).map (·.2) } }) s

/-- The state with the operation that `seq_lo` names in progress, where it has completed here before. -/
def nameAgain (g : Group) (lo : Nat) (s : State) : State × Named :=
  match nameOp g lo with
  | .past =>
    let s := reopenOp g.id lo s
    (s, match findGroup s g.id with
      | some g => nameOp g lo
      | none => .past)
  | n => (s, n)

/-- Units [off, off + n) meet a packet recorded. -/
def meets (b : SlotBuf) (off n : Nat) : Bool :=
  b.parts.any fun q => decide (q.1 < off + n ∧ off < q.1 + q.2.length / 256)

/-- A packet recorded; `total` is the units of the stream. -/
def record (b : SlotBuf) (off total : Nat) (p : Packet) : SlotBuf :=
  let parts := tins off p.payload b.parts
  { parts := parts, flags := b.flags ||| pAflags p
    full := decide (total ≤ (parts.map fun q => q.2.length / 256).sum) }

/-- Bytes of a chunk stream without its fill. -/
def streamOf (b : SlotBuf) (n : Nat) : List Byte := (slotBytes b).take n

/-! ## TACK, CHUNK_ABORT (R160, R227) -/

def sendTack (dst gid dir fmt attempt node lo c slot src dstRank : Nat) (s : State) : State :=
  sendCtl (ctlPacket 0x49 0 dst (me s) [(8, 3, gid), (11, 1, dir + 4 * fmt + 16 * attempt), (12, 2, node), (14, 2, lo),
    (16, 4, c), (20, 1, slot), (22, 2, src), (24, 2, dstRank)]) s

/-- CHUNK_ABORT sent to the neighbours of an instance but the one it came from (R160). `root` names the modules of a
parent that stands at several. -/
def sendAborts (gid : Nat) (i : Inst) (lo c a : Nat) (skip : Option Nat) (root : List Nat) (s : State) : State :=
  match findGroup s gid with
  | none => s
  | some g =>
    let r := g.record
    let up := match parentOf r i.node with
      | some (p, _) => if skip = some p then [] else
        (if (nodeAt r p).moduleId = 0xFFFF then root else [(nodeAt r p).moduleId]).map modAddr
      | none => []
    let down := (List.range (instSlots r i)).filterMap fun k => match childOf r (nodeAt r i.node) k with
      | some c => if skip = some c then none else slotSource r i k
      | none => slotSource r i k
    forEach (up ++ down) (fun d s =>
      sendCtl (ctlPacket 0x4A 0 d (me s) [(8, 3, gid), (11, 1, a), (12, 2, i.node), (14, 2, lo), (16, 4, c)]) s) s

/-! ## Permanent failures (R161) -/

/-- Chunks that can no longer pass: the chunk, and at its owner every chunk that shares a span with it where the program
adds over spans or has two phases (DEDUCED, log entry 20). -/
def failSet (s : State) (g : Group) (op : Op) (c : Nat) : List Nat :=
  let img := ((getSlot s g.record.applySlot).image).getD default
  if isStep op && (heldShards g true).any (·.index == rootShard g.record op c) && !op.applied.contains c &&
      (imgPhases img == 2 || imgHacc img != 0) then
    ((piecesOf g.record op c).flatMap fun p => (List.range (p.hi + 1 - p.lo)).map (p.lo + ·)).filter fun x =>
      !op.applied.contains x
  else [c]

/-- A chunk counted as failed permanently (R161), with those that its spans hold back. -/
def failChunk (gid seq c : Nat) (s : State) : State :=
  match (findGroup s gid).bind fun g => (findOp g seq).map fun o => (g, o) with
  | none => s
  | some (g, op) =>
    let new := (c :: failSet s g op c).eraseDups.filter fun x =>
      !op.failed.contains x && (x == c || !op.complete.contains x)
    let gone (x : Stitch) : Bool := x.group == gid && x.seq == seq && x.kind == .apply2 && new.contains x.chunk
    let s := updOp gid seq (fun o => { o with
      failed := o.failed ++ new, heldChunks := o.heldChunks.filter fun h => !new.contains h.chunk }) s
    { s with bed := { s.bed with queue := s.bed.queue.filter (!gone ·) } }

/-! ## Spare contexts and retries (R160, R375) -/

/-- The spare context takes up the lowest pending retry, when it is free and the group is not paused. -/
def startRetry (gid : Nat) (k : Nat × Option Nat) (s : State) : State :=
  match findGroup s gid with
  | none => s
  | some g => match instAt g k with
    | none => s
    | some i =>
      if g.pause ≠ .running ∨ i.ctxs.any (·.spare) then s
      else
        let best := i.retries.foldl (fun (b : Option (Nat × Nat × Nat)) q => match b with
          | none => some q
          | some x => if chunkLt (q.1, q.2.1) (x.1, x.2.1) then some q else b) none
        match best.bind fun q => (findOp g q.1).map (·, q.2) with
        | none => s
        | some (op, c, a) =>
          (openCtx g op i c a true
            (updInst gid k (fun i => { i with retries := i.retries.erase (op.seq, c, a) }) s)).getD s

/-- Every instance's spare context takes up a retry that waits. -/
def startRetries (gid : Nat) (s : State) : State :=
  match findGroup s gid with
  | none => s
  | some g => forEach (g.insts.filter fun i => !i.retries.isEmpty) (fun i => startRetry gid (instKey i)) s

/-- An instance treats an attempt as dropped (R160, R161): its context and what it has sent up of it are discarded; it
prepares the next attempt, or the chunk has failed. A BARRIER's next arrivals open a context as the first did. `drop`: it is
this instance whose dwell limit passed. Of an operation completed here, only a chunk with nothing to come down can be made
again: its results have come down otherwise. -/
def abortAttempt (gid : Nat) (k : Nat × Option Nat) (op : Op) (c a : Nat) (drop : Bool) (s : State) : State :=
  match findGroup s gid with
  | none => s
  | some g => match instAt g k with
    | none => s
    | some i =>
      let s := updInst gid k (fun i => { i with aborted := i.aborted ++ [(op.seq, c, a)] }) s
      let s := match ctxAt i op.seq c with
        | some x => if x.attempt ≤ a then
            let gone (y : Stitch) : Bool := y.kind == .reduce && y.group == gid && (y.node, y.shard) == k && y.seq == op.seq &&
              y.chunk == c && y.attempt == x.attempt
            closeCtx gid k op.seq c { s with bed := { s.bed with queue := s.bed.queue.filter (!gone ·) } }
          else s
        | none => s
      let s := forEach (g.transfers.filter fun t => t.dir == 0 && (t.node, t.shard) == k && t.seq == op.seq &&
        t.chunk == c && decide (t.attempt ≤ a)) (dropTransfer gid) s
      let below := instDone op i c
      if g.record.retryLimit < a + 1 then
        markDone gid k op c (failChunk gid op.seq c (updInst gid k (fun i => { i with
          retries := i.retries.filter fun q => !(q.1 == op.seq && q.2.1 == c) }) s))
      else if op.op = 5 then
        if op.again then s
        else updInst gid k (fun i => { i with passed := i.passed.filter (· != (op.seq, c)) }) s
      else if isReducing op.op ∧ (below ∨ drop) ∧ (!op.again ∨ (instNeeds g.record op i c).isEmpty) then
        let s := markDone gid k op c (updInst gid k (fun i => { i with
          retries := (i.retries.filter fun q => !(q.1 == op.seq && q.2.1 == c)) ++ [(op.seq, c, a + 1)] }) s)
        startRetry gid k s
      else s

/-- CHUNK_ABORT (c, a) taken by an instance once, and passed on (R160). -/
def takeAbort (gid : Nat) (k : Nat × Option Nat) (op : Op) (c a : Nat) (skip : Option Nat) (drop : Bool) (s : State) : State :=
  match (findGroup s gid).bind fun g => (instAt g k).map fun i => (g, i) with
  | none => s
  | some (g, i) =>
    if i.aborted.contains (op.seq, c, a) then s
    else
      let s := sendAborts gid i (op.seq % 65536) c a skip [(entryOf g.record (rootShard g.record op c)).owner] s
      abortAttempt gid k op c a drop s

/-- The effect on this module's contexts of a CHUNK_ABORT that has been forwarded already (R160). -/
def applyAbort (gid : Nat) (k : Nat × Option Nat) (op : Op) (c a : Nat) (s : State) : State :=
  match (findGroup s gid).bind fun g => instAt g k with
  | some i => if i.aborted.contains (op.seq, c, a) then s else abortAttempt gid k op c a false s
  | none => s

/-- Instances here next to a node in the pattern, with work on a chunk. -/
def nextTo (g : Group) (op : Op) (node c : Nat) : List Inst :=
  g.insts.filter fun i =>
    hasWork g.record op i c && (((parentOf g.record i.node).map (·.1)) == some node ||
      ((parentOf g.record node).map (·.1)) == some i.node)

/-- CHUNK_ABORT received. -/
def recvAbort (v : Via) (p : Packet) (s : State) : State :=
  let gid := field p.hdr 8 3
  let a := bits (field p.hdr 11 1) 3 0
  let node := field p.hdr 12 2
  let lo := field p.hdr 14 2
  let c := field p.hdr 16 4
  match liveGroup s gid with
  | none => inactiveDrop v.port s
  | some g => match nameAgain g lo s with
    | (s, .past) => s
    | (s, .now op) => forEach (nextTo g op node c) (fun i s => takeAbort gid (instKey i) op c a (some node) false s) s
    | (s, .later) =>
      let same (q : Packet) : Bool := field q.hdr 8 12 == field p.hdr 8 12
      if g.earlyAborts.any same then s
      else
        let near := g.insts.filter fun i => ((parentOf g.record i.node).map (·.1)) == some node ||
          ((parentOf g.record node).map (·.1)) == some i.node
        let owners := (g.record.shards.map (·.owner)).eraseDups
        forEach near (fun i s => sendAborts gid i lo c a (some node) owners s)
          (updGroup gid (fun g => { g with earlyAborts := g.earlyAborts ++ [p] }) s)

/-- A CHUNK_ABORT that came before its operation was posted takes effect (R160). -/
def laterAbort (p : Packet) (s : State) : State :=
  let gid := field p.hdr 8 3
  let c := field p.hdr 16 4
  match findGroup s gid with
  | none => s
  | some g => match nameOp g (field p.hdr 14 2) with
    | .now op => forEach (nextTo g op (field p.hdr 12 2) c) (fun i =>
        applyAbort gid (instKey i) op c (bits (field p.hdr 11 1) 3 0)) s
    | _ => s

/-! ## Contributions to a reducing operation, and arrivals (R146, R158, R159) -/

/-- Slot named by a contributor bitmap of exactly one bit below n (R222, Table 7.13). -/
def contribSlot (v n : Nat) : Option Nat := (List.range n).find? fun k => v == 2 ^ k

/-- A context whose slots may be full is dispatched. A one-slot stitch whose slot lies in a staging hank with an
uncorrectable error is dropped (R35); a longer one is dropped when it has read its slots. -/
def fillOrDrop (gid : Nat) (k : Nat × Option Nat) (op : Op) (c slot : Nat) (s : State) : State :=
  match (findGroup s gid).bind fun g => ((instAt g k).bind (ctxAt · op.seq c)).map (g, ·) with
  | some (g, x) =>
    if x.slots.length = 1 ∧ op.op ≠ 5 ∧ bufferLost s g (x.bufs.getD slot 0) (slotBytes (x.slots.getD slot {})).length then
      takeAbort gid k op c x.attempt none true (count { code := 0x11 } 1 s)
    else fillCheck gid k op.seq c s
  | none => fillCheck gid k op.seq c s

/-- A packet taken by an open context: recorded, the dwell timer started, the slot acknowledged when full, and the
stitch dispatched when all are. -/
def intoCtx (gid : Nat) (k : Nat × Option Nat) (op : Op) (c slot off total : Nat) (v : Via) (p : Packet) (s : State) :
    State :=
  match (findGroup s gid).bind fun g => ((instAt g k).bind (ctxAt · op.seq c)).map (g, ·) with
  | none => s
  | some (g, x) =>
    let b := x.slots.getD slot {}
    if x.stage ≠ .filling ∨ b.full ∨ meets b off (pUnits p) then dupDrop v.port p s
    else
      let b := if op.op = 5 then { b with full := true } else record b off total p
      let s := updCtx gid k op.seq c (fun x => { x with
        slots := x.slots.set slot b, start := some (x.start.getD s.clock.now)
        order := if b.full then joinOrder slot v.tick x.order else x.order })
        (if op.op = 5 then s else countStaged g 0x21 (x.bufs.getD slot 0) (off * 256) p.payload.length s)
      if b.full then
        let s := if v.acked then s else sendTack (pSrc p) gid 0 0 x.attempt k.1 (op.seq % 65536) c slot 0 0 s
        let s := match findGroup s gid with
          | some g => match (instAt g k).bind fun i => slotEndpoint g.record i slot with
            | some _ => foldInput g op (nodeLo (nodeAt g.record k.1) + slot) c (slotBytes b) s
            | none => s
          | none => s
        fillOrDrop gid k op c slot s
      else s

/-- A contribution to a chunk of an instance: into its context, into one it opens, held, or discarded. -/
def contribute (gid : Nat) (k : Nat × Option Nat) (op : Op) (c a slot off total : Nat) (v : Via) (p : Packet)
    (s : State) : State :=
  match (findGroup s gid).bind fun g => (instAt g k).map fun i => (g, i) with
  | none => s
  | some (_, i) =>
    -- attempt a > 0 before its CHUNK_ABORT has the effect of that (R160)
    let behind : Bool := match ctxAt i op.seq c with
      | some x => decide (x.attempt < a)
      | none => true
    let s := if 0 < a ∧ behind ∧ !(i.aborted.contains (op.seq, c, a - 1)) then takeAbort gid k op c (a - 1) none false s
      else s
    match (findGroup s gid).bind fun g => (instAt g k).map fun i => (g, i) with
    | none => s
    | some (g, i) =>
      if i.aborted.any fun q => q.1 == op.seq && q.2.1 == c && decide (a ≤ q.2.2) then dupDrop v.port p s
      else match ctxAt i op.seq c with
      | some x =>
        if a < x.attempt then dupDrop v.port p s
        else if a = x.attempt then intoCtx gid k op c slot off total v p s
        else s
      | none =>
        let pos := windowPos g (fun o c => hasWork g.record o i c) (i.baseSeq, i.baseChunk) (op.seq, c) g.record.window
        if instDone op i c then
          (if i.retries.contains (op.seq, c, a) then hold gid v p s else dupDrop v.port p s)
        else if isReducing op.op ∧ g.record.window ≤ pos then drop v.port 16 s
        else if g.pause ≠ .running then hold gid v p s
        else match openCtx g op i c a false s with
          | some s => intoCtx gid k op c slot off total v p s
          | none => hold gid v p s

/-! ## Forwarded chunks (R151, R152) -/

def bufIs (b : PartBuf) (x : PartBuf) : Bool :=
  b.kind == x.kind && b.seq == x.seq && b.chunk == x.chunk && b.slot == x.slot && b.fmt == x.fmt && b.src == x.src &&
  b.dst == x.dst

/-- A chunk buffer opened for a packet, in place of what was held of its stream; none where the group's reservation has none
left (R168, R169). -/
def openBuf (gid : Nat) (p : Packet) (s : State) : Option (Nat × State) :=
  let s := match heldKey p with
    | some k => freeHeld gid (· == k) s
    | none => s
  match findGroup s gid with
  | some g => if hasBuffers g 1 s then some (takeBuffer g 1 s) else none
  | none => none

/-- The buffer a packet goes into: the one its chunk has, or one opened for it. -/
def bufferFor (gid : Nat) (b : PartBuf) (p : Packet) (s : State) : Option (Nat × State) :=
  match b.cells with
  | some n => some (n, s)
  | none => openBuf gid p s

/-- A packet recorded in a chunk buffer of an instance; the buffer and its number, out of the instance, once it is full: its
bytes are then read from it (R148). -/
def intoBuf (gid : Nat) (k : Nat × Option Nat) (key : PartBuf) (off total : Nat) (v : Via) (p : Packet) (s : State) :
    State × Option (SlotBuf × Nat) :=
  match (findGroup s gid).bind fun g => (instAt g k).map (g, ·) with
  | none => (s, none)
  | some (g, i) =>
    let old := (i.bufs.find? (bufIs key)).getD key
    if meets old.buf off (pUnits p) then (dupDrop v.port p s, none)
    else match bufferFor gid old p s with
    | none => (hold gid v p s, none)
    | some (n, s) =>
      let b := record old.buf off total p
      let rest (i : Inst) : List PartBuf := i.bufs.filter (!bufIs key ·)
      let s := countStaged g 0x21 n (off * 256) p.payload.length s
      if b.full then
        (countStaged g 0x20 n 0 (slotBytes b).length (updInst gid k (fun i => { i with bufs := rest i }) s),
          some (b, n))
      else (updInst gid k (fun i => { i with bufs := rest i ++ [{ key with buf := b, cells := some n }] }) s, none)

/-- The count vectors of leaf ranks here folded into the input digest, once the matrix has passed (R379). -/
def foldCounts (gid seq : Nat) (s : State) : State :=
  match (findGroup s gid).bind fun g => (findOp g seq).map fun o => (g, o) with
  | none => s
  | some (g, op) =>
    if !matrixFull g.record op ∨ op.inFolded.contains (0xFFFFFFFF, 0) then s
    else
      let r := g.record
      let n := ranksOf r
      let w := scalarBytes (inSpec { op with op := 0 }).format
      let bytes (a : Nat) : Nat := 4 * n + w * ((tget [] op.matrix a).sum)
      let order := (List.range n).map (rankAt r)
      let total := (order.map bytes).sum
      let parts := (leafRanks s r).map fun x =>
        ((((order.take x.2.leafPos).map bytes).sum), (tget [] op.matrix x.1).flatMap (leBytes 4))
      updOp gid seq (fun o => { o with
        inFolded := o.inFolded ++ [(0xFFFFFFFF, 0)], inDigest := foldParts total o.inDigest parts }) s

/-- A count vector noted as it passes (R152). -/
def noteCounts (gid seq rank : Nat) (bs : List Byte) (s : State) : State :=
  foldCounts gid seq (updOp gid seq (fun o => { o with
    matrix := if (tget [] o.matrix rank).isEmpty then tins rank ((chunksOf 4 bs).map leNat) o.matrix else o.matrix }) s)

/-- A forwarded chunk, which lies in buffer `src`, goes up, or through phase X at the root, by MAP where the operation runs
one. -/
def forward (g : Group) (op : Op) (i : Inst) (c : Nat) (fl : BitVec 6) (bs : List Byte) (src : Nat) (s : State) : State :=
  let k := instKey i
  let s := updInst g.id k (fun i => { i with passed := i.passed ++ [(op.seq, c)] }) s
  if !isRoot g.record i then sendUp g op i c 0 fl bs (some src) s
  else if dMap op.desc then
    dispatch { kind := .map, group := g.id, node := i.node, shard := i.shard, seq := op.seq, chunk := c, attempt := 0
               input := bs, flags := fl, buf := some src } s
  else
    let s := if op.op = 4 then noteCounts g.id op.seq c bs s else s
    releaseHolder src (phaseX g op i c (inSpec op) false fl bs s)

/-- A contribution to a forwarding operation. -/
def contributeFwd (g : Group) (op : Op) (i : Inst) (c slot off : Nat) (v : Via) (p : Packet) (s : State) : State :=
  let k := instKey i
  let n := streamBytes g.record op (inSpec op) c
  if i.passed.contains (op.seq, c) then dupDrop v.port p s
  else
    let open' := i.bufs.any (bufIs { kind := 0, seq := op.seq, chunk := c, slot := slot })
    if g.pause ≠ .running ∧ !open' then hold g.id v p s
    else
      match intoBuf g.id k { kind := 0, seq := op.seq, chunk := c, slot := slot } off (ceilDiv n 256) v p s with
      | (s, none) => s
      | (s, some (b, src)) =>
        let s := if v.acked then s else sendTack (pSrc p) g.id 0 0 0 k.1 (op.seq % 65536) c slot 0 0 s
        let bs := streamOf b n
        let s := match slotEndpoint g.record i slot with
          | some _ => foldInput g op (nodeLo (nodeAt g.record k.1) + slot) c bs s
          | none => s
        forward g op i c b.flags bs src s

/-! ## COLL_UP and BARRIER_ARRIVE -/

/-- The instance of a node here that serves a chunk. -/
def instFor (g : Group) (op : Op) (node c : Nat) : Option Inst :=
  g.insts.find? fun i => i.node == node && (i.shard == none || i.shard == some (rootShard g.record op c))

/-- A slot that a packet just held makes full is acknowledged while its group is paused, once (R163, R227). -/
def tackHeld (gid : Nat) (op : Op) (node c slot attempt total : Nat) (v : Via) (p : Packet) (s : State) : State :=
  match findGroup s gid with
  | none => s
  | some g =>
    let mine := g.held.filter fun q => heldKey q.2 == heldKey p
    if g.pause ≠ .running ∧ !v.acked ∧ g.held.getLast? = some (v, p) ∧ total ≤ (mine.map (pUnits ·.2)).sum then
      sendTack (pSrc p) gid 0 0 attempt node (op.seq % 65536) c slot 0 0
        (updGroup gid (fun g => { g with held := g.held.dropLast ++ [({ v with acked := true }, p)] }) s)
    else s

/-- A contribution's bitmap and node of Table 7.13's Collective cause: not exactly one bit below the slot count, or no instance
here. -/
def badSlot (g : Group) (node bitmap : Nat) : Bool :=
  (contribSlot bitmap (slotCount (ranksOf g.record) (nodeAt g.record node))).isNone || !(g.insts.any (·.node == node))

/-- A COLL_UP of an operation that is malformed (Table 7.13): it reaches past its chunk byte stream. A chunk that the operation
has not, an operation of another kind, or a chunk whose shard has its instance elsewhere, has no stream to reach into (DESIGN
CHOICE, log entry 98). -/
def badUp (g : Group) (op : Op) (p : Packet) : Bool :=
  let c := field p.hdr 16 4
  match instFor g op (field p.hdr 20 2) c with
  | none => true
  | some i => op.op == 5 || decide (op.chunks ≤ c) ||
    decide (ceilDiv (streamBytes g.record op (slotSpec g.record op i) c) 256 < bits (field p.hdr 22 2) 13 0 + pUnits p)

/-- The operation that a COLL_UP names, and the state in which it is looked for. -/
def nameUp (g : Group) (p : Packet) (s : State) : State × Named :=
  if pAttempt p = 0 then (s, nameOp g (pSeqLo p)) else nameAgain g (pSeqLo p) s

/-- COLL_UP received. -/
def recvUp (v : Via) (p : Packet) (s : State) : State :=
  let gid := pGroup p
  let c := field p.hdr 16 4
  let node := field p.hdr 20 2
  let off := bits (field p.hdr 22 2) 13 0
  match liveGroup s gid with
  | none => inactiveDrop v.port s
  | some g =>
    let slot := (contribSlot (field p.hdr 24 8) (slotCount (ranksOf g.record) (nodeAt g.record node))).getD 0
    if badSlot g node (field p.hdr 24 8) then malDrop v.port p s
    else match nameUp g p s with
    | (s, .past) => dupDrop v.port p s
    | (s, .later) => hold gid v p s
    | (s, .now op) =>
      if badUp g op p then malDrop v.port p s
      else match instFor g op node c with
      | none => s
      | some i =>
        let n := streamBytes g.record op (slotSpec g.record op i) c
        tackHeld gid op node c slot (pAttempt p) (ceilDiv n 256) v p
          (if isReducing op.op then contribute gid (instKey i) op c (pAttempt p) slot off (ceilDiv n 256) v p s
          else contributeFwd g op i c slot off v p s)

/-- The row counter of a BARRIER, signalled once the release has gone on from every instance here (Table 5.10). -/
def signalRelease (gid seq : Nat) (s : State) : State :=
  match (findGroup s gid).bind fun g => (findOp g seq).map fun o => (g, o) with
  | none => s
  | some (g, op) =>
    if op.op = 5 ∧ !op.released ∧ g.insts.all (fun i => !hasWork g.record op i 0 || downSent g.record op i 0) then
      addRow (dRowBase op.desc) 1 (updOp gid seq (fun o => { o with released := true }) s)
    else s

/-- BARRIER_ARRIVE received (R153, R231). -/
def recvArrive (v : Via) (p : Packet) (s : State) : State :=
  let gid := field p.hdr 8 3
  let node := field p.hdr 12 2
  match liveGroup s gid with
  | none => inactiveDrop v.port s
  | some g =>
    let slot := (contribSlot (field p.hdr 16 8) (slotCount (ranksOf g.record) (nodeAt g.record node))).getD 0
    if badSlot g node (field p.hdr 16 8) then malDrop v.port p s
    else match nameOp g (field p.hdr 14 2) with
    | .past => dupDrop v.port p s
    | .later => hold gid v p s
    | .now op =>
      if op.op ≠ 5 then malDrop v.port p s
      else match instFor g op node 0 with
      | none => malDrop v.port p s
      | some i =>
        let a := bits (field p.hdr 11 1) 3 0
        signalRelease gid op.seq (tackHeld gid op node 0 slot a 0 v p (contribute gid (instKey i) op 0 a slot 0 0 v p s))

/-! ## Down (R149, R150, R153, R226) -/

/-- The operation whose results a packet carries: one in progress, or the step that another owner resends (R358). -/
def downOp (g : Group) (lo : Nat) : Option Op :=
  match nameOp g lo with
  | .now op => some op
  | .later => none
  | .past => (g.stepSeqs.find? fun q => q.2.1 % 65536 == lo).map fun q =>
    { seq := q.2.1, op := 6, desc := q.2.2, tok := default, resend := some 0, chunks := chunksOfOp g.record q.2.2 }

/-- The down base of an instance sent to its parent; kept back in a pause (R163, R226). -/
def sendDownCredit (gid : Nat) (k : Nat × Option Nat) (s : State) : State :=
  match (findGroup s gid).bind fun g => (instAt g k).map fun i => (g, i) with
  | none => s
  | some (g, i) => match parentOf g.record i.node, i.ownDown with
    | some (p, _), some b =>
      if g.pause ≠ .running then updInst gid k (fun i => { i with downDue := true }) s
      else forEach (nodeModules g.record p) (fun m s => sendCtl (gcreditPacket s gid (modAddr m) i.node 0xFF b) s)
        (updInst gid k (fun i => { i with downDue := false }) s)
    | _, _ => s

/-- The down base of an instance moved, and its credit sent to the parent (R226). -/
def advanceDown (gid : Nat) (k : Nat × Option Nat) (s : State) : State :=
  match (findGroup s gid).bind fun g => (instAt g k).map fun i => (g, i) with
  | none => s
  | some (g, i) =>
    let r := g.record
    let old := i.ownDown.getD (r.firstSeq, 0)
    let b := nextBase g old fun o c =>
      hasWork r o i c && !(instNeeds r o i c).isEmpty && !(downSent r o i c &&
        !(g.transfers.any fun t => t.dir == 1 && (t.node, t.shard) == k && t.seq == o.seq && t.chunk == c)) &&
        !o.failed.contains c
    if (parentOf r i.node).isNone ∨ b = old then s
    else sendDownCredit gid k (updInst gid k (fun i => { i with ownDown := some b }) s)

/-- A COLL_DOWN of an operation that is malformed (Table 7.13), where its formats and chunks are judged as `badUp` judges a
contribution (DESIGN CHOICE, log entry 98). -/
def badDown (g : Group) (op : Op) (p : Packet) : Bool :=
  let c := field p.hdr 16 4
  let w := field p.hdr 20 2
  match (outSpecs g.record op).find? (·.1 == bits w 15 14) with
  | none => true
  | some (_, sp) => op.op == 5 || decide (op.chunks ≤ c) || decide (
    ceilDiv (streamLen sp (dRowLen op.desc) (chunkLogical g.record op c) (chunkLen g.record op c)) 256 < bits w 13 0 + pUnits p)

/-- The instance of a node that receives what comes down. -/
def downInst (g : Group) (node : Nat) : Option Inst := g.insts.find? fun i => i.node == node && i.shard.isNone

/-- A chunk begun at this module and neither complete nor failed here; a pending retry counts as not begun. -/
def chunkBegun (g : Group) (op : Op) (c : Nat) : Bool :=
  !op.complete.contains c && !op.failed.contains c && g.insts.any fun i =>
    hasWork g.record op i c && !(i.retries.any fun q => q.1 == op.seq && q.2.1 == c) &&
    ((instDone op i c && !(i.aborted.any fun q => q.1 == op.seq && q.2.1 == c)) ||
      (op.downDone.any fun d => (d.1, d.2.1) == instKey i && d.2.2.1 == c))

/-- A chunk is under way at this module: a context, a buffer or a transfer of it is open, or it is begun. -/
def chunkOpen (g : Group) (op : Op) (c : Nat) : Bool :=
  chunkBegun g op c || (g.transfers.any fun t => t.seq == op.seq && t.chunk == c) || g.insts.any fun i =>
    (ctxAt i op.seq c).isSome || i.bufs.any fun b => b.seq == op.seq && b.chunk == c && decide (b.kind ≤ 1)

/-- COLL_DOWN received: recorded, acknowledged when whole, and multicast on. In a pause a chunk that is not under way here waits
(R163). -/
def recvDown (v : Via) (p : Packet) (s : State) : State :=
  let gid := pGroup p
  let c := field p.hdr 16 4
  let off := bits (field p.hdr 20 2) 13 0
  let fmt := bits (field p.hdr 20 2) 15 14
  let node := field p.hdr 28 2
  match liveGroup s gid with
  | none => inactiveDrop v.port s
  | some g =>
    match downInst g node with
    | none => malDrop v.port p s
    | some i => match downOp g (pSeqLo p), nameOp g (pSeqLo p) with
      | none, .later => hold gid v p s
      | none, _ => dupDrop v.port p s
      | some op, _ =>
        if badDown g op p then malDrop v.port p s
        else match (outSpecs g.record op).find? (·.1 == fmt) with
        | none => s
        | some (_, sp) =>
          let n := streamLen sp (dRowLen op.desc) (chunkLogical g.record op c) (chunkLen g.record op c)
          if g.pause ≠ .running ∧ op.resend.isNone ∧ !chunkOpen g op c then hold gid v p s
          else match intoBuf gid (instKey i) { kind := 1, seq := op.seq, chunk := c, fmt := fmt } off (ceilDiv n 256) v p s with
          | (s, none) => s
          | (s, some (b, src)) =>
            let bs := streamOf b n
            let s := sendTack (pSrc p) gid 1 fmt 0 node (op.seq % 65536) c 0 0 0 s
            let s := if op.op = 4 then noteCounts gid op.seq c bs s else s
            advanceDown gid (instKey i) (sendDown g op i c fmt b.flags bs (some src) s)

/-- BARRIER_RELEASE received. -/
def recvRelease (v : Via) (p : Packet) (s : State) : State :=
  let gid := field p.hdr 8 3
  let node := field p.hdr 12 2
  match liveGroup s gid with
  | none => inactiveDrop v.port s
  | some g => match downInst g node with
    | none => malDrop v.port p s
    | some i => match nameOp g (field p.hdr 14 2) with
      | .later => hold gid v p s
      | .past => dupDrop v.port p s
      | .now op =>
        if op.op ≠ 5 then malDrop v.port p s
        else
          let s := sendTack (pSrc p) gid 1 0 0 node (op.seq % 65536) 0 0 0 0 s
          if op.downDone.contains (i.node, i.shard, 0, 0) then dupDrop v.port p s
          else signalRelease gid op.seq (sendDown g op i 0 0 fNone [] none s)

/-! ## All-to-all (R152, R230) -/

/-- Elements of chunk c of the segment from a to b. -/
def segLen (op : Op) (a b c : Nat) : Nat :=
  min (dChunk op.desc) ((tget [] op.matrix a).getD b 0 - c * dChunk op.desc)

/-- Bytes of one element of an all-to-all. -/
def a2aWidth (op : Op) : Nat := scalarBytes (Spec.ofNat (dInFmt op.desc)).format

/-- An all-to-all packet. -/
def a2aPacket (s : State) (gid : Nat) (op : Op) (down : Bool) (dst node a b c : Nat) (off : Nat) (payload : List Byte)
    (last : Bool) (trim : Nat) : Packet :=
  dataPacket (if down then 0x13 else 0x12) (if down then 4 else 3) dst (me s) 0 0 (fabricTime s)
    [(11, 3, gid), (14, 2, op.seq), (16, 2, a), (18, 2, b), (20, 4, c), (24, 4, c * dChunk op.desc + off * 256 / a2aWidth op),
     (28, 2, node)] payload last trim none

/-- A whole chunk of a segment, which lies in buffer `src`, sent on from an instance: up to its parent, or down towards its
destination. -/
def sendA2a (g : Group) (op : Op) (i : Inst) (a b c : Nat) (bs : List Byte) (src : Nat) (s : State) : State :=
  let r := g.record
  let down := covers r i.node b
  let dest : Option (Nat × Option Nat × Nat) :=
    if down then
      ((List.range (instSlots r i)).find? fun k =>
        let p := (r.ranks.getD b default).leafPos
        decide ((slotRange r i k).1 ≤ p ∧ p < (slotRange r i k).2)).bind (downDest s r i)
    else (parentOf r i.node).bind fun p => ((nodeModules r p.1).head?).map fun m => (modAddr m, some p.1, 32)
  match dest with
  | none => releaseHolder src s
  | some (dst, dest, units) =>
    let ps := streamPackets units bs (a2aPacket s g.id op down dst (dest.getD 0xFFFF) a b c)
    addTransfers g.id (some src) [{ node := i.node, shard := i.shard, seq := op.seq, chunk := c, dir := 2, srcRank := a
                                    dstRank := b, dest := dest, dst := dst, packets := ps }] s

/-- A segment's chunk folded into the input digest at its source's leaf slot (R379). -/
def foldSegment (g : Group) (op : Op) (a b c : Nat) (bs : List Byte) (s : State) : State :=
  let r := g.record
  let n := ranksOf r
  let key := (a, n + b * 2 ^ 32 + c)
  if op.inFolded.contains key then s
  else
    let w := a2aWidth op
    let bytes (x : Nat) : Nat := 4 * n + w * ((tget [] op.matrix x).sum)
    let order := (List.range n).map (rankAt r)
    let total := (order.map bytes).sum
    let at0 := ((order.take (r.ranks.getD a default).leafPos).map bytes).sum + 4 * n +
      w * (((tget [] op.matrix a).take b).sum + c * dChunk op.desc)
    updOp g.id op.seq (fun o => { o with
      inFolded := o.inFolded ++ [key], inDigest := foldParts total o.inDigest [(at0, bs)] }) s

/-- Byte offset of an all-to-all packet in its chunk of a segment. -/
def a2aOffset (op : Op) (p : Packet) : Nat := (field p.hdr 24 4 - field p.hdr 20 4 * dChunk op.desc) * a2aWidth op

/-- An all-to-all packet whose ranks are none of the group's, or of an operation of another kind (Table 7.13; log entry 98). -/
def badRanks (g : Group) (op : Op) (p : Packet) : Bool :=
  op.op != 4 || decide (ranksOf g.record ≤ field p.hdr 16 2) || decide (ranksOf g.record ≤ field p.hdr 18 2)

/-- An all-to-all packet outside R152 once the counts are known (Table 7.13). An offset that is no multiple of 256 B, and a node
off the pair's path, which Table 7.13 does not name, count as Collective too (DESIGN CHOICE, log entry 98). -/
def badSegment (g : Group) (op : Op) (p : Packet) : Bool :=
  let a := field p.hdr 16 2
  let b := field p.hdr 18 2
  let c := field p.hdr 20 4
  decide (dCount op.desc < (tget [] op.matrix a).getD b 0) || decide (pairChunks op a b ≤ c) ||
    decide (field p.hdr 24 4 < c * dChunk op.desc) || a2aOffset op p % 256 != 0 ||
    decide (ceilDiv (segLen op a b c * a2aWidth op) 256 < a2aOffset op p / 256 + pUnits p) ||
    !onPath g.record (field p.hdr 28 2) a b

/-- A chunk of a segment has come whole to an instance, and its transfer onward is not acknowledged yet. -/
def a2aOnWay (g : Group) (op : Op) (i : Inst) (a b c : Nat) : Bool :=
  g.transfers.any fun t => t.dir == 2 && (t.node, t.shard) == instKey i && t.seq == op.seq && t.srcRank == a && t.dstRank == b &&
    t.chunk == c

/-- The instance of a node that all-to-all chunks cross. -/
def a2aAt (g : Group) (node : Nat) : Option Inst := g.insts.find? fun i => i.node == node && a2aInst i

/-- A2A_UP (`down` false) or A2A_DOWN received. It waits until the count matrix has passed (DEDUCED, log entry 21), and a
chunk not begun until a pause is over (R163). -/
def recvA2a (down : Bool) (v : Via) (p : Packet) (s : State) : State :=
  let gid := pGroup p
  let a := field p.hdr 16 2
  let b := field p.hdr 18 2
  let c := field p.hdr 20 4
  let node := field p.hdr 28 2
  match liveGroup s gid with
  | none => inactiveDrop v.port s
  | some g => match a2aAt g node with
    | none => malDrop v.port p s
    | some i => match nameOp g (pSeqLo p) with
      | .later => hold gid v p s
      | .past => dupDrop v.port p s
      | .now op =>
        if badRanks g op p then malDrop v.port p s
        else if !matrixFull g.record op then hold gid v p s
        else
          let n := segLen op a b c * a2aWidth op
          if badSegment g op p then malDrop v.port p s
          else if op.crossed.contains (node, a, b, c) || a2aOnWay g op i a b c then dupDrop v.port p s
          else
            let key : PartBuf := { kind := if down then 3 else 2, seq := op.seq, chunk := c, src := a, dst := b }
            if g.pause ≠ .running ∧ !(i.bufs.any (bufIs key)) then hold gid v p s
            else match intoBuf gid (instKey i) key (a2aOffset op p / 256) (ceilDiv n 256) v p s with
            | (s, none) => s
            | (s, some (buf, src)) =>
              let bs := streamOf buf n
              let s := sendTack (pSrc p) gid 2 0 0 node (op.seq % 65536) c 0 a b s
              let s := if !down && !pSrcMod p then foldSegment g op a b c bs s else s
              sendA2a g op i a b c bs src s

/-- A collective packet is malformed by the Collective cause of Table 7.13, as this module can tell now. -/
def collectiveMal (s : State) (p : Packet) : Bool :=
  let onOp (g : Group) (lo : Nat) (f : Op → Bool) : Bool := match nameOp g lo with
    | .now op => f op
    | _ => false
  match liveGroup s (if pIsCtl p then field p.hdr 8 3 else pGroup p) with
  | none => false
  | some g => match pType p with
    | 0x10 => badSlot g (field p.hdr 20 2) (field p.hdr 24 8) || onOp g (pSeqLo p) (badUp g · p)
    | 0x11 => (downInst g (field p.hdr 28 2)).isNone || (match downOp g (pSeqLo p) with
      | some op => badDown g op p
      | none => false)
    | 0x12 | 0x13 => (a2aAt g (field p.hdr 28 2)).isNone || onOp g (pSeqLo p) fun op =>
        badRanks g op p || (matrixFull g.record op && badSegment g op p)
    | 0x4C => badSlot g (field p.hdr 12 2) (field p.hdr 16 8) || onOp g (field p.hdr 14 2) fun op =>
        op.op != 5 || (instFor g op (field p.hdr 12 2) 0).isNone
    | 0x4D => (downInst g (field p.hdr 12 2)).isNone || onOp g (field p.hdr 14 2) (·.op != 5)
    | _ => false

/-! ## GCREDIT, TACK, C_NACK (R226, R227, R232) -/

/-- GCREDIT received: the window base of a parent, or the down base of a child. -/
def recvCredit (v : Via) (p : Packet) (s : State) : State :=
  let gid := field p.hdr 8 3
  let slot := field p.hdr 11 1
  let node := field p.hdr 12 2
  match liveGroup s gid with
  | none => inactiveDrop v.port s
  | some g =>
    let base := (expandSeq g.nextSeq (field p.hdr 14 2), field p.hdr 16 4)
    let newer (t : Table (Nat × Nat)) (k : Nat) : Table (Nat × Nat) :=
      let old := tget (g.record.firstSeq, 0) t k
      if chunkLt old base then tins k base (tdel t k) else t
    let s := if slot = 0xFF then
        match parentOf g.record node with
        | some (q, k) => updGroup gid (fun g => { g with insts := g.insts.map fun i =>
            if i.node = q then { i with downBase := newer i.downBase k } else i }) s
        | none => s
      else match childOf g.record (nodeAt g.record node) slot with
        | some c => updGroup gid (fun g => { g with insts := g.insts.map fun i =>
            if i.node = c then { i with parentBase := newer i.parentBase (pSrc p) } else i }) s
        | none => s
    flushTransfers gid s

/-- The transfer a TACK acknowledges (R227). -/
def tackMatches (p : Packet) (t : Transfer) : Bool :=
  let b := field p.hdr 11 1
  let dir := bits b 1 0
  let node := field p.hdr 12 2
  t.sent && t.dst == pSrc p && t.dir == dir && t.seq % 65536 == field p.hdr 14 2 && t.chunk == field p.hdr 16 4 &&
  (t.dest.isNone || t.dest == some node) &&
  (match dir with
  | 0 => t.attempt == bits b 7 4 && t.slot == field p.hdr 20 1
  | 1 => t.fmt == bits b 3 2
  | _ => t.srcRank == field p.hdr 22 2 && t.dstRank == field p.hdr 24 2)

/-- What an acknowledged transfer completes at its instance (R146, R152, R156). -/
def afterTack (gid : Nat) (t : Transfer) (s : State) : State :=
  let k := (t.node, t.shard)
  match findGroup s gid with
  | none => s
  | some g => match g.ops.find? fun o => o.seq == t.seq with
    | none => s
    | some op =>
      if t.dir = 0 then
        if isForwarding op.op then s
        else startRetry gid k (markDone gid k op t.chunk (closeCtx gid k t.seq t.chunk s))
      else if t.dir = 1 then
        let s := if op.resend.isSome then s else startRetry gid k (rootCheck gid k t.seq t.chunk s)
        advanceDown gid k s
      else
        let key := (t.node, t.srcRank, t.dstRank, t.chunk)
        if op.crossed.contains key then s
        else
          let s := updOp gid t.seq (fun o => { o with crossed := o.crossed ++ [key] }) s
          if t.dest.isNone then
            addRow (dRowBase op.desc) 1
              (updOp gid t.seq (fun o => { o with delivered := o.delivered ++ [(t.srcRank, t.dstRank, t.chunk)] }) s)
          else s

/-- TACK received; one no longer awaited is discarded. -/
def recvTack (v : Via) (p : Packet) (s : State) : State :=
  let gid := field p.hdr 8 3
  match liveGroup s gid with
  | none => inactiveDrop v.port s
  | some g => match g.transfers.find? (tackMatches p) with
    | none => s
    | some t => flushTransfers gid (afterTack gid t (dropTransfer gid t s))

/-- The held copy of a packet that a C_NACK names (R155, R232). -/
def heldPacket (g : Group) (key : Nat) : Option Packet :=
  (g.transfers.flatMap (·.packets)).find? fun q => headKey q.hdr == key

/-- A held copy sent again, with a new `inj_time` where it is data (Table 7.12). -/
def sendHeld (q : Packet) (s : State) : State :=
  originateOwn (if pIsCtl q then q else reInject q (fabricTime s)) s

/-- When the refusals of a packet with TARGET_LEAVING began: now, where it has none yet. -/
def leavingSince (now key : Nat) (g : Group) : Nat := ((g.leaving.find? (·.key == key)).map (·.since)).getD now

/-- A refusal with TARGET_LEAVING noted: the packet is sent again 10 µs later, until its refusals have gone on for 1 s. -/
def noteLeaving (now key : Nat) (g : Group) : Group :=
  let t := leavingSince now key g
  let x : Leaving := { key := key, since := t, due := if now - t < ticks1s then some (now + ticks10us) else none }
  { g with leaving := g.leaving.filter (fun y => y.key != key && (heldPacket g y.key).isSome) ++ [x] }

/-- C_NACK received: the refused packet is sent again from its held copy, at once for STALE_EPOCH and AGED_OUT, 10 µs later for
TARGET_LEAVING. For NO_ROUTE and NO_ACCESS, and after 1 s of TARGET_LEAVING, it is reported to the host and not sent again
(R232, Table 7.12). -/
def recvCNack (port : Nat) (p : Packet) (s : State) : State :=
  let refused : BitVec 512 := BitVec.ofNat 512 (field p.hdr 8 32)
  let gid := if field refused 0 1 < 0x40 then field refused 11 3 else field refused 8 3
  match liveGroup s gid with
  | none => inactiveDrop port s
  | some g =>
    match heldPacket g (headKey refused) with
    | none => s
    | some q =>
      if pCode p = 2 ∨ pCode p = 3 then sendHeld q s
      else if pCode p = 1 then
        let since := leavingSince s.clock.now (headKey refused) g
        let s := updGroup gid (noteLeaving s.clock.now (headKey refused)) s
        if s.clock.now - since < ticks1s then s else reportRefused q 1 s
      else if pCode p = 4 ∨ pCode p = 5 then reportRefused q (pCode p) s
      else s

/-- A refused packet may be sent again now. -/
def leavingDue (now : Nat) (x : Leaving) : Bool :=
  match x.due with
  | some t => decide (t ≤ now)
  | none => false

/-- The packets of a group that a leaving module refused 10 µs ago are sent again. -/
def resendLeaving (gid : Nat) (s : State) : State :=
  match findGroup s gid with
  | none => s
  | some g =>
    let due := g.leaving.filter (leavingDue s.clock.now)
    if due.isEmpty then s
    else
      forEach (due.filterMap fun x => heldPacket g x.key) sendHeld (updGroup gid (fun g => { g with
        leaving := g.leaving.map fun x => if leavingDue s.clock.now x then { x with due := none } else x }) s)

/-! ## Settling a group -/

/-- A held packet handled by its type. -/
def receive (v : Via) (p : Packet) (s : State) : State :=
  match pType p with
  | 0x10 => recvUp v p s
  | 0x11 => recvDown v p s
  | 0x12 => recvA2a false v p s
  | 0x13 => recvA2a true v p s
  | 0x4C => recvArrive v p s
  | 0x4D => recvRelease v p s
  | _ => s

/-- The buffers of held streams that are held no longer released. -/
def trimHeld (gid : Nat) (s : State) : State :=
  match findGroup s gid with
  | none => s
  | some g => freeHeld gid (fun k => !(g.held.any fun q => heldKey q.2 == some k)) s

/-- Everything a group holds back is looked at again: early aborts, then packets, in the order they came. -/
def replayHeld (gid : Nat) (s : State) : State :=
  match findGroup s gid with
  | none => s
  | some g =>
    let s := updGroup gid (fun g => { g with held := [], earlyAborts := [] }) s
    let early := g.earlyAborts.filter fun p => match nameOp g (field p.hdr 14 2) with
      | .later => true
      | _ => false
    let ready := g.earlyAborts.filter fun p => match nameOp g (field p.hdr 14 2) with
      | .now _ => true
      | _ => false
    let s := updGroup gid (fun g => { g with earlyAborts := early ++ g.earlyAborts }) s
    trimHeld gid (forEach g.held (fun q => receive q.1 q.2) (forEach ready laterAbort s))

/-- The group stands at a chunk boundary here (R163). -/
def quiet (s : State) (g : Group) : Bool :=
  let mine (x : Stitch) : Bool := x.group == g.id
  (g.insts.all fun i => i.ctxs.isEmpty && i.bufs.isEmpty) && g.transfers.isEmpty &&
  !(s.bed.queue.any mine) && !((liveStitch s).any mine) &&
  !(g.ops.any fun o => !o.again && (List.range o.chunks).any (chunkBegun g o))

/-- A pause completes when no context remains open. -/
def pauseCheck (gid : Nat) (s : State) : State :=
  match findGroup s gid with
  | none => s
  | some g =>
    if g.pause = .pausing ∧ quiet s g then
      forEach g.pauseToks (fun t => ok t 0 []) (updGroup gid (fun g => { g with pause := .paused, pauseToks := [] }) s)
    else s

/-- LEAVE to every endpoint whose leaf module this is (R142). -/
def sendLeave (g : Group) (s : State) : State :=
  forEach (leafRanks s g.record) (fun x s => sendCtl (ctlPacket 0x55 0 x.2.endpoint (me s) [(8, 3, g.id)]) s) s

/-- A group ends here: waiters on its counters complete with their last values, every reservation is released but the
hanks in `keep`, and the endpoints are told (R142, R406, R233). -/
def endGroup (g : Group) (keep : List Nat) (s : State) : State :=
  sendLeave g (releaseGroup g keep (releaseRows g.record.rowBase g.record.rowCount s))

/-- BIND_OFF completes after every operation posted before it. -/
def bindCheck (gid : Nat) (s : State) : State :=
  match findGroup s gid with
  | none => s
  | some g => match g.bindTok with
    | some t => if g.ops.all (·.again) ∧ g.queue.isEmpty then ok t 0 [] (endGroup g [] s) else s
    | none => s

/-- Operations completed and queued commands taken up until nothing more moves; the fuel is the queue's length. -/
def settleOps (gid : Nat) : Nat → State → State
  | 0, s => s
  | k + 1, s =>
    let n := match findGroup s gid with
      | some g => g.ops.length + 1
      | none => 0
    let s := finishOps gid n s
    match findGroup s gid with
    | none => s
    | some g =>
      if g.queue.isEmpty then s
      else
        let s := takeQueue gid g.queue.length s
        settleOps gid k (replayHeld gid s)

/-- A group settled after a change. -/
def settle (gid : Nat) (s : State) : State :=
  let n := match findGroup s gid with
    | some g => g.queue.length + 2
    | none => 0
  s |> settleOps gid n |> startRetries gid |> replayHeld gid |> settleOps gid 2 |> flushTransfers gid |> pauseCheck gid |>
    secureCheck gid |> bindCheck gid

end Sys2Proof.Machine
end

