-- ==== Sys2Proof/Machine/Cast.lean ====
section
/-!
DEFINITION. The life of a group: cast-on (R138 to R141), bind-off (R142), posting (R143, R399, R400), pause and resume
(R163), save and restore (R375, R376), RECAST, STEP_ROLLBACK and SHARD_RESEND (R356 to R358), provenance records (R378,
R380).
-/
namespace Sys2Proof.Machine

/-! ## Cast-on (R138, R139) -/

/-- Modules that hold a node or own a shard: the candidates for coordinator. -/
def coreModules (r : Record) : List Nat :=
  (((r.nodes.filter fun d => d.moduleId != 0xFFFF).map (·.moduleId)) ++ r.shards.map (·.owner)).eraseDups

/-- Every module of a group. -/
def groupModules (r : Record) : List Nat := (coreModules r ++ r.shards.map (·.partner)).eraseDups

/-- The coordinator: the smallest label of those that hold a node or own a shard. -/
def coordinatorOf (r : Record) : Option Nat := match coreModules r with
  | [] => none
  | m :: ms => some (ms.foldl min m)

/-- A control packet of a cast-on. -/
def castPacket (s : State) (type m gid status : Nat) (check : BitVec 64) : Packet :=
  ctlPacket type 0 (modAddr m) (me s) [(6, 1, status), (8, 3, gid), (16, 8, check.toNat)]

/-- CAST_GO or CAST_ABORT to every other module of a group. -/
def castAll (type : Nat) (r : Record) (status : Nat) (s : State) : State :=
  forEach ((groupModules r).filter (· != s.label)) (fun m s => sendCtl (castPacket s type m r.groupId status 0) s) s

/-- The first check of Table 5.5 that fails, but for the last; 0 where none does. -/
def castCheck (s : State) (id : Nat) (bs : List Byte) (r : Record) : Nat :=
  if !check1 s id bs r then 1
  else if !check2 s r then 2
  else if !check3 s r then 3
  else if !check4 s r then 4
  else 0

/-- The status of a check of Table 5.5. -/
def castStatus (n : Nat) : Nat :=
  match n with
  | 1 | 2 => stBadDescriptor
  | 3 => stPattern
  | 4 => stLevel
  | _ => stNoSlots

/-- JOIN to every endpoint whose leaf module this is. -/
def sendJoin (g : Group) (s : State) : State :=
  let r := g.record
  forEach (leafRanks s r) (fun x s =>
    let (node, slot) := (leafOf r x.2.leafPos).getD (0, 0)
    sendCtl (ctlPacket 0x54 0 x.2.endpoint (me s)
      [(8, 3, g.id), (11, 1, r.window), (12, 2, x.1), (14, 2, ranksOf r), (16, 4, r.firstSeq), (20, 4, r.maxChunk),
       (24, 2, node), (26, 1, slot), (27, 1, r.retryLimit), (28, 1, r.opsMask), (29, 1, r.workFmt),
       (30, 1, r.outFmt.getD x.2.outSel 0), (31, 1, x.2.outSel), (32, 4, r.dwellLimit)]) s) s

/-- The shards held here in a role marked as in refill, in the course's REFILL; `here`: at the module that returned. -/
def refillShards (g : Group) (owner here : Bool) (s : State) : State :=
  updGroup g.id (fun g => { g with
      shards := g.shards.map fun sh => if sh.owner == owner && (owner || g.restore.isNone) then { sh with refill := true } else sh })
    { s with course := { s.course with state := .refill, refillHere := here, back := s.course.back && !here } }

/-- A RECAST that names a returned module as partner starts its refill (Table 11.2): at the module that stayed, whose partner is
back, and at the one that returned. That one holds no group to recast, so that its part in a RECAST is a CAST_ON (DEDUCED, log
entry 80); the shards partnered here are new in either. Every group recast in REFILL takes part. -/
def startRefill (g : Group) (s : State) : State :=
  let again := s.course.state == .refill
  let there := (again && !s.course.refillHere) || (s.course.state == .solo && !isGone s s.partnerLabel)
  let here := (again && s.course.refillHere) || (s.course.state == .paired && s.course.back)
  if g.restore.isSome && there && !(heldShards g true).isEmpty then refillShards g true false s
  else if here && (if g.restore.isSome then (heldShards g false).any (·.refill) else !(heldShards g false).isEmpty) then
    refillShards g false true s
  else s

/-- Modules that returned and that a RECAST names are UP again (Table 11.7): at a module that has returned itself, also by a
CAST_ON. -/
def clearReturned (g : Group) (s : State) : State :=
  forEach ((groupModules g.record).filter fun m => tget .up s.course.faults m == .returned && (g.restore.isSome || m == s.label))
    (fun m s => { s with course := { s.course with faults := tset .up s.course.faults m .up } }) s

/-- GO at a module: the group is active, its counters are 0, its endpoints are told, and the cast-on completes (R138
step 6, R405). -/
def castActive (gid : Nat) (s : State) : State :=
  match findGroup s gid with
  | none => s
  | some g =>
    let s := updGroup gid (fun g => { g with phase := .active, castTok := none }) s
    let s := forEach (List.range g.record.rowCount) (fun k s => setRow (g.record.rowBase + k) 0 s) s
    let s := sendJoin g (clearReturned g (startRefill g s))
    settle gid (match g.castTok with
      | some t => ok t g.check.toNat [] s
      | none => s)

/-- A cast-on ended here: every reservation released, queued commands refused, and its completion (R138 step 7, R400). -/
def castEnds (gid status : Nat) (s : State) : State :=
  match findGroup s gid with
  | none => s
  | some g =>
    if g.phase ≠ .casting then s
    else
      let s := releaseGroup g [] s
      let s := forEach g.queue (fun p s => bad p.tok dtState s) s
      match g.castTok with
      | some t => complete t status 0 0 [] s
      | none => s

/-- This module coordinates a cast-on that is in progress here. -/
def coordinates (s : State) (g : Group) : Bool := g.phase == .casting && coordinatorOf g.record == some s.label

/-- CAST_ABORT to every module, and the end of the cast-on here (step 5 of R138). -/
def castAborts (gid status : Nat) (s : State) : State :=
  match findGroup s gid with
  | none => s
  | some g => castEnds gid status (castAll 0x53 g.record status s)

/-- A cast-on whose check fails at its coordinator: it tells every module, and a cast-on of the group that it has in progress
ends as well (step 5 of R138). -/
def failsHere (r : Record) (status : Nat) (s : State) : State :=
  match findGroup s r.groupId with
  | some g => if coordinates s g then castAborts g.id status s else castAll 0x53 r status s
  | none => castAll 0x53 r status s

/-- A cast-on that fails a check here: FAIL to the coordinator, and the completion (R138). -/
def castFails (t : Tok) (r : Record) (n : Nat) (s : State) : State :=
  let st := castStatus n
  let s := match coordinatorOf r with
    | none => s
    | some m => if m = s.label then failsHere r st s else sendCtl (castPacket s 0x51 m r.groupId st 0) s
  complete t st n 0 [] s

/-- Modules whose READY the coordinator awaits: all but a partner that is gone (R332). -/
def castAwaits (s : State) (r : Record) : List Nat :=
  (groupModules r).filter fun m => (coreModules r).contains m || m == s.label || !isGone s m

/-- The coordinator sends GO once every READY is in. -/
def castGoes (gid : Nat) (s : State) : State :=
  match findGroup s gid with
  | none => s
  | some g =>
    if coordinates s g && (castAwaits s g.record).all (g.ready.contains ·) then
      castActive gid (castAll 0x52 g.record 0 (updGroup gid (fun g => { g with goSent := true }) s))
    else s

/-- A reserved group entered, and its READY. -/
def castReserved (t : Tok) (g : Group) (s : State) : State :=
  let g := { g with castTok := some t, castAt := s.clock.now, ready := [s.label] }
  let s := { s with groups := s.groups ++ [g] }
  match coordinatorOf g.record with
  | some m => if m = s.label then castGoes g.id s else sendCtl (castPacket s 0x50 m g.id 0 g.check) s
  | none => s

/-- The record that a host read gives, where its length agrees with its counts. -/
def readRecord (s : State) (addr len : Nat) (h : HostRead) : Option (List Byte) :=
  match hostRead s addr len h with
  | some bs => if 128 ≤ len ∧ recordLenOk bs len then some bs else none
  | none => none

/-- CAST_ON (R138). A record that does not start on the 64 B boundary of R137 is read all the same: no rule refuses it (DESIGN CHOICE,
log entry 116). -/
def castOn (d : Desc) (h : HostRead) (t : Tok) (s : State) : State :=
  if !dRsvdOk d [(8, 3), (16, 8), (24, 4)] then complete t stBadDescriptor 1 0 [] s
  else match readRecord s (field d 16 8) (field d 24 4) h with
  | none => complete t stBadDescriptor 1 0 [] (noteRead (field d 16 8) (field d 24 4) h s)
  | some bs =>
    let r := recordOf bs
    let n := castCheck s (dGroup d) bs r
    if n ≠ 0 then castFails t r n s
    else match reserveGroup r (checkValue bs) [] s with
      | none => castFails t r 5 s
      | some (g, s) => castReserved t g s

def execCastOn (sq : BitVec 8) (d : Desc) (host : HostRead) (s : State) : Host.Outcome State Fault Refusal :=
  .next (runCommand 0x10 sq d (castOn d host) s)

/-- CAST_READY received. -/
def recvReady (p : Packet) (s : State) : State :=
  let gid := field p.hdr 8 3
  let m := pSrc p % 2048
  match findGroup s gid with
  | some g =>
    if g.phase ≠ .casting then sendCtl (castPacket s 0x53 m gid stPattern 0) s
    else if !coordinates s g then s
    else if field p.hdr 16 8 ≠ g.check.toNat then castAborts gid stPattern s
    else castGoes gid (updGroup gid (fun g => { g with ready := if g.ready.contains m then g.ready else g.ready ++ [m] }) s)
  | none => sendCtl (castPacket s 0x53 m gid stPattern 0) s

def execCastReady (p : Packet) (s : State) : Host.Outcome State Fault Refusal := .next (recvReady p (consume p s))

/-- CAST_FAIL received. -/
def recvFail (p : Packet) (s : State) : State :=
  match findGroup s (field p.hdr 8 3) with
  | some g => if coordinates s g then castAborts g.id (pCode p) s else s
  | none => s

def execCastFail (p : Packet) (s : State) : Host.Outcome State Fault Refusal := .next (recvFail p (consume p s))

/-- CAST_GO received. -/
def recvGo (p : Packet) (s : State) : State :=
  match findGroup s (field p.hdr 8 3) with
  | some g => if g.phase = .casting then castActive g.id s else s
  | none => s

def execCastGo (p : Packet) (s : State) : Host.Outcome State Fault Refusal := .next (recvGo p (consume p s))

def execCastAbort (p : Packet) (s : State) : Host.Outcome State Fault Refusal :=
  .next (castEnds (field p.hdr 8 3) (pCode p) (consume p s))

/-- `cast_on_limit` of a group runs out (steps 5 and 7 of R138). -/
def castExpiry (gid : Nat) (s : State) : State :=
  match findGroup s gid with
  | none => s
  | some g =>
    if g.phase = .casting ∧ g.record.castOnLimit ≤ since s g.castAt then
      if coordinates s g then castAborts gid stPattern s else castEnds gid stPattern s
    else s

def execCastOnLimitExpiry (group : BitVec 24) (s : State) : Host.Outcome State Fault Refusal :=
  .next (castExpiry group.toNat s)

/-! ## RECAST (R357) -/

/-- The new record keeps the seed, working format, output formats and pattern of the old one. -/
def recastKeeps (old new : Record) : Bool :=
  old.seed == new.seed && old.workFmt == new.workFmt && old.outCount == new.outCount &&
  old.outFmt.take old.outCount == new.outFmt.take new.outCount &&
  old.ranks.map (·.leafPos) == new.ranks.map (·.leafPos) &&
  old.nodes.map (fun d => (d.level, d.slotLevel, d.index)) == new.nodes.map (fun d => (d.level, d.slotLevel, d.index))

/-- The shards held that the new table places here with the same elements and state formats, by their new index. -/
def keptShards (s : State) (g : Group) (r : Record) : List Shard :=
  (List.range r.shards.length).filterMap fun k =>
    let e := entryOf r k
    if e.owner = s.label ∨ e.partner = s.label then
      (g.shards.find? fun sh =>
        let o := entryOf g.record sh.index
        o.base == e.base && o.count == e.count && g.record.stateFmts == r.stateFmts && !sh.lost).map fun sh =>
        { sh with index := k, secure := none, mirrorBytes := 0, solo := false
                  arrays := sh.arrays.filter fun a => decide (a.array < 3) }
    else none

/-- Modules that the new table names as partners of shards they owned in the old one, and that were not lost: they have handed
them over (R344 step 5). -/
def handedOver (s : State) (old new : Record) : List Nat :=
  ((new.shards.filter fun e => (tget .up s.course.faults e.partner : FaultState) == .up ||
      (tget .up s.course.faults e.partner : FaultState) == .draining).filterMap fun e =>
    if old.shards.any fun o => o.owner == e.partner && o.partner == e.owner && o.base == e.base && o.count == e.count then
      some e.partner else none).eraseDups

/-- What a new group needs reserved, unless a check has failed. -/
def reserveAgain (failed : Bool) (r : Record) (check : BitVec 64) (kept : List Shard) (s : State) : Option (Group × State) :=
  if failed then none else reserveGroup r check kept s

/-- The new group cast on in place of the old, which has no operation left, with the checks of R138 made again: a slot may have got
another image since the RECAST was taken (R129). Kept shards that a step has moved on from the restore step since then fail it
(R357). -/
def recastNow (gid : Nat) (s : State) : State :=
  match findGroup s gid with
  | none => s
  | some g => match g.recast with
    | none => s
    | some rc =>
      let d := rc.desc
      let bs := (readRecord s (field d 16 8) (field d 24 4) rc.host).getD []
      let r := recordOf bs
      let step := field d 32 8
      let kept := keptShards s g r
      let moved := kept.any (·.step != step)
      let same := r.groupId == gid
      let s := if same then s else forEach g.queue (fun p s => bad p.tok dtState s) s
      let s := endGroup g (kept.flatMap shardHanks) s
      let n := castCheck s r.groupId bs r
      match reserveAgain (moved || n != 0) r (checkValue bs) kept s with
      | none =>
        let s := forEach (kept.flatMap shardHanks) releaseHank s
        let s := if same then forEach g.queue (fun p s => bad p.tok dtState s) s else s
        castFails rc.tok r (if n ≠ 0 then n else if moved then 3 else 5) s
      | some (n, s) =>
        let old (sh : Shard) : Bool := kept.any (·.index == sh.index)
        castReserved rc.tok { n with
          restore := some step, lastStep := step, queue := if same then g.queue else []
          stepSeqs := g.stepSeqs.filter fun q => decide (q.1 ≤ step)
          sealed := g.sealed.filter fun q => decide (q.1 ≤ step), handed := handedOver s g.record r
          shards := n.shards.map fun sh => if old sh then sh else { sh with refill := true, step := step } } s

/-- Work on an operation has started here. -/
def opStarted (g : Group) (op : Op) : Bool :=
  !op.complete.isEmpty || !op.failed.isEmpty || (List.range op.chunks).any (chunkBegun g op) ||
  g.insts.any fun i => i.ctxs.any (·.seq == op.seq) || i.bufs.any (·.seq == op.seq)

/-- RECAST taken: its checks, made as if the old group were gone, then the old group's bind-off (DEDUCED, log entry 24). -/
def recast (d : Desc) (h : HostRead) (t : Tok) (s : State) : State :=
  if !dRsvdOk d [(8, 3), (16, 8), (24, 4), (32, 8)] then complete t stBadDescriptor 1 0 [] s
  else match findGroup s (dGroup d) with
  | none => bad t dtState s
  | some g =>
    if (g.phase ≠ .active ∧ g.phase ≠ .faulted) ∨ g.recast.isSome then bad t dtState s
    else match readRecord s (field d 16 8) (field d 24 4) h with
    | none => complete t stBadDescriptor 1 0 [] (noteRead (field d 16 8) (field d 24 4) h s)
    | some bs =>
      let r := recordOf bs
      let n := castCheck { s with groups := s.groups.filter (·.id != g.id) } r.groupId bs r
      if n ≠ 0 then castFails t r n s
      else if !recastKeeps g.record r || (keptShards s g r).any (·.step != field d 32 8) then castFails t r 3 s
      else
        let idle := if g.phase = .faulted then [] else g.ops.filter fun o => !opStarted g o
        let s := forEach (idle.map (·.tok) ++ g.queue.map (·.tok)) (fun t s => bad t dtState s) s
        let s := forEach g.pauseToks (fun t s => bad t dtState s) s
        let s := updGroup g.id (fun g => { g with
          phase := .binding, recast := some { tok := t, desc := d, host := h }, queue := [], pause := .running
          pauseToks := [], ops := g.ops.filter fun o => !(idle.any fun x => x.seq == o.seq && x.resend == o.resend) }) s
        settle g.id s

/-- A RECAST goes on once the old group's operations have completed. -/
def recastCheck (gid : Nat) (s : State) : State :=
  match findGroup s gid with
  | none => s
  | some g => if g.recast.isSome ∧ g.ops.isEmpty then recastNow gid s else s

/-- A group settled after a change, and the RECAST that waits for it. -/
def settled (gid : Nat) (s : State) : State := recastCheck gid (settle gid s)

def execRecast (sq : BitVec 8) (d : Desc) (host : HostRead) (s : State) : Host.Outcome State Fault Refusal :=
  .next (recastCheck (dGroup d) (runCommand 0x17 sq d (recast d host) s))

/-! ## Pause and resume (R163) -/

/-- The window reopened: credits owed are sent, up and down (R226, R376), retries that wait are started, held packets looked
at. -/
def resumeGroup (gid : Nat) (s : State) : State :=
  match findGroup s gid with
  | none => s
  | some g =>
    let s := updGroup gid (fun g => { g with pause := .running }) s
    let s := forEach (g.insts.filter (·.creditDue)) (fun i => sendCredits gid (instKey i)) s
    let s := forEach (g.insts.filter (·.downDue)) (fun i => sendDownCredit gid (instKey i)) s
    let s := forEach g.insts (fun i => advanceDown gid (instKey i)) s
    settle gid (forEach g.insts (fun i => startRetry gid (instKey i)) s)

/-- The group a command names, where it is active and not binding off. -/
def activeGroup (s : State) (gid : Nat) : Option Group :=
  match findGroup s gid with
  | some g => if g.phase = .active then some g else none
  | none => none

def groupPause (gid : Nat) (t : Tok) (s : State) : State :=
  match activeGroup s gid with
  | none => bad t dtState s
  | some g => match g.pause with
    | .paused => ok t 0 [] s
    | _ => settle gid (updGroup gid (fun g => { g with pause := .pausing, pauseToks := g.pauseToks ++ [t] }) s)

def execGroupPause (sq : BitVec 8) (d : Desc) (s : State) : Host.Outcome State Fault Refusal :=
  .next (runCommand 0x13 sq d (fun t s => if dRsvdOk d [(8, 3)] then groupPause (dGroup d) t s else bad t dtReserved s) s)

def groupResume (gid : Nat) (t : Tok) (s : State) : State :=
  match activeGroup s gid with
  | none => bad t dtState s
  | some g => if g.pause = .paused then ok t 0 [] (resumeGroup gid s) else bad t dtState s

def execGroupResume (sq : BitVec 8) (d : Desc) (s : State) : Host.Outcome State Fault Refusal :=
  .next (runCommand 0x14 sq d (fun t s => if dRsvdOk d [(8, 3)] then groupResume (dGroup d) t s else bad t dtReserved s) s)

/-! ## Bind-off (R142) -/

/-- BIND_OFF: nothing posted later is accepted; a pause ends, so that what was posted earlier can complete (DEDUCED, log
entry 25). -/
def bindOff (gid : Nat) (t : Tok) (s : State) : State :=
  match findGroup s gid with
  | none => bad t dtState s
  | some g =>
    if (g.phase ≠ .active ∧ g.phase ≠ .faulted) ∨ g.bindTok.isSome then bad t dtState s
    else
      let s := forEach g.pauseToks (fun t s => bad t dtState s) s
      resumeGroup gid (updGroup gid (fun g => { g with phase := .binding, bindTok := some t, pauseToks := [] }) s)

def execBindOff (sq : BitVec 8) (d : Desc) (s : State) : Host.Outcome State Fault Refusal :=
  .next (runCommand 0x11 sq d (fun t s => if dRsvdOk d [(8, 3)] then bindOff (dGroup d) t s else bad t dtReserved s) s)

/-! ## COLLECTIVE and SHARD_RESEND (R143, R358, R400) -/

/-- A group command joins its group's queue. -/
def joinQueue (p : Posted) (s : State) : State :=
  match findGroup s (dGroup p.desc) with
  | none => bad p.tok dtState s
  | some g =>
    if g.phase = .faulted ∨ (g.phase = .binding ∧ g.recast.isNone) then bad p.tok dtState s
    else settle g.id (updGroup g.id (fun g => { g with queue := g.queue ++ [p] }) s)

def execCollective (sq : BitVec 8) (d : Desc) (host : HostRead) (s : State) : Host.Outcome State Fault Refusal :=
  .next (runCommand 0x12 sq d (fun t => joinQueue { tok := t, desc := d, host := host, resend := false }) s)

def execShardResend (sq : BitVec 8) (d : Desc) (s : State) : Host.Outcome State Fault Refusal :=
  .next (runCommand 0x19 sq d (fun t => joinQueue { tok := t, desc := d, host := none, resend := true }) s)

/-! ## Save and restore (R375, R376) -/

/-- `node_idx` of an instance in a save image. -/
def savedNode (i : Inst) : Nat := match i.shard with
  | some k => 0x8000 + k
  | none => i.node

/-- `done` bits of a restored image whose operations are not posted yet, counted from the base that the instance has now. -/
def unplacedDone (g : Group) (i : Inst) : Nat :=
  match i.restored with
  | none => 0
  | some (q, c, done) =>
    let known := chunksFrom g i (q, c)
    done.toNat / 2 ^ known.length * 2 ^ (known.filter fun x => !chunkLt x (i.baseSeq, i.baseChunk)).length

/-- Table 12.6. -/
def instEntry (g : Group) (i : Inst) : List Byte :=
  let done := ((chunksFrom g i (i.baseSeq, i.baseChunk)).zipIdx).foldl (fun (a : Nat) x =>
    if i.doneAbove.contains x.1 then a + 2 ^ x.2 else a) (unplacedDone g i)
  leBytes 2 (savedNode i) ++ leBytes 1 i.retries.length ++ leBytes 1 0 ++ leBytes 4 i.baseSeq ++ leBytes 4 i.baseChunk ++
  leBytes 4 0 ++ leBytes 8 (done % 2 ^ 64) ++ i.retries.flatMap fun q => leBytes 4 q.1 ++ leBytes 4 (q.2.1 % 2 ^ 28 + q.2.2 * 2 ^ 28)

/-- The save image of a group. -/
def saveImage (s : State) (g : Group) (saveId : Nat) : List Byte :=
  let next := match g.ops.find? fun o => o.resend.isNone && !o.again with
    | some o => o.seq
    | none => g.nextSeq
  padTo 128 (leBytes 2 1 ++ leBytes 2 s.label ++ leBytes 4 g.id ++ leBytes 8 saveId ++ leBytes 8 g.check.toNat ++
    leBytes 4 next ++ leBytes 4 g.insts.length ++ leBytes 8 (if hasApply g.record then g.lastStep else 0) ++
    leBytes 8 g.nondet.toNat ++ leBytes 2 g.record.rowCount) ++
  ((List.range g.record.rowCount).flatMap fun k => leBytes 8 (rowValue s (g.record.rowBase + k))) ++
  g.insts.flatMap (instEntry g)

/-- An operation posted that a save image cannot describe. -/
def saveBlocked (g : Group) : Bool :=
  let late (op : Nat) : Bool := op == 2 || op == 3 || op == 4 || op == 5 || op == 6
  (g.ops.any fun o => o.resend.isNone && late o.op && o.committed.isNone) ||
  g.queue.any fun p => !p.resend && late (dOp p.desc)

def groupSave (d : Desc) (t : Tok) (s : State) : State :=
  match activeGroup s (dGroup d) with
  | none => bad t dtState s
  | some g =>
    if g.pause ≠ .paused ∨ saveBlocked g then bad t dtState s
    else
      let img := saveImage s g (field d 16 8)
      if field d 32 4 < img.length then bad t dtLength s
      else ok t img.length [] (hostWrite (field d 24 8) img s)

def execGroupSave (sq : BitVec 8) (d : Desc) (s : State) : Host.Outcome State Fault Refusal :=
  .next (runCommand 0x15 sq d (fun t s =>
    if dRsvdOk d [(8, 3), (16, 8), (24, 8), (32, 4)] then groupSave d t s else bad t dtReserved s) s)

/-- Entries of Table 12.6 in bytes; none where they do not fill them. The fuel is their number. -/
def instEntries : Nat → List Byte → Option (List (List Byte))
  | 0, bs => if bs.isEmpty then some [] else none
  | k + 1, bs =>
    let n := 24 + 8 * leAt bs 2 1
    if bs.length < n then none else (instEntries k (bs.drop n)).map fun l => bs.take n :: l

/-- Chunk number of a pending retry from its low bits (R375). -/
def retryChunk (base low : Nat) : Nat := base - (base + 2 ^ 28 - low % 2 ^ 28) % 2 ^ 28

/-- An instance as an entry restores it. -/
def restoreInst (e : List Byte) (i : Inst) : Inst :=
  let q := leAt e 4 4
  let c := leAt e 8 4
  { i with
    baseSeq := q, baseChunk := c, creditDue := true, restored := some (q, c, BitVec.ofNat 64 (leAt e 16 8))
    retries := (List.range (leAt e 2 1)).map fun k =>
      let v := leAt e (28 + 8 * k) 4
      let rq := leAt e (24 + 8 * k) 4
      (rq, if rq = q then retryChunk c v else v % 2 ^ 28, v / 2 ^ 28) }

/-- GROUP_RESTORE, before any operation is posted. The group stands paused after it, as GROUP_RESUME needs (DEDUCED, log
entry 23). -/
def groupRestore (d : Desc) (h : HostRead) (t : Tok) (s : State) : State :=
  match activeGroup s (dGroup d) with
  | none => bad t dtState s
  | some g =>
    let len := field d 24 4
    if !g.ops.isEmpty || !g.queue.isEmpty || g.nextSeq != g.record.firstSeq then bad t dtState s
    else match hostRead s (field d 16 8) len h with
    | none => bad t dtHostRead (noteRead (field d 16 8) len h s)
    | some bs =>
      let rows := leAt bs 48 2
      let es := instEntries (leAt bs 28 4) (bs.drop (128 + 8 * rows))
      let known (e : List Byte) : Bool := g.insts.any fun i => savedNode i == leAt e 0 2
      match es with
      | none => bad t dtLength s
      | some es =>
        if len < 128 + 8 * rows then bad t dtLength s
        else if leAt bs 0 2 ≠ 1 ∨ leAt bs 2 2 ≠ s.label ∨ leAt bs 4 4 ≠ g.id ∨ leAt bs 16 8 ≠ g.check.toNat ∨
            rows ≠ g.record.rowCount ∨ !es.all known then bad t dtState s
        else
          let entry (i : Inst) : Option (List Byte) := es.find? fun e => leAt e 0 2 == savedNode i
          let s := forEach (List.range rows) (fun k s =>
            let n := g.record.rowBase + k
            wakeRow n (setRow n (leAt bs (128 + 8 * k) 8) s)) s
          ok t 0 [] (updGroup g.id (fun g => { g with
            lastStep := leAt bs 32 8, nondet := BitVec.ofNat 64 (leAt bs 40 8), pause := .paused
            shards := g.shards.map fun sh => { sh with step := leAt bs 32 8 }
            insts := g.insts.map fun i => match entry i with
              | some e => restoreInst e i
              | none => { i with creditDue := true } }) s)

def execGroupRestore (sq : BitVec 8) (d : Desc) (host : HostRead) (s : State) : Host.Outcome State Fault Refusal :=
  .next (runCommand 0x16 sq d (fun t s =>
    if dRsvdOk d [(8, 3), (16, 8), (24, 4)] then groupRestore d host t s else bad t dtReserved s) s)

/-! ## STEP_ROLLBACK (R356) -/

/-- Phase A of step n, or its writes at the partner, have started at a shard here. -/
def applyBegun (g : Group) (n : Nat) : Bool := g.shards.any fun sh => decide (n ≤ sh.begun)

def stepRollback (gid step : Nat) (t : Tok) (s : State) : State :=
  match findGroup s gid with
  | none => bad t dtState s
  | some g =>
    if (g.phase ≠ .active ∧ g.phase ≠ .faulted) ∨ !hasApply g.record then bad t dtState s
    else if (g.shards.any fun sh => decide (step + 1 < sh.step)) || applyBegun g (step + 2) then bad t dtOrder s
    else
      ok t 0 [] (updGroup gid (fun g => { g with
        lastStep := step, stepSeqs := g.stepSeqs.filter fun q => decide (q.1 ≤ step)
        sealed := g.sealed.filter fun q => decide (q.1 ≤ step)
        shards := g.shards.map fun sh => if sh.step = step + 1 then { sh with gen := !sh.gen, step := step } else sh }) s)

def execStepRollback (sq : BitVec 8) (d : Desc) (s : State) : Host.Outcome State Fault Refusal :=
  .next (runCommand 0x18 sq d (fun t s =>
    if dRsvdOk d [(8, 3), (16, 8)] then stepRollback (dGroup d) (field d 16 8) t s else bad t dtReserved s) s)

/-! ## PROVENANCE (R378, R380) -/

/-- Bytes 384 to 479 of a provenance record: its hash and the module's identity. -/
def provTail (s : State) (content : List Byte) : List Byte :=
  let i := s.flash.identity
  sha512 content ++ leBytes 8 i.serial.toNat ++ leBytes 2 s.label ++ leBytes 1 (b2n i.gradeH) ++ [0x11] ++
  leBytes 4 s.boot.build.toNat ++ leBytes 8 (fabricTime s) ++ leBytes 8 0

/-- A provenance record. -/
def provRecord (s : State) (content : List Byte) (sign : Bool) : List Byte :=
  let tail := provTail s content
  padTo 544 (content ++ tail ++ (if sign then edSign s.flash.identity.seed tail else []))

def provenance (d : Desc) (t : Tok) (s : State) : State :=
  match findGroup s (dGroup d) with
  | none => bad t dtState s
  | some g =>
    if g.phase = .faulted then bad t dtState s
    else match g.provs.find? (·.seq == field d 12 4) with
    | none => bad t dtState s
    | some p =>
      let sign := bit (field d 24 1) 0
      if sign && !s.boot.idValid then bad t dtState s
      else if sign && s.boot.attBusy then
        { s with boot := { s.boot with toSign := s.boot.toSign ++ [(t, field d 16 8, p.content)] } }
      else ok t 0 [] (hostWrite (field d 16 8) (provRecord s p.content sign) s)

/-- The signed records that waited for an attestation report are signed, one after another (R426). -/
def signStep (s : State) : State :=
  if s.boot.attBusy then s
  else forEach s.boot.toSign (fun x s => ok x.1 0 [] (hostWrite x.2.1 (provRecord s x.2.2 true) s))
    { s with boot := { s.boot with toSign := [] } }

def execProvenance (sq : BitVec 8) (d : Desc) (s : State) : Host.Outcome State Fault Refusal :=
  .next (runCommand 0x1A sq d (fun t s =>
    if dRsvdOk d [(8, 3), (12, 4), (16, 8), (24, 1)] && bits (field d 24 1) 7 1 == 0 then provenance d t s
    else bad t dtReserved s) s)

end Sys2Proof.Machine
end

