-- ==== Sys2Proof/Machine/GroupEvents.lean ====
section
/-!
DEFINITION. The packets and events of groups: collective packets, credits, acknowledgements and aborts (R146, R151 to R153,
R158 to R163, R222 to R232), step seals (R190, R192, R256), and the ends of stitches, dwell times, chunks and steps (R156,
R158, R160, R190).
-/
namespace Sys2Proof.Machine

/-- A collective packet consumed and handled, and its group settled. One that fails its CRC-32C is discarded and counted: no
byte passes into the needle bed unchecked (R34, R213). -/
def groupPacket (gid : Nat) (p : Packet) (f : Via → Packet → State → State) (s : State) : State :=
  if crcOk p then settled gid (f { port := inPortOf p s, tick := s.clock.now } p (consume p s))
  else
    drop (inPortOf p s) 8 (count { code := 0x05, port := some (inPortOf p s), src := srcAttr p, sub := sublane p } 1
      (consume p s))

/-- The group that a control packet names. -/
def ctlGroup (p : Packet) : Nat := field p.hdr 8 3

def execCollUp (p : Packet) (s : State) : Host.Outcome State Fault Refusal := .next (groupPacket (pGroup p) p recvUp s)

def execCollDown (p : Packet) (s : State) : Host.Outcome State Fault Refusal := .next (groupPacket (pGroup p) p recvDown s)

def execA2aUp (p : Packet) (s : State) : Host.Outcome State Fault Refusal :=
  .next (groupPacket (pGroup p) p (recvA2a false) s)

def execA2aDown (p : Packet) (s : State) : Host.Outcome State Fault Refusal :=
  .next (groupPacket (pGroup p) p (recvA2a true) s)

def execBarrierArrive (p : Packet) (s : State) : Host.Outcome State Fault Refusal :=
  .next (groupPacket (ctlGroup p) p recvArrive s)

def execBarrierRelease (p : Packet) (s : State) : Host.Outcome State Fault Refusal :=
  .next (groupPacket (ctlGroup p) p recvRelease s)

def execGcredit (p : Packet) (s : State) : Host.Outcome State Fault Refusal :=
  .next (groupPacket (ctlGroup p) p recvCredit s)

def execTack (p : Packet) (s : State) : Host.Outcome State Fault Refusal :=
  .next (groupPacket (ctlGroup p) p recvTack s)

def execChunkAbort (p : Packet) (s : State) : Host.Outcome State Fault Refusal :=
  .next (groupPacket (ctlGroup p) p recvAbort s)

def execCNack (p : Packet) (s : State) : Host.Outcome State Fault Refusal := .next (recvCNack (inPortOf p s) p (consume p s))

/-! ## Step seals (R190, R192, R256) -/

def execStepSeal (p : Packet) (s : State) : Host.Outcome State Fault Refusal :=
  .next (groupPacket (ctlGroup p) p
    (fun v p s => if (findGroup s (ctlGroup p)).isNone then inactiveDrop v.port s
      else takeSeal (ctlGroup p) (field p.hdr 16 8) (bit (field p.hdr 11 1) 0) s) s)

def execStepSealed (p : Packet) (s : State) : Host.Outcome State Fault Refusal :=
  .next (groupPacket (ctlGroup p) p
    (fun v p s => if (findGroup s (ctlGroup p)).isNone then inactiveDrop v.port s
      else takeSealed (ctlGroup p) (field p.hdr 16 8) s) s)

/-- A generation flip that is due takes effect (R190). -/
def execGenerationFlip (group : BitVec 24) (s : State) : Host.Outcome State Fault Refusal :=
  .next (settled group.toNat (flipNow group.toNat s))

/-! ## Stitches -/

/-- The running stitch is an APPLY of a shard lost here: the chunk fails, since the shard takes no update (R35; log entry
36). -/
def lostApply (s : State) : Option (Group × Op × Inst × Nat) :=
  match liveStitch s with
  | none => none
  | some x =>
    if x.kind = .apply1 ∨ x.kind = .apply2 then
      (findGroup s x.group).bind fun g =>
        if g.shards.any fun sh => some sh.index == x.shard && sh.lost then
          (findOp g x.seq).bind fun o => (instAt g (x.node, x.shard)).map (g, o, ·, x.chunk)
        else none
    else none

/-- A chunk of an instance that can no longer be applied fails. -/
def failApply (g : Group) (op : Op) (i : Inst) (c : Nat) (s : State) : State :=
  let k := instKey i
  markDone g.id k op c (closeCtx g.id k op.seq c (failChunk g.id op.seq c s))

/-- The stitch that runs, with its group, operation and instance. -/
def runningStitch (s : State) : Option (Group × Op × Inst × Stitch) :=
  match liveStitch s with
  | none => none
  | some x =>
    (findGroup s x.group).bind fun g => (findOp g x.seq).bind fun o => (instAt g (x.node, x.shard)).map (g, o, ·, x)

/-- The stitch that runs, where it reads a staging hank with an uncorrectable error (R35). -/
def lostStitch (s : State) : Option (Group × Op × Inst × Stitch) :=
  (runningStitch s).filter fun r => readsLost s r.1 r.2.1 r.2.2.2

/-- A running stitch ends with DROPPED_STITCH: a REDUCE is retried (R160), the chunk of another fails. -/
def dropRunning (front back : Nat) (r : Group × Op × Inst × Stitch) (s : State) : State :=
  let (g, op, i, x) := r
  let s := count { code := 0x11 } 1 (endVoid front back x s)
  let s := match x.buf with
    | some b => releaseHolder b s
    | none => s
  settled g.id (if x.kind = .reduce then takeAbort g.id (instKey i) op x.chunk x.attempt none true s
    else failApply g op i x.chunk s)

/-- A running stitch that reads a lost hank dropped. -/
def dropLost (front back : Nat) (s : State) : State :=
  match lostStitch s with
  | none => s
  | some r => dropRunning front back r s

/-- The running stitch ends, having waited at the front and at the back for so many handshakes; a flip that waited for it
takes effect. -/
def stitchEnds (front back : Nat) (s : State) : State :=
  match s.bed.running with
  | none => s
  | some (x, _) =>
    match lostApply s with
    | some (g, op, i, c) => settled x.group (failApply g op i c (endVoid front back x s))
    | none =>
      if (lostStitch s).isSome then dropLost front back s
      else settled x.group (flipNow x.group (endStitch front back s))

def execStitchComplete (front back : BitVec 32) (s : State) : Host.Outcome State Fault Refusal :=
  .next (stitchEnds front.toNat back.toNat s)

/-- The dwell limit of an incomplete stitch has passed (R158, R160). -/
def dwellExpired (gid node seq c : Nat) (s : State) : State :=
  match (liveGroup s gid).bind fun g => (findOp g seq).bind fun o => (instFor g o node c).map (g, o, ·) with
  | none => s
  | some (g, op, i) => match ctxAt i seq c with
    | none => s
    | some x => match x.start with
      | none => s
      | some t =>
        if x.stage = .filling ∧ g.record.dwellLimit ≤ since s t then
          settled gid (takeAbort gid (instKey i) op c x.attempt none true (count { code := 0x11 } 1 s))
        else s

def execDwellExpiry (group : BitVec 24) (node : BitVec 16) (seq chunk : BitVec 32) (s : State) :
    Host.Outcome State Fault Refusal :=
  .next (dwellExpired group.toNat node.toNat seq.toNat chunk.toNat s)

/-! ## Chunks (R156) -/

/-- The row counter that a completed chunk signals (Table 5.10); none where another chunk or the release does it. -/
def chunkRow (g : Group) (op : Op) (c : Nat) : Option Nat :=
  let d := op.desc
  match op.resend with
  | some row => some row
  | none =>
    let row := if dRowShift d = 32 then dRowBase d else dRowBase d + (c >>> dRowShift d)
    match op.op with
    | 4 => if (List.range op.chunks).all fun x => x == c || op.complete.contains x || (workers g op x).isEmpty then
        some (dRowBase d) else none
    | 5 => none
    | 6 => if (heldShards g true).any (·.index == rootShard g.record op c) then some row else none
    | _ => some row

/-- A chunk completes at this module: it is so marked, and its counter signalled. -/
def chunkCompletes (gid seq c : Nat) (s : State) : State :=
  match (liveGroup s gid).bind fun g => (findOp g seq).map fun o => (g, o) with
  | none => s
  | some (g, op) =>
    if op.again || op.complete.contains c || op.failed.contains c || decide (op.chunks ≤ c) || !chunkReady s g op c then s
    else
      let s := updOp gid seq (fun o => { o with complete := o.complete ++ [c] }) s
      let s := match chunkRow g op c with
        | some row => addRow row 1 s
        | none => s
      settled gid s

def execChunkComplete (group : BitVec 24) (seq chunk : BitVec 32) (s : State) : Host.Outcome State Fault Refusal :=
  .next (chunkCompletes group.toNat seq.toNat chunk.toNat s)

end Sys2Proof.Machine
end

