-- ==== Sys2Proof/Machine/RowCounters.lean ====
section
/-!
DEFINITION. Row counters: ROW_READ, ROW_WAIT and ROW_ADD of the host (R405, R406), and ROW_WAIT of endpoints (R233).
-/
namespace Sys2Proof.Machine

/-- ROW_READ. -/
def rowRead (d : Desc) (t : Tok) (s : State) : State := ok t (rowValue s (field d 8 2)) [] s

def execRowRead (sq : BitVec 8) (d : Desc) (s : State) : Host.Outcome State Fault Refusal :=
  .next (runCommand 0x40 sq d (fun t s => if dRsvdOk d [(8, 2)] then rowRead d t s else bad t dtReserved s) s)

/-- ROW_WAIT: it completes at once where the value meets the threshold, else it waits; 4,096 wait at most. -/
def rowWait (d : Desc) (t : Tok) (s : State) : State :=
  let n := field d 8 2
  let v := rowValue s n
  if field d 16 8 ≤ v then ok t v [1] s
  else if 4096 ≤ s.rows.hostW.length then bad t dtFull s
  else
    let w : HostWaiter := { tok := t, row := BitVec.ofNat 16 n, threshold := BitVec.ofNat 64 (field d 16 8) }
    { s with rows := { s.rows with hostW := s.rows.hostW ++ [w] } }

def execRowWait (sq : BitVec 8) (d : Desc) (s : State) : Host.Outcome State Fault Refusal :=
  .next (runCommand 0x41 sq d (fun t s => if dRsvdOk d [(8, 2), (16, 8)] then rowWait d t s else bad t dtReserved s) s)

/-- ROW_ADD: the counter's new value, modulo 2⁶⁴; waiters it meets complete first. -/
def rowAdd (d : Desc) (t : Tok) (s : State) : State :=
  let n := field d 8 2
  let s := addRow n (field d 16 8) s
  ok t (rowValue s n) [] s

def execRowAdd (sq : BitVec 8) (d : Desc) (s : State) : Host.Outcome State Fault Refusal :=
  .next (runCommand 0x42 sq d (fun t s => if dRsvdOk d [(8, 2), (16, 8)] then rowAdd d t s else bad t dtReserved s) s)

/-- A group's reservation holds a row counter. -/
def groupHasRow (g : Group) (row : Nat) : Bool :=
  decide (g.record.rowBase ≤ row ∧ row < g.record.rowBase + g.record.rowCount)

/-- An endpoint is a member of a group. -/
def groupHasEndpoint (g : Group) (e : Nat) : Bool := g.record.ranks.any (·.endpoint == e)

/-- A group has begun here and its counters are still reserved: it is active, or a BIND_OFF waits for its end (R142). -/
def isLiveGroup (g : Group) : Bool := g.phase == .active || g.phase == .binding

/-- The source may name a row counter: it belongs to a group live here with the source as a member (R218, R233). -/
def mayNameRow (s : State) (src row : Nat) : Bool :=
  s.groups.any fun g => isLiveGroup g && groupHasRow g row && groupHasEndpoint g src

/-- ROW_WAIT of an endpoint: answered at once, held, or refused. -/
def rowWaitPkt (p : Packet) (s : State) : State :=
  let row := field p.hdr 8 2
  let tag := field p.hdr 12 4
  let thr := field p.hdr 16 8
  if !mayNameRow s (pSrc p) row then rowNotify (pSrc p) row tag 0x05 0 s
  else if thr ≤ rowValue s row then rowNotify (pSrc p) row tag 0 (rowValue s row) s
  else if 16384 ≤ s.rows.epW.length then rowNotify (pSrc p) row tag 0x06 0 s
  else
    let w : EpWaiter := { src := BitVec.ofNat 16 (pSrc p), row := BitVec.ofNat 16 row, tag := BitVec.ofNat 32 tag
                          threshold := BitVec.ofNat 64 thr }
    { s with rows := { s.rows with epW := s.rows.epW ++ [w] } }

def execRowWaitPkt (p : Packet) (s : State) : Host.Outcome State Fault Refusal := .next (rowWaitPkt p (consume p s))

end Sys2Proof.Machine
end

