-- ==== Sys2Proof/Machine/ShardCmds.lean ====
section
/-!
DEFINITION. The host's commands on shards and step records: SHARD_WRITE and SHARD_READ (R187, R196, R407), SECURE_POINT and
RELEASE_SECURE (R342, R343), STEP_RECORD_READ (R408).
-/
namespace Sys2Proof.Machine

/-! ## Elements of a state array (R185, R367) -/

/-- First element of the limb group that holds element m; m itself in the other formats. -/
def groupStart (f m : Nat) : Nat := if f = 9 then m / 128 * 128 else m

/-- The elements whose stored bytes a range touches: from, to. -/
def storedRange (f count first elems : Nat) : Nat × Nat :=
  if f = 9 then (first / 128 * 128, min count (ceilDiv (first + elems) 128 * 128)) else (first, first + elems)

/-- Logical bytes of `elems` elements of an array in these hanks. -/
def loadElems (s : State) (f count : Nat) (hanks : List Nat) (first elems : Nat) : List Byte :=
  let (a, b) := storedRange f count first elems
  let w := logicalWidth f
  ((logicalStream (Spec.ofNat f) (b - a) (arrayRead s hanks (elemOff f a) (arrayLen f (b - a)))).drop
    (w * (first - a))).take (w * elems)

/-- Stored bytes of the elements that a write of logical bytes touches, and their byte offset. -/
def storeElems (s : State) (f count : Nat) (hanks : List Nat) (first elems : Nat) (bs : List Byte) : Nat × List Byte :=
  let (a, b) := storedRange f count first elems
  let w := logicalWidth f
  let old := loadElems s f count hanks a (b - a)
  (elemOff f a, fromLogical (Spec.ofNat f) (old.take (w * (first - a)) ++ bs ++ old.drop (w * (first + elems - a))))

/-! ## SHARD_WRITE and SHARD_READ (R187, R407) -/

/-- The fields of Table 13.17's SHARD_WRITE. -/
def shardFields : List (Nat × Nat) := [(8, 3), (12, 2), (14, 1), (15, 1), (16, 8), (24, 8), (32, 8)]

/-- The detail with which either command is refused; none where it may run. -/
def shardError (g : Group) (write : Bool) (d : Desc) : Option Nat :=
  let k := field d 12 2
  let x := field d 14 1
  let set := field d 15 1
  if g.record.shards.length ≤ k then some dtRange
  else match g.shards.find? (·.index == k) with
  | none => some dtRole
  | some sh =>
    if write && !sh.owner then some dtRole
    else if !(presentArrays g.record).contains x ∨ (if write then 0 else 1) < set ∨
        (entryOf g.record k).count < field d 16 8 + field d 24 8 then some dtRange
    else if sh.lost ∨ (set = 1 ∧ sh.secure.isNone) ∨ (write ∧ applyOpen g true) then some dtState
    else none

/-- SHARD_WRITE: the owner's current set written, and every unit touched forwarded to the partner. -/
def shardWrite (d : Desc) (h : HostRead) (t : Tok) (s : State) : State :=
  match activeGroup s (dGroup d) with
  | none => bad t dtState s
  | some g => match shardError g true d with
    | some e => bad t e s
    | none =>
      let k := field d 12 2
      let x := field d 14 1
      let first := field d 16 8
      let n := field d 24 8
      let f := arrayFmt g.record x
      if n = 0 then ok t 0 [] s
      else match hostRead s (field d 32 8) (n * logicalWidth f) h, g.shards.find? (·.index == k) with
      | none, _ => bad t dtHostRead (noteRead (field d 32 8) (n * logicalWidth f) h s)
      | _, none => bad t dtRole s
      | some bs, some sh =>
        let hanks := arraySet sh x sh.gen
        let (o, st) := storeElems s f (entryOf g.record k).count hanks first n bs
        let s := guardedWrite 1 hanks o st s
        if runsSolo s g || sh.solo then ok t 0 [] s
        else
          let u := o / 256
          sendMirror g.id k x true sh.gen u (ceilDiv (o + st.length) 256 - u) (.shardWrite t) s

def execShardWrite (sq : BitVec 8) (d : Desc) (host : HostRead) (s : State) : Host.Outcome State Fault Refusal :=
  .next (runCommand 0x20 sq d (fun t s => if dRsvdOk d shardFields then shardWrite d host t s else bad t dtReserved s) s)

/-- SHARD_READ: the current set, or the secured state, copied to host memory. -/
def shardRead (d : Desc) (t : Tok) (s : State) : State :=
  match activeGroup s (dGroup d) with
  | none => bad t dtState s
  | some g => match shardError g false d with
    | some e => bad t e s
    | none => match g.shards.find? (·.index == field d 12 2) with
      | none => bad t dtRole s
      | some sh =>
        let x := field d 14 1
        let f := arrayFmt g.record x
        let n := field d 24 8
        let hanks := match sh.secure with
          | some p => if field d 15 1 = 1 then (arraySet sh x p.set).map (securedHank sh) else arraySet sh x sh.gen
          | none => arraySet sh x sh.gen
        if n = 0 then ok t 0 [] s
        else
          let count := (entryOf g.record sh.index).count
          let (a, b) := storedRange f count (field d 16 8) n
          let bs := loadElems s f count hanks (field d 16 8) n
          ok t 0 [] (hostWrite (field d 32 8) bs
            (countSkein 0x20 1 hanks (elemOff f a) (arrayLen f (b - a)) s))

def execShardRead (sq : BitVec 8) (d : Desc) (s : State) : Host.Outcome State Fault Refusal :=
  .next (runCommand 0x21 sq d (fun t s => if dRsvdOk d shardFields then shardRead d t s else bad t dtReserved s) s)

/-! ## Secure points (R342, R343) -/

def execSecurePoint (sq : BitVec 8) (d : Desc) (s : State) : Host.Outcome State Fault Refusal :=
  .next (runCommand 0x22 sq d (fun t s =>
    if !dRsvdOk d [(8, 3)] then bad t dtReserved s
    else match activeGroup s (dGroup d) with
    | none => bad t dtState s
    | some g => ok t 0 [] (requestSecure g.id s)) s)

def execReleaseSecure (sq : BitVec 8) (d : Desc) (s : State) : Host.Outcome State Fault Refusal :=
  .next (runCommand 0x23 sq d (fun t s =>
    if !dRsvdOk d [(8, 3)] then bad t dtReserved s
    else match activeGroup s (dGroup d) with
    | none => bad t dtState s
    | some g => ok t 0 [] (liftSecure g.id s)) s)

/-! ## STEP_RECORD_READ (R408) -/

/-- An entry placed by its key in a list of rising keys. -/
def placeByKey (e : Nat × List Byte) : List (Nat × List Byte) → List (Nat × List Byte)
  | [] => [e]
  | x :: xs => if e.1 < x.1 then e :: x :: xs else x :: placeByKey e xs

/-- Entries of a kept step in their order: reports by (group, owner), or notes by endpoint. -/
def recordEntries (x : StepRec) (notes : Bool) : List (List Byte) :=
  let all := if notes then x.notes else x.reports.map fun b => ((reportKey b).1 * 65536 + (reportKey b).2, b)
  (all.foldl (fun l e => placeByKey e l) []).map (·.2)

def stepRecordRead (d : Desc) (t : Tok) (s : State) : State :=
  if leadRole s = 0 then bad t dtRole s
  else if 1 < field d 8 1 then bad t dtRange s
  else match s.course.records.find? (·.step == field d 16 8) with
  | none => bad t dtRange s
  | some x =>
    let all := recordEntries x (field d 8 1 == 1)
    let es := (all.drop (field d 36 4)).take (field d 32 4 / 256)
    let s := if es.isEmpty then s else hostWrite (field d 24 8) es.flatten s
    ok t es.length (leBytes 4 all.length) s

def execStepRecordRead (sq : BitVec 8) (d : Desc) (s : State) : Host.Outcome State Fault Refusal :=
  .next (runCommand 0x24 sq d (fun t s =>
    if dRsvdOk d [(8, 1), (16, 8), (24, 8), (32, 4), (36, 4)] then stepRecordRead d t s else bad t dtReserved s) s)

end Sys2Proof.Machine
end

