-- ==== Sys2Proof/Machine/Puts.lean ====
section
/-!
DEFINITION. PUT and GET_REQ at a module (R217 to R219, R329, R349, R425), their answers at the sender (R218, R220, R221,
Table 7.12), INJECT (R409), and the copies that mirror PUTs wait for (R189).
-/
namespace Sys2Proof.Machine

/-! ## Endpoint windows (R425) -/

/-- The hanks and byte offset of a range in a window that grants an endpoint an operation: bit 0 of a permission for
GET_REQ, bit 1 for PUT. -/
def windowRange (s : State) (src addr len : Nat) (put : Bool) : Option (List Nat × Nat) :=
  if 0x8000 ≤ src then none
  else
    ((protWindows s.boot.prot).find? fun w =>
      let base := w.2.2.2.2
      decide (w.1 ≤ src ∧ src ≤ w.2.1) && bit w.2.2.1 (b2n put) &&
        decide (base ≤ addr ∧ addr + len ≤ base + w.2.2.2.1 * hankBytes)).map fun w =>
      (tget [] s.skein.windows (w.2.2.2.2 / hankBytes), addr - w.2.2.2.2)

/-! ## PUT (R217, R218, R329) -/

/-- Payload bytes that are data. -/
def putBytes (p : Packet) : List Byte := p.payload.take (p.payload.length - pTrim p)

/-- The code with which a new PUT is refused; none where it may be placed. -/
def putRefused (s : State) (p : Packet) : Option Nat :=
  let space := bits (pAddr p) 63 62
  let leaving := s.course.draining || (pDst p != me s && space != 1 && space != 2)
  if leaving then some 0x01
  else
    let access := match space with
      | 0 => (windowRange s (pSrc p) (pAddr p) (putBytes p).length true).isSome
      | 1 => pSrcMod p
      | 2 => (mirrorTarget s p).isSome
      | _ => !pSrcMod p || pSrc p == modAddr s.partnerLabel
    if !access || (pNotify p && !mayNameRow s (pSrc p) (pCtr p)) then some 0x05 else none

/-- What a PUT writes in its space. A report or note at neither the lead nor the standby lead is discarded. -/
def placePut (p : Packet) (s : State) : State :=
  match bits (pAddr p) 63 62 with
  | 0 => match windowRange s (pSrc p) (pAddr p) (putBytes p).length true with
    | some (hs, o) => countSkein 0x21 0 hs o (putBytes p).length (arrayWrite hs o (putBytes p) s)
    | none => s
  | 1 => if leadRole s = 0 then s else keepEntry none (slice p.payload 0 256) s
  | 2 => settled (bits (pAddr p) 61 38) (mirrorWrite p s)
  | _ =>
    if leadRole s = 0 then s
    else keepEntry (some (if pSrcMod p then bits (pAddr p) 14 0 else pSrc p)) (slice p.payload 0 256) s

/-- A PUT that waits for a hank's copy is this one. -/
def samePut (a b : Packet) : Bool := pSrc a == pSrc b && pDst a == pDst b && pFlowSeq a == pFlowSeq b && pIncarn a == pIncarn b

/-- PUT received. -/
def recvPut (port : Nat) (p : Packet) (s : State) : State :=
  let key := rxKey s p
  let seq := BitVec.ofNat 32 (pFlowSeq p)
  let dup : PEv := { code := 0x0D, port := some port, src := srcAttr p, sub := sublane p }
  match judgeFlow s key (BitVec.ofNat 16 (pIncarn p)) seq with
  | (.unknown, f) => sendNack p port 0x07 (setRx key f s)
  | (.dropped, f) => drop port 17 (count dup 1 (setRx key f s))
  | (.duplicate, f) => sendAck p (pFlowSeq p) f (count dup 1 (setRx key f s))
  | (.fresh, f) => match putRefused s p with
    | some code => sendNackCum p port code f.cum.toNat (setRx key f s)
    | none =>
      let wait := mirrorBlocked s p
      if bits (pAddr p) 63 62 = 2 ∧ !wait.isEmpty then
        let s := setRx key f s
        { s with skein := { s.skein with
            copying := (s.skein.copying ++ wait).eraseDups
            waitPuts := if s.skein.waitPuts.any (samePut p) then s.skein.waitPuts else s.skein.waitPuts ++ [p] } }
      else
        let f := acceptSeq seq f
        let s := placePut p (setRx key f s)
        let s := if pNotify p then addRow (pCtr p) 1 s else s
        sendAck p (pFlowSeq p) f s

def execPut (p : Packet) (s : State) : Host.Outcome State Fault Refusal := .next (recvPut (inPortOf p s) p (consume p s))

/-- The copy of a protected hank made for what waits for it; mirror PUTs that wait are looked at again. -/
def snapshotCopied (h : Nat) (s : State) : State :=
  if s.skein.copying.contains h then
    let s := copyHank h s
    let ps := s.skein.waitPuts
    let s := { s with skein := { s.skein with copying := s.skein.copying.filter (· != h), waitPuts := [] } }
    forEach ps (recvPut 128) s
  else s

def execSnapshotCopy (hank : BitVec 19) (s : State) : Host.Outcome State Fault Refusal := .next (snapshotCopied hank.toNat s)

/-! ## GET_REQ and GET_DATA (R219) -/

/-- The GET_DATA packets of a request (Table 7.6). -/
def getData (s : State) (p : Packet) (bs : List Byte) : List Packet :=
  let tag := field p.hdr 12 4
  streamPackets (unitsTo s (pSrc p)) bs fun off payload last trim =>
    dataPacket 0x02 2 (pSrc p) (pDst p) 0 0 (fabricTime s)
      [(12, 4, field p.hdr 8 4), (16, 8, tag + off * 256 * 2 ^ 32), (24, 2, field p.hdr 28 2)] payload last trim none

/-- A GET_REQ served: its data, or an E_ACK where it asks for none. -/
def serveGet (p : Packet) (f : RxFlow) (hs : List Nat) (o : Nat) (s : State) : State :=
  let len := field p.hdr 24 4
  if len = 0 then sendAck p (field p.hdr 8 4) f s
  else forEach (getData s p (arrayRead s hs o len)) originateOwn (countSkein 0x20 0 hs o len s)

/-- GET_REQ received. One whose `length` is above the 16,777,216 of Table 7.9 is refused with NO_ACCESS, as one outside its
window is (DESIGN CHOICE, log entry 94). -/
def recvGet (port : Nat) (p : Packet) (s : State) : State :=
  let key := rxKey s p
  let seq := BitVec.ofNat 32 (field p.hdr 8 4)
  let len := field p.hdr 24 4
  let dup : PEv := { code := 0x0D, port := some port, src := srcAttr p, sub := sublane p }
  let range := if bits (pAddr p) 63 62 = 0 ∧ len ≤ 16777216 then windowRange s (pSrc p) (pAddr p) len false else none
  match judgeFlow s key (BitVec.ofNat 16 (field p.hdr 28 2)) seq with
  | (.unknown, f) => sendNack p port 0x07 (setRx key f s)
  | (.dropped, f) => drop port 17 (count dup 1 (setRx key f s))
  | (.duplicate, f) => match range with
    | some (hs, o) => serveGet p f hs o (setRx key f s)
    | none => setRx key f s
  | (.fresh, f) =>
    if s.course.draining || pDst p != me s then sendNackCum p port 0x01 f.cum.toNat (setRx key f s)
    else match range with
    | none => sendNackCum p port 0x05 f.cum.toNat (setRx key f s)
    | some (hs, o) =>
      let f := acceptSeq seq f
      serveGet p f hs o (setRx key f s)

def execGetReq (p : Packet) (s : State) : Host.Outcome State Fault Refusal :=
  .next (recvGet (inPortOf p s) p (consume p s))

/-- Bytes [0, len) of a request are all there. -/
def gotAll (got : List ((Nat × BitVec 16 × BitVec 32 × BitVec 32) × Nat × List Byte))
    (key : Nat × BitVec 16 × BitVec 32 × BitVec 32) (len : Nat) : Bool :=
  let mine := got.filter (·.1 == key)
  let reach := mine.foldl (fun (a : Nat) _ =>
    mine.foldl (fun a q => if q.2.1 ≤ a ∧ a < q.2.1 + q.2.2.length then q.2.1 + q.2.2.length else a) a) 0
  decide (len ≤ reach)

/-- GET_REQs of the host that have been sent complete (R409): those that a lookup here does not refuse. -/
def sentRequests (dst : Nat) (s : State) : State :=
  match getFlow s dst with
  | none => s
  | some f => forEach f.unacked (fun x s => match x.purpose with
    | .inject t =>
      if pType x.pkt = 0x43 ∧ x.sentAt.isSome ∧ isLive (lookup s x.pkt 128 true false).2 then ok t 0 [] s else s
    | _ => s) s

/-- GET_DATA received: placed, and the request answered when every byte is there. -/
def recvGetData (p : Packet) (s : State) : State :=
  let dst := pSrc p
  match getFlow s dst with
  | none => s
  | some f =>
    let tag := BitVec.ofNat 32 (bits (pAddr p) 31 0)
    match f.unacked.find? fun x => pType x.pkt == 0x43 && x.seq.toNat == pFlowSeq p &&
        field x.pkt.hdr 12 4 == tag.toNat && f.incarn.toNat == pIncarn p with
    | none => s
    | some x =>
      let key := (dst, f.incarn, x.seq, tag)
      let got := s.flows.got ++ [(key, bits (pAddr p) 63 32, putBytes p)]
      let s := { s with flows := { s.flows with got := got } }
      if gotAll got key (field x.pkt.hdr 24 4) then sentRequests dst (pumpFlow dst (dropTx dst x.seq s)) else s

def execGetData (p : Packet) (s : State) : Host.Outcome State Fault Refusal := .next (recvGetData p (consume p s))

/-! ## E_ACK and E_NACK at the sender (R218, R220, R221) -/

/-- A SHARD_WRITE completes when none of its mirror PUTs is unacknowledged (R187). -/
def writeDone (t : Tok) (s : State) : State :=
  if s.flows.tx.any fun f => f.2.unacked.any fun x => x.purpose == .shardWrite t then s else ok t 0 [] s

/-- What an acknowledged packet of a flow completes. -/
def afterAck (x : TxPkt) (s : State) : State :=
  match x.purpose with
  | .inject t => ok t 0 [] s
  | .mirror gid _ _ => settled gid s
  | .shardWrite t => writeDone t s
  | .report => s

/-- An E_ACK ends a packet's wait, but not that of a GET_REQ for data: acknowledged or not, it is sent again until its data is
there (R219; log entry 30). -/
def ackable (x : TxPkt) : Bool := pType x.pkt != 0x43 || field x.pkt.hdr 24 4 == 0

/-- E_ACK received. -/
def recvEAck (p : Packet) (s : State) : State :=
  let dst := pSrc p
  match getFlow s dst with
  | none => s
  | some f =>
    if f.incarn.toNat ≠ field p.hdr 16 2 then s
    else
      let acked := ackedBy (BitVec.ofNat 32 (field p.hdr 8 4)) (BitVec.ofNat 32 (field p.hdr 12 4)) f.unacked
      let gone := acked.filter ackable
      let left := f.unacked.filter fun x => !gone.any (·.seq == x.seq)
      let note (x : TxPkt) : TxPkt := if acked.any (·.seq == x.seq) then { x with acked := true } else x
      let s := setFlow dst { f with unacked := left.map note } s
      sentRequests dst (pumpFlow dst (forEach gone afterAck s))

def execEAck (p : Packet) (s : State) : Host.Outcome State Fault Refusal := .next (recvEAck p (consume p s))

/-- The completion status of a refusal (R402, R409); an unassigned code ends as TARGET_LEAVING with the code in `detail`
(DESIGN CHOICE, log entry 28). -/
def refusalStatus (code : Nat) : Nat :=
  match code with
  | 2 => 0x08
  | 3 => 0x09
  | 4 => 0x0D
  | 5 => 0x0E
  | _ => 0x07

/-- The command of an injected packet has not completed. -/
def isOpen (s : State) (t : Tok) : Bool := s.host.outstanding.any (·.id == t.id)

/-- A packet of a flow given up with a code: its command fails (R409), or, where there is none or it is a GET_REQ's that completed
when it was sent, it is reported to the host, and the chunk of a mirror write fails (R221, R331). -/
def giveUp (dst : Nat) (x : TxPkt) (code : Nat) (s : State) : State :=
  let s := pumpFlow dst (dropTx dst x.seq s)
  let s := match x.purpose with
    | .inject t =>
      if pType x.pkt = 0x43 ∧ !isOpen s t then reportRefused x.pkt code s else complete t (refusalStatus code) code 0 [] s
    | .mirror gid seq c => settled gid (failChunk gid seq c (reportRefused x.pkt code s))
    | .shardWrite t => bad t dtState s
    | .report => reportRefused x.pkt code s
  sentRequests dst s

/-- E_NACK received (Table 7.12). -/
def recvENack (p : Packet) (s : State) : State :=
  let dst := pSrc p
  let code := pCode p
  let seq := BitVec.ofNat 32 (field p.hdr 8 4)
  match getFlow s dst with
  | none => s
  | some f =>
    if f.incarn.toNat ≠ field p.hdr 16 2 then s
    else if code = 7 then sentRequests dst (renewFlow dst s)
    else match f.unacked.find? (·.seq == seq) with
    | none => s
    | some x =>
      let host : Bool := match x.purpose with
        | .inject t => isOpen s t
        | _ => false
      match code with
      | 2 | 3 =>
        if host ∧ 16 ≤ x.resends then giveUp dst x code s
        else resendNow dst seq (updTx dst seq (fun x => { x with resends := x.resends + 1 }) s)
      | 4 | 5 => giveUp dst x code s
      | _ =>
        let since' := x.refused.getD s.clock.now
        if ticks1s ≤ since s since' then giveUp dst x code s
        else updTx dst seq (fun x => { x with
          refused := some since', due := if code = 1 then s.clock.now + ticks10us else x.due }) s

def execENack (p : Packet) (s : State) : Host.Outcome State Fault Refusal := .next (recvENack p (consume p s))

/-! ## INJECT (R409) -/

/-- The packet that a host injects, with the fields the KX9 fills in. -/
def injected (s : State) (bs : List Byte) : Packet :=
  let p := packetOf bs
  let h := setField (setField p.hdr 4 2 (me s)) 1 1 (field p.hdr 1 1 &&& 0xE7)
  sealCrc (reInject { p with hdr := h } (fabricTime s))

/-- An injected control packet is sent, and its command completes: with OK once it is on its way, with NO_ROUTE where the lookup
refuses it (R258, Table 13.26; DEDUCED, log entry 114). -/
def injectCtl (p : Packet) (c : Nat × Nat) (t : Tok) (s : State) : State :=
  match routeOnce { pkt := p, inPort := 128, enq := s.clock.now, cell := some c, priv := 1 } true false s with
  | (s, some code) => complete t (refusalStatus code) code 0 [] s
  | (s, none) => ok t 0 [] s

/-- The length agrees with the packet's class and `len_units`, and its type is permitted. -/
def injectOk (p : Packet) (len : Nat) : Bool :=
  let t := pType p
  (t == 0x01 || t == 0x41 || t == 0x43 || t == 0x44 || t == 0x45) && len == packetSize p && malformed p false 3 32 == 0

def inject (d : Desc) (h : HostRead) (t : Tok) (s : State) : State :=
  let len := field d 8 2
  if !(len == 64 || (decide (296 ≤ len ∧ len ≤ 8232) && (len - 40) % 256 == 0)) then bad t dtRange s
  else match hostRead s (field d 16 8) len h with
  | none => bad t dtHostRead (noteRead (field d 16 8) len h s)
  | some bs =>
    let p := injected s bs
    if !injectOk p len then bad t dtRange s
    else match allocUnreserved len 1 s with
    | (none, s) => complete t 0x0A 0 0 [] s
    | (some c, s) =>
      if pType p = 0x01 ∨ pType p = 0x43 then sentRequests (pDst p) (sendFlow p (some c) (.inject t) s)
      else injectCtl p c t s

def execInject (sq : BitVec 8) (d : Desc) (host : HostRead) (s : State) : Host.Outcome State Fault Refusal :=
  .next (runCommand 0x48 sq d (fun t s =>
    if dRsvdOk d [(8, 2), (16, 8)] then inject d host t s else bad t dtReserved s) s)

end Sys2Proof.Machine
end

