-- ==== Sys2Proof/Machine/Fault.lean ====
section
/-!
DEFINITION. Fault notices (R333 to R336), the fault table and what follows from a loss (R337 to R339, R332, R328),
shards, hanks and endpoints lost (R35, R351, R352), evacuation and leaving (R344, R348), and the health risk estimate
(R340, R341).
-/
namespace Sys2Proof.Machine

/-! ## Drone lanes (Table 9.13) -/

def deEnable (d : Drone) : Bool := bit (efield d.entry 0 1) 0
def deDim (d : Drone) : Nat := efield d.entry 1 1
def dePeer (d : Drone) : Nat := efield d.entry 2 2
def dePeerLane (d : Drone) : Nat := efield d.entry 4 1
def deMaxLevel (d : Drone) : Nat := efield d.entry 5 1
def deSerial (d : Drone) : Nat := efield d.entry 8 8
def deBuild (d : Drone) : Nat := efield d.entry 16 4

/-- A lane's bridge (R287): lane l of bridge b has drone lane number 8 × b + l. -/
def droneBridge (m : Nat) : Nat := m / 8
/-- The module has the lane (R295). -/
def droneExists (s : State) (m : Nat) : Bool := decide (m < 32 ∧ droneBridge m < s.config.bridges)

/-- A bridge's lanes drive: the module runs its firmware (R20, R419), the reference is not lost, and the bridge has lock to it
(R19, R285). -/
def bridgeDrives (s : State) (b : Nat) : Bool :=
  s.boot.life == .running && !s.clock.lost && !s.clock.bridgeLost.contains b
/-- A drone lane's transmitter drives. -/
def droneDrives (s : State) (m : Nat) : Bool := droneExists s m && bridgeDrives s (droneBridge m)
/-- A lane is neither DISABLED nor FAILED, and drives (Table 9.9). -/
def laneSends (s : State) (m : Nat) : Bool :=
  let st := (getDrone s m).state
  st != .disabled && st != .failed && droneDrives s m

/-- Drone lanes that are UP. -/
def upLanes (s : State) : List Nat := (List.range 32).filter fun m => (getDrone s m).state == .up
/-- UP drone lanes to the course partner. -/
def partnerLanes (s : State) : List Nat := (upLanes s).filter fun m => deDim (getDrone s m) == 0

/-! ## Urgent frames (R333 to R335, Tables 11.5, 11.6) -/

/-- A field of a frame's body: n bytes from offset o. -/
def uField (b : BitVec 192) (o n : Nat) : Nat := bits b.toNat (8 * (o + n) - 1) (8 * o)
def uOrigin (b : BitVec 192) : Nat := bits (uField b 0 2) 10 0
/-- The label or endpoint that a frame names. -/
def uSubject (b : BitVec 192) : Nat := uField b 2 2
def uCause (b : BitVec 192) : Nat := uField b 4 1
def uTime (b : BitVec 192) : Nat := uField b 8 8
def uArg (b : BitVec 192) : Nat := uField b 16 8

/-- The body of a frame that this module originates now. -/
def frameBody (s : State) (subject cause arg : Nat) : BitVec 192 :=
  BitVec.ofNat 192 (leNat (leBytes 2 s.label ++ leBytes 2 subject ++ leBytes 1 cause ++ leBytes 1 0 ++
    leBytes 2 s.course.noticeNo.toNat ++ leBytes 8 (fabricTime s) ++ leBytes 8 arg))

/-- Bytes of a body. -/
def bodyBytes (b : BitVec 192) : List Byte := leBytes 24 b.toNat

/-- A frame or ordered set given to a lane's transmitter. -/
def droneSend (m : Nat) (f : DroneOut) (s : State) : State :=
  let s := updDrone m (giveLine f) s
  { s with out := { s.out with drone := s.out.drone ++ [(m, f)] } }

/-- An urgent frame sent on those of the lanes that drive. -/
def sendUrgent (lanes : List Nat) (ftype : Nat) (b : BitVec 192) (s : State) : State :=
  forEach (lanes.filter (droneDrives s)) (fun m => droneSend m (.urgent (BitVec.ofNat 8 ftype) b)) s

/-- The count of frames originated, moved on. -/
def nextNotice (s : State) : State := { s with course := { s.course with noticeNo := s.course.noticeNo + 1 } }

/-- A frame originated to the partner; it names this module where it names no other (DESIGN CHOICE, log entry 35). -/
def toPartner (ftype subject cause arg : Nat) (s : State) : State :=
  nextNotice (sendUrgent (partnerLanes s) ftype (frameBody s subject cause arg) s)

/-- A flooded frame originated: on every UP lane, and to the module's own host with lane 0 (DEDUCED, log entry 33). -/
def flood (ftype subject cause arg : Nat) (s : State) : State :=
  let b := frameBody s subject cause arg
  postEvent 0x0001 ftype 0 (bodyBytes b) (nextNotice (sendUrgent (upLanes s) ftype b s))

/-- Ticks in 1 ms. -/
def ticks1ms : Nat := 1250000

/-- A flooded frame passed on (R335). -/
def relay (lane ftype : Nat) (b : BitVec 192) (s : State) : State :=
  let key := (BitVec.ofNat 8 ftype, BitVec.ofNat 16 (uSubject b), BitVec.ofNat 8 (uCause b))
  let kept := s.course.relayed.filter fun q => decide (since s q.2 < ticks1ms)
  let s := { s with course := { s.course with relayed := kept } }
  if kept.any (·.1 == key) && decide (kept.length < 1024) then s
  else
    let keys := if kept.length < 1024 then kept ++ [(key, s.clock.now)] else kept
    let hopped := setBits b 40 8 (uField b 5 1 + 1)
    sendUrgent ((upLanes s).filter (· != lane)) ftype hopped { s with course := { s.course with relayed := keys } }

/-- A lane on which frames are taken. -/
def laneHears (s : State) (m : Nat) : Bool :=
  let st := (getDrone s m).state
  st == .hello || st == .measure || st == .up

/-- A flooded frame received: relayed, its event posted, and acted on (R335). -/
def hearFlood (lane ftype : Nat) (b : BitVec 192) (act : State → State) (s : State) : State :=
  if laneHears s lane then act (postEvent 0x0001 ftype lane (bodyBytes b) (relay lane ftype b s)) else s

/-- A partner's frame received, on a dimension-0 lane (R333). -/
def hearPartner (lane : Nat) (act : State → State) (s : State) : State :=
  if laneHears s lane && deDim (getDrone s lane) == 0 then act s else s

/-! ## A group FAULTED (R339) -/

/-- Everything of an operation that a fault ends: an uncommitted step does not commit (R192). -/
def faultOp (o : Op) : Op := if isStep o && o.committed != some true then { o with committed := some false } else o

/-- A group becomes FAULTED: contexts end, every operation in flight or posted completes with DROPPED_STITCH (its failed
chunks are those that had failed: log entry 34). One that binds off, or waits for its RECAST, then goes on with that. -/
def faultGroup (gid : Nat) (s : State) : State :=
  match findGroup s gid with
  | none => s
  | some g =>
    if g.phase = .casting ∨ g.phase = .faulted then s
    else
      let open' := ((g.insts.flatMap (·.ctxs)).filter fun x => x.stage != .done).length
      let s := count { code := 0x11 } open' s
      let s := freeBuffers gid s
      let s := { s with bed := voidBed gid s.bed }
      let s := updGroup gid (fun g => { g with
        phase := if g.phase = .active then .faulted else g.phase
        insts := g.insts.map fun i => { i with ctxs := [], bufs := [], retries := [] }
        ops := g.ops.map faultOp, queue := [], held := [], heldBufs := [], earlyAborts := [], transfers := []
        flipDue := none, sealDue := none, seals := [], swapDue := [] }) s
      let s := forEach (g.ops.map faultOp) (finishOpAs stDropped gid) s
      let s := forEach g.queue (fun p s =>
        let op : Op := { seq := dSeq p.desc, op := dOp p.desc, desc := p.desc, tok := p.tok, chunks := 0 }
        complete p.tok stDropped 0 0 (if p.resend then [] else opPart op stDropped) s) s
      settled gid (releaseHostRows g.record.rowBase g.record.rowCount s)

/-! ## A group that goes on solo (R332, R339) -/

/-- PUTs to the partner that no longer matter dropped: mirror writes and forwarded SHARD_WRITEs that a test picks. A write
with none left completes. -/
def dropMirrors (pick : Purpose → Bool) (s : State) : State :=
  let dst := modAddr s.partnerLabel
  match getFlow s dst with
  | none => s
  | some f =>
    let gone := f.unacked.filter fun x => pick x.purpose
    let s := setFlow dst { f with unacked := f.unacked.filter fun x => !pick x.purpose } s
    pumpFlow dst (forEach gone (fun x => match x.purpose with
      | .shardWrite t => writeDone t
      | _ => id) s)

/-- A seal that waits for a partner that is gone takes effect, or its step stays abandoned. -/
def sealAlone (gid : Nat) (s : State) : State :=
  match findGroup s gid with
  | none => s
  | some g =>
    let s := updGroup gid (fun g => { g with swapDue := [] }) s
    match g.ops.find? fun o => isStep o && o.committed.isNone && o.sealSent.isSome with
    | none => settled gid s
    | some op =>
      let s := if op.abandon then updOp gid op.seq (fun o => { o with committed := some false }) s
        else if g.flipDue.isSome then s
        else flipNow gid (updGroup gid (fun g => { g with flipDue := some (dStep op.desc) }) s)
      settled gid s

/-- Another module is gone. -/
def othersGone (s : State) (m : Nat) : Bool := m != s.label && isGone s m

/-- Away: a module that is LOST or DRAINED, or RETURNED and not yet named by a RECAST. -/
def isAway (s : State) (m : Nat) : Bool := isGone s m || (tget .up s.course.faults m : FaultState) == .returned

/-- A module had handed its shards over before it went: it drained, or the group's RECAST moved them (R344, R348). -/
def hadHanded (s : State) (g : Group) (m : Nat) : Bool :=
  (tget .up s.course.faults m : FaultState) == .drained || g.handed.contains m

/-- The course of a module the group names is still PAIRED, or SOLO after a handover (R339): its own by COURSE_STATUS, and each
by the fault table (DEDUCED, log entry 31). -/
def courseStands (s : State) (g : Group) (x : Nat) : Bool :=
  let one (m : Nat) : Bool := m == s.label || !isAway s m || hadHanded s g m
  !(othersGone s x && othersGone s (x ^^^ 1)) && one x && one (x ^^^ 1) &&
  (decide (x / 2 ≠ s.label / 2) || s.course.state == .paired || s.course.state == .solo)

/-- A group goes on without a partner of its shards (R339). -/
def goesSolo (s : State) (g : Group) (m : Nat) : Bool :=
  !(coreModules g.record).contains m && (groupModules g.record).all (courseStands s g)

/-- A loss met by a group that names the module (R339, R332). -/
def groupMeets (m gid : Nat) (s : State) : State :=
  match findGroup s gid with
  | none => s
  | some g =>
    if !(groupModules g.record).contains m then s
    else match g.phase with
    | .casting =>
      if (coreModules g.record).contains m then
        (if coordinates s g then castAborts gid stPattern s else castEnds gid stPattern s)
      else castGoes gid s
    | .faulted => s
    | _ =>
      if goesSolo s g m then
        let s := updGroup gid (fun g => { g with handed := (g.handed ++ [m]).eraseDups }) s
        if m = s.partnerLabel then sealAlone gid s else s
      else faultGroup gid s

/-! ## The fault table (R338, R348) -/

def faultOf (s : State) (m : Nat) : FaultState := tget .up s.course.faults m

def setFault (m : Nat) (f : FaultState) (s : State) : State :=
  { s with course := { s.course with faults := tset .up s.course.faults m f } }

/-- A group here knows a shard that a module owns, not swapped to this one (DEDUCED, log entry 32). -/
def knownOwner (s : State) (m : Nat) : Bool :=
  s.groups.any fun g => (List.range g.record.shards.length).any fun k =>
    (entryOf g.record k).owner == m && !(g.shards.any fun sh => sh.index == k && sh.owner)

/-- A module enters LOST, or DRAINED where it had announced DRAINING and owns no shard; every group that names it meets the
loss. A notice that names this module changes its own entry alone (R338). A course whose partner has drained is SOLO, without a takeover (R348 step 6). -/
def markGone (m : Nat) (s : State) : State :=
  let f : FaultState := if faultOf s m = .draining && !knownOwner s m then .drained else .lost
  if isGone s m then s
  else if m = s.label then setFault m f s
  else
    let s := setFault m f s
    let s := if m = s.partnerLabel then
        let s := dropMirrors (fun p => match p with
          | .mirror _ _ _ | .shardWrite _ => true
          | _ => false) s
        let linked := s.course.state == .paired || s.course.state == .refill || s.course.state == .severed
        if f = .drained ∧ linked then { s with course := { s.course with state := .solo } } else s
      else s
    forEach (s.groups.map (·.id)) (groupMeets m) s

/-! ## Takeover (R337, R328) -/

/-- The lead's part taken by the standby lead, when the lead is this module's partner. -/
def takeLead (s : State) : State :=
  if leadOf s = s.partnerLabel then
    flood 0x16 s.label 0 0 { s with course := { s.course with leadNow := some (BitVec.ofNat 11 s.label) } }
  else s

/-- `seq` of a step's REDUCE_APPLY: as committed or posted here, else a FREE VALUE (log entry 110). -/
def seqOfStep (g : Group) (step : Nat) : Nat :=
  match g.stepSeqs.find? (·.1 == step) with
  | some q => q.2.1
  | none => match g.ops.find? fun o => isStep o && dStep o.desc == step with
    | some o => o.seq
    | none => Config.unpostedSeq g.id step % 2 ^ 32

/-- Reports of kind 1 for the steps sealed here, oldest first: the partner may have reported none of them (R337). -/
def reportSealed (g : Group) (s : State) : State :=
  forEach g.sealed.reverse (fun q s => sendReport (commitReport s g 1 (seqOfStep g q.1) q.1 0 q.2) s) s

/-- The partner's shards taken over: its SYMPATHETIC hanks become SHARD, but for those of a refill that has not sealed a
step, whose course is LOST (R354). -/
def takeOver (s : State) : State :=
  let part := s.groups.any fun g => (heldShards g false).any (·.refill)
  let st : CourseState := if s.course.state == .refill && s.course.refillHere && part then .lost else .solo
  let s := forEach s.groups (fun g s =>
    forEach (((heldShards g false).filter (!·.refill)).flatMap (stateHanks g)) (assignHank .shard) s) s
  let s := takeLead { s with course := { s.course with state := st, adopted := true, refillHere := false } }
  postEvent 0x0009 4 s.partnerLabel [] (forEach s.groups reportSealed s)

/-- A course that a takeover may end. -/
def mayTakeOver (s : State) : Bool :=
  !s.course.adopted &&
  (s.course.state == .paired || s.course.state == .refill || s.course.state == .severed)

/-- The loss is corroborated: declared here, and by another module's notice. -/
def takeoverCheck (s : State) : State :=
  let p := s.partnerLabel
  if s.course.ownLost.contains p && s.course.otherLost.contains p && mayTakeOver s then takeOver s else s

/-- TAKEOVER: the host's order, in place of corroboration. -/
def takeover (t : Tok) (s : State) : State :=
  if mayTakeOver s then ok t 0 [] (takeOver (markGone s.partnerLabel s)) else bad t dtState s

def execTakeover (sq : BitVec 8) (d : Desc) (s : State) : Host.Outcome State Fault Refusal :=
  .next (runCommand 0x29 sq d (fun t s => if dRsvdOk d [] then takeover t s else bad t dtReserved s) s)

/-- This module declares a neighbour lost: it floods MODULE_LOST (R281, R336). -/
def declareLost (m : Nat) (s : State) : State :=
  if s.course.ownLost.contains m then s
  else
    let s := { s with course := { s.course with
      ownLost := s.course.ownLost ++ [m]
      partnerLostAt := if m = s.partnerLabel then some s.clock.now else s.course.partnerLostAt } }
    takeoverCheck (markGone m (flood 0x10 m 0 0 s))

/-- A course without its partner for 1 ms, uncorroborated, is SEVERED (R337). -/
def severTimeout (s : State) : State :=
  match s.course.partnerLostAt with
  | some t =>
    if ticks1ms ≤ since s t ∧ (s.course.state = .paired ∨ s.course.state = .refill) then
      postEvent 0x0009 3 s.partnerLabel [] { s with course := { s.course with state := .severed } }
    else s
  | none => s

def execSeverTimeout (s : State) : Host.Outcome State Fault Refusal := .next (severTimeout s)

/-- A drone lane to a neighbour is back: RETURNED is flooded for one that was lost, and a SEVERED course is PAIRED again. -/
def neighbourBack (m : Nat) (s : State) : State :=
  let was := isGone s m
  let s := { s with course := { s.course with
    ownLost := s.course.ownLost.filter (· != m), otherLost := s.course.otherLost.filter (· != m)
    partnerLostAt := if m = s.partnerLabel then none else s.course.partnerLostAt } }
  let s := if was then flood 0x17 m 0 0 (setFault m .returned s) else s
  if m = s.partnerLabel ∧ was then
    let s := { s with course := { s.course with adopted := false } }
    if s.course.state = .severed then
      postEvent 0x0009 1 m [] { s with course := { s.course with state := .paired } }
    else s
  else s

/-! ## Notices received -/

def execModuleLost (lane : BitVec 5) (body : BitVec 192) (s : State) : Host.Outcome State Fault Refusal :=
  .next (hearFlood lane.toNat 0x10 body (fun s =>
    let m := uSubject body % 2048
    let s := if uOrigin body ≠ s.label ∧ m ≠ s.label ∧ !s.course.otherLost.contains m then
      { s with course := { s.course with otherLost := s.course.otherLost ++ [m] } } else s
    takeoverCheck (markGone m s)) s)

/-- ENDPOINT_LOST: the fault table has no entry for an endpoint; the host recovers (R351). -/
def execEndpointLost (lane : BitVec 5) (body : BitVec 192) (s : State) : Host.Outcome State Fault Refusal :=
  .next (hearFlood lane.toNat 0x11 body id s)

def execDraining (lane : BitVec 5) (body : BitVec 192) (s : State) : Host.Outcome State Fault Refusal :=
  .next (hearFlood lane.toNat 0x13 body (fun s =>
    let m := uSubject body % 2048
    if m ≠ s.label ∧ (faultOf s m = .up ∨ faultOf s m = .returned) then setFault m .draining s else s) s)

def execRisk (lane : BitVec 5) (body : BitVec 192) (s : State) : Host.Outcome State Fault Refusal :=
  .next (hearFlood lane.toNat 0x15 body id s)

/-- LEAD_TAKEN: later commit reports go to its origin (R328). -/
def execLeadTaken (lane : BitVec 5) (body : BitVec 192) (s : State) : Host.Outcome State Fault Refusal :=
  .next (hearFlood lane.toNat 0x16 body (fun s =>
    { s with course := { s.course with leadNow := some (BitVec.ofNat 11 (uOrigin body)) } }) s)

/-- RETURNED: one that names this module says that it holds no state until a RECAST names it (Table 11.7; log entry 80). -/
def execReturned (lane : BitVec 5) (body : BitVec 192) (s : State) : Host.Outcome State Fault Refusal :=
  .next (hearFlood lane.toNat 0x17 body (fun s =>
    let m := uSubject body % 2048
    if m = s.label then setFault m .returned { s with course := { s.course with back := true } }
    else if faultOf s m = .up then s
    else
      setFault m .returned { s with course := { s.course with
        ownLost := s.course.ownLost.filter (· != m), otherLost := s.course.otherLost.filter (· != m)
        adopted := s.course.adopted && m != s.partnerLabel } }) s)

/-! ## Shards and hanks lost (R35, R352) -/

/-- SHARD_LOST received: at the partner of its owner the copy becomes the shard; at an owner whose partner has lost the copy
the shard runs solo. -/
def hearShardLost (b : BitVec 192) (s : State) : State :=
  let gid := bits (uArg b) 23 0
  let k := bits (uArg b) 35 24
  match findGroup s gid with
  | none => s
  | some g => match g.shards.find? (·.index == k) with
    | none => s
    | some sh =>
      if uOrigin b ≠ s.partnerLabel then s
      else if sh.owner then
        let s := updShard gid k (fun sh => { sh with solo := true }) s
        settled gid (dropMirrors (fun p => match p with
          | .mirror q seq c => q == gid && (match findOp g seq with
            | some op => rootShard g.record op c == k
            | none => false)
          | _ => false) s)
      else forEach (stateHanks g sh) (assignHank .shard) s

def execShardLost (lane : BitVec 5) (body : BitVec 192) (s : State) : Host.Outcome State Fault Refusal :=
  .next (hearFlood lane.toNat 0x14 body (hearShardLost body) s)

/-- A shard lost here: no update reaches it again, and the notice goes out. Chunks of the running step that it has not
applied fail (log entry 36). -/
def loseShard (gid k : Nat) (s : State) : State :=
  let s := updShard gid k (fun sh => { sh with lost := true }) s
  let s := postEvent 0x000C gid k [] (flood 0x14 s.label 0 (gid + k * 2 ^ 24) s)
  match findGroup s gid with
  | none => s
  | some g =>
    let owned := g.shards.any fun sh => sh.index == k && sh.owner
    let s := match g.ops.find? fun o => isStep o && o.committed.isNone with
      | some op => if owned then
          forEach ((List.range op.chunks).filter fun c => rootShard g.record op c == k && !op.applied.contains c)
            (failChunk gid op.seq) s
        else s
      | none => s
    settled gid (sealNow gid s)

/-- An uncorrectable error in a hank (R35), which is RETIRED (R177). -/
def hankError (h : Nat) (s : State) : State :=
  match hankState s h with
  | .firmware => moduleReset 6 s
  | st =>
    let s := setHank .retired h s
    match s.groups.findSome? fun g => g.shards.findSome? fun sh =>
        if (stateHanks g sh).contains h then some (g.id, sh.index) else none with
    | some (gid, k) => if st = .shard ∨ st = .sympathetic then loseShard gid k s else s
    | none => dropLost 0 0 s

def execSkeinUncorrectableError (hank : BitVec 19) (s : State) : Host.Outcome State Fault Refusal :=
  .next (hankError hank.toNat s)

/-! ## Endpoints lost (R351) -/

/-- The second of the two modules to lose its port to an endpoint floods ENDPOINT_LOST; of equal times, the higher label
(DESIGN CHOICE, log entry 37). -/
def endpointCheck (e : Nat) (s : State) : State :=
  match s.course.epLost.find? (·.1 == e), s.course.epPartner.find? (·.1 == e) with
  | some a, some b =>
    if b.2 < a.2 ∨ (a.2 = b.2 ∧ s.partnerLabel < s.label) then flood 0x11 (0x8000 + e) 0 0 s else s
  | _, _ => s

/-- This module loses its port to an endpoint of its home course. -/
def loseEndpoint (e : Nat) (s : State) : State :=
  if s.course.epLost.any (·.1 == e) then s
  else
    let s := { s with course := { s.course with epLost := tins e (fabricTime s) s.course.epLost } }
    endpointCheck e (toPartner 0x12 (0x8000 + e) 0 0 s)

/-- The port to an endpoint is back. -/
def endpointBack (e : Nat) (s : State) : State :=
  { s with course := { s.course with epLost := tdel s.course.epLost e } }

def execEpPortLost (lane : BitVec 5) (body : BitVec 192) (s : State) : Host.Outcome State Fault Refusal :=
  .next (hearPartner lane.toNat (fun s =>
    let e := uSubject body % 2 ^ 15
    endpointCheck e { s with course := { s.course with
      epPartner := tins e (uTime body) (tdel s.course.epPartner e) } }) s)

/-! ## Evacuation (R344) -/

/-- A REDUCE_APPLY of the group is posted, and its step is open here in a role: in progress, or in the group's queue (R193). -/
def stepOpen (g : Group) (owner : Bool) : Bool :=
  applyQueuedUp g || g.ops.any fun o => isStep o && (if owner then o.committed.isNone else (partnerOutcome g o).isNone)

/-- The role swap of every group with shards in a role: at once, or at the end of the step. -/
def swapAll (owner : Bool) (s : State) : State :=
  forEach (s.groups.map (·.id)) (fun gid s => match findGroup s gid with
    | none => s
    | some g =>
      if (heldShards g owner).isEmpty then s
      else if stepOpen g owner then updGroup gid (fun g => { g with swapDue := (g.swapDue ++ [owner]).eraseDups }) s
      else swapRoles gid owner s) s

/-- The threshold of a level: 0 WATCH, 1 SECURE, 2 EVACUATE (Table 11.11). -/
def riskLevel (s : State) (l : Nat) : Nat := bits (setting s 0x50002) (8 * l + 7) (8 * l)

/-- EVAC_REQ to the partner. -/
def requestEvacuation (s : State) : State :=
  toPartner 0x1A s.label 0 0 { s with course := { s.course with evacSent := true } }

def execEvacuate (sq : BitVec 8) (d : Desc) (s : State) : Host.Outcome State Fault Refusal :=
  .next (runCommand 0x2A sq d (fun t s =>
    if !dRsvdOk d [] then bad t dtReserved s
    else if s.course.state ≠ .paired then bad t dtState s
    else ok t 0 [] (requestEvacuation s)) s)

/-- EVAC_REQ: answered, and where it is accepted the partner's shards are taken as its steps end. -/
def hearEvacReq (s : State) : State :=
  let thr := riskLevel s 2
  let no := s.course.state != .paired || s.course.draining || (thr != 0 && decide (thr ≤ s.course.risk.toNat))
  let s := toPartner 0x1B s.label (b2n no) 0 s
  if no then postEvent 0x0009 6 s.partnerLabel [] s
  else swapAll false { s with course := { s.course with evacuating := true } }

def execEvacReq (lane : BitVec 5) (_body : BitVec 192) (s : State) : Host.Outcome State Fault Refusal :=
  .next (hearPartner lane.toNat hearEvacReq s)

/-- EVAC_ACK: the swap begins, or the refusal is reported. -/
def hearEvacAck (cause : Nat) (s : State) : State :=
  if !s.course.evacSent then s
  else
    let s := { s with course := { s.course with evacSent := false } }
    if cause = 0 then swapAll true { s with course := { s.course with evacuating := true } }
    else postEvent 0x0009 6 s.partnerLabel [] s

def execEvacAck (lane : BitVec 5) (body : BitVec 192) (s : State) : Host.Outcome State Fault Refusal :=
  .next (hearPartner lane.toNat (hearEvacAck (uCause body)) s)

/-! ## Leaving (R348) -/

/-- DRAIN: the module enters DRAINING, floods it and evacuates what it owns. -/
def drain (t : Tok) (s : State) : State :=
  if s.course.draining then bad t dtState s
  else
    let s := flood 0x13 s.label 0 0 { s with course := { s.course with draining := true, drainTok := some t } }
    if s.groups.any fun g => !(heldShards g true).isEmpty then requestEvacuation s else s

def execDrain (sq : BitVec 8) (d : Desc) (s : State) : Host.Outcome State Fault Refusal :=
  .next (runCommand 0x2B sq d (fun t s => if dRsvdOk d [] then drain t s else bad t dtReserved s) s)

/-- Everything that DRAINED awaits. -/
def isDrained (s : State) : Bool :=
  s.course.draining && (s.groups.all fun g => (heldShards g true).isEmpty && g.phase != .active && g.phase != .binding) &&
  (drainingBank s).isNone && (residents s).isEmpty && decide (125000 ≤ since s s.routing.quietAt)

/-- DRAINED reported, and DRAIN completed. -/
def drainQuiescent (s : State) : State :=
  match s.course.drainTok with
  | some t =>
    if isDrained s then
      ok t 0 [] (postEvent 0x000B 0 0 [] { s with course := { s.course with drainTok := none, drained := true } })
    else s
  | none => s

def execDrainQuiescent (s : State) : Host.Outcome State Fault Refusal := .next (drainQuiescent s)

/-! ## The health risk estimate (R340, R341) -/

/-- The sum of the weighted inputs. -/
def riskInst (s : State) (x : List Nat) : Nat :=
  min 255 (((List.range 6).map fun i =>
    let w := bits (setting s 0x50000) (8 * i + 7) (8 * i)
    let k := bits (setting s 0x50001) (5 * i + 4) (5 * i)
    min 255 ((((x.getD i 0 % 2 ^ 32) >>> k) * w) >>> 4)).sum)

/-- A secure point of every group with shards here requested (R342). -/
def secureAll (s : State) : State :=
  forEach ((s.groups.filter fun g => !g.shards.isEmpty && g.phase != .casting).map (·.id)) requestSecure s

/-- What a level does. -/
def levelActs (l : Nat) (s : State) : State :=
  let s := flood 0x15 s.label (l + 1) s.course.risk.toNat s
  match l with
  | 0 => s
  | 1 => secureAll (toPartner 0x19 s.label 0 0 s)
  | _ => requestEvacuation s

/-- A level acts once when the estimate has risen to its threshold, and is armed again below it. -/
def checkLevel (l : Nat) (s : State) : State :=
  let thr := riskLevel s l
  let armed := s.course.armed.getD l true
  let risk := s.course.risk.toNat
  let arm (b : Bool) (s : State) : State := { s with course := { s.course with armed := s.course.armed.set l b } }
  if thr = 0 then s
  else if armed ∧ thr ≤ risk then arm false (levelActs l s)
  else if !armed ∧ risk + bits (setting s 0x50002) 39 32 < thr then arm true s
  else s

/-- The headstock's update at a fabric time that is a multiple of 1 ms, once; `celsius` is the highest junction temperature. -/
def riskUpdate (celsius : Nat) (s : State) : State :=
  let t := fabricTime s
  if t % ticks1ms ≠ 0 ∨ t = s.course.riskAt ∨ s.boot.life ≠ .running then s
  else
    let v := setting s 0x50002
    let x := s.course.inputs.set 3 (celsius - bits v 31 24)
    let risk := max (riskInst s x) (s.course.risk.toNat - bits v 47 40)
    let s := { s with course := { s.course with
      risk := BitVec.ofNat 8 risk, riskAt := t, inputs := [0, 0, 0, 0, 0, 0] } }
    forEach [0, 1, 2] checkLevel s

def execRiskUpdate (celsius : BitVec 8) (s : State) : Host.Outcome State Fault Refusal := .next (riskUpdate celsius.toNat s)

/-- SECURE_REQ: a secure point is taken here as well. -/
def execSecureReq (lane : BitVec 5) (_body : BitVec 192) (s : State) : Host.Outcome State Fault Refusal :=
  .next (hearPartner lane.toNat secureAll s)

end Sys2Proof.Machine
end

