-- ==== Sys2Proof/Machine/Boot.lean ====
section
/-!
DEFINITION. Reset release, firmware update, protection and attestation (14_boot_and_protection.md).
-/
namespace Sys2Proof.Machine

/-- Reset release (R443): every rail is in regulation and RESET_N is high; the boot ROM runs (R419). -/
def releaseReset (s : State) : State :=
  if s.boot.life = .inReset ∧ s.power.pwrgd then
    bootRom { s with power := { s.power with resetN := true, railsGood := true }, boot := { s.boot with justReset := false } }
  else s

def execResetRelease (s : State) : Host.Outcome State Fault Refusal := .next (releaseReset s)

/-! ## FW_UPDATE_CTRL (R420, R423) -/

/-- The slot is running (none runs in reset-hold). -/
def isRunning (s : State) (slot : Bool) : Bool := s.boot.life == .running && s.boot.slot == slot

def floorOf (s : State) : Nat := (bootControl s.flash).1.floor.toNat

def writeSlot (slot : Bool) (bs : List Byte) (s : State) : State :=
  { s with flash := if slot then { s.flash with slotB := bs } else { s.flash with slotA := bs } }

/-- STAGE begun (Table 14.6): the host's memory is read, and the operation is busy with what it holds. -/
def fwStage (h : HostRead) (s : State) : State :=
  let b := s.boot
  let len := b.fwLength.toNat
  if isRunning s b.fwSlot then fwResult 1 0x08 s
  else if !hostOk s then fwResult 1 0x06 s
  else match hostRead s b.fwAddr.toNat len h with
  | none => fwResult 1 0x06 (noteRead b.fwAddr.toNat len h s)
  | some bs =>
    if len ≠ 256 + imgBodyLen bs ∨ len < 256 then fwResult 1 0x02 s
    else
      { s with boot := { s.boot with
        busy := true, lastOp := 1, staging := some { slot := b.fwSlot, bytes := bs, phase := .verify } } }

/-- One part of a STAGE, which takes a tick (DESIGN CHOICE, log entry 8): the bytes are verified, the slot erased, written, read
back and verified again. Where the flash fails, the slot is left with its magic erased. -/
def stageStep (s : State) : State :=
  match s.boot.staging with
  | none => s
  | some g =>
    let next (p : StagePhase) (s : State) : State :=
      { s with boot := { s.boot with staging := some { g with phase := p } } }
    let fails := Config.flashFails s.clock.now
    match g.phase with
    | .verify =>
      let r := verifyImage s.flash (floorOf s) g.bytes
      if r ≠ 0 then fwResult 1 r (setResult g.slot r s) else next .erase s
    | .erase => next .write (writeSlot g.slot [] s)
    | .write => if fails then fwResult 1 0x07 s else next .check (writeSlot g.slot g.bytes s)
    | .check =>
      if fails then fwResult 1 0x07 (writeSlot g.slot [] s)
      else
        let r := verifyImage s.flash (floorOf s) (flashSlot s.flash g.slot)
        fwResult 1 r (setResult g.slot r s)

/-- TRIAL and SELECT (Table 14.6): the slot is verified, and the boot control record changed. -/
def fwChoose (op : Nat) (g : BootControl → BootControl) (s : State) : State :=
  let slot := s.boot.fwSlot
  if isRunning s slot then fwResult op 0x08 s
  else
    let r := verifyImage s.flash (floorOf s) (flashSlot s.flash slot)
    let s := setResult slot r s
    if r = 0 then fwResult op 0 (writeControl g s) else fwResult op r s

/-- The number of a slot in a boot control record. -/
def slotNo (slot : Bool) : BitVec 8 := if slot then 1 else 0

def fwTrial (s : State) : State :=
  fwChoose 2 (fun c => { c with trialSlot := slotNo s.boot.fwSlot, trialTries := true }) s

def fwSelect (s : State) : State :=
  fwChoose 4 (fun c => { c with preferred := s.boot.fwSlot, trialSlot := 0xFF, trialTries := false }) s

/-- COMMIT (Table 14.6): refused unless the running slot booted as a trial. -/
def fwCommit (s : State) : State :=
  if !s.boot.trial then fwResult 3 0x09 s
  else
    fwResult 3 0 (writeControl (fun c =>
      { c with preferred := s.boot.slot, trialSlot := 0xFF, trialTries := false
               floor := if s.boot.raiseFloor then s.boot.security else c.floor }) s)

/-- PROTECT (R423): besides the owner key of the block in force, the block's own signer key, under which R422 takes it at the next
reset, must verify it. The block in force is the one that the boot ROM took: an accepted block takes effect at the next module reset. -/
def fwProtect (h : HostRead) (s : State) : State :=
  if !hostOk s then fwResult 5 0x06 s
  else match hostRead s s.boot.fwAddr.toNat 4096 h with
  | none => fwResult 5 0x06 (noteRead s.boot.fwAddr.toNat 4096 h s)
  | some bs =>
    let cur := s.boot.prot
    let src := s.boot.protSrc
    let key := protKey (if src = 0 then bs else cur) (protSigner bs)
    if protChecks s.flash.identity.serial bs &&
        (src == 0 || decide (protGen cur < protGen bs ∧ protSigner bs < leAt cur 8 1)) && protSigned bs key &&
        protSigned bs (protKey bs (protSigner bs)) then
      fwResult 5 0 { s with flash := if src = 1 then { s.flash with prot1 := bs } else { s.flash with prot0 := bs } }
    else fwResult 5 0x0A s

/-- The fields of FW_UPDATE_CTRL stored. -/
def fwFields (v : Nat) (s : State) : State :=
  { s with boot := { s.boot with
    raiseFloor := bit v 63, fwLength := BitVec.ofNat 24 (bits v 55 32), fwSlot := bit v 8 } }

/-- A write of FW_UPDATE_CTRL (R420): ignored while an operation runs; in reset-hold only STAGE and SELECT are served, and without
firmware or boot ROM none (R414). Every operation but STAGE runs to its end within the write (DESIGN CHOICE, log entry 8). -/
def fwUpdate (op v : Nat) (h : HostRead) (s : State) : State :=
  if !hostUp s then s
  else if s.boot.busy then { s with boot := { s.boot with overrun := true } }
  else
    let s := fwFields v s
    if s.boot.life = .resetHold ∧ op ≠ 1 ∧ op ≠ 4 ∧ 1 ≤ op ∧ op ≤ 5 then fwResult op 0x02 s
    else match op with
    | 1 => fwStage h s
    | 2 => fwTrial s
    | 3 => fwCommit s
    | 4 => fwSelect s
    | 5 => fwProtect h s
    | _ => s

def execStage (value : BitVec 64) (host : HostRead) (s : State) : Host.Outcome State Fault Refusal :=
  .next (fwUpdate 1 value.toNat host s)

def execTrial (value : BitVec 64) (s : State) : Host.Outcome State Fault Refusal :=
  .next (fwUpdate 2 value.toNat none s)

def execCommit (value : BitVec 64) (s : State) : Host.Outcome State Fault Refusal :=
  .next (fwUpdate 3 value.toNat none s)

def execSelect (value : BitVec 64) (s : State) : Host.Outcome State Fault Refusal :=
  .next (fwUpdate 4 value.toNat none s)

def execProtect (value : BitVec 64) (host : HostRead) (s : State) : Host.Outcome State Fault Refusal :=
  .next (fwUpdate 5 value.toNat host s)

/-! ## Attestation (R427, Table 14.10) -/

/-- Bytes 0 to 191 of an attestation report. -/
def attestBody (s : State) : List Byte :=
  let i := s.flash.identity
  let b := s.boot
  leBytes 2 1 ++ leBytes 1 (b2n b.slot) ++ leBytes 1 i.config.code ++ leBytes 1 (b2n i.gradeH) ++ [0x11] ++
    leBytes 2 (b2n b.trial + 2 * b2n b.fellBack) ++ leBytes 8 i.serial.toNat ++ leBytes 4 b.build.toNat ++
    leBytes 4 b.security.toNat ++ leBytes 8 (validTime s) ++ leBytes 32 b.nonce.toNat ++ leBytes 64 b.digest.toNat ++
    (if b.prot.isEmpty then leBytes 64 0 else sha512 b.prot)

/-- `go` written: a report is in progress; or `att_err` where the module has no valid identity (R426). The signing unit is the
firmware's: without it nothing happens (R419). -/
def attest (s : State) : State :=
  if s.boot.attBusy ∨ s.boot.life ≠ .running then s
  else if !s.boot.idValid then { s with boot := { s.boot with attDone := false, attErr := true } }
  else { s with boot := { s.boot with attBusy := true, attDone := false, attErr := false } }

/-- The report over the nonce made and signed, in the tick after `go` (DESIGN CHOICE, log entry 8). -/
def attestStep (s : State) : State :=
  if s.boot.attBusy then
    let body := attestBody s
    { s with boot := { s.boot with
      report := body ++ edSign s.flash.identity.seed body, attBusy := false, attDone := true } }
  else s

/-- A write of ATTEST_CTRL with `go`. -/
def execAttestGo (value : BitVec 32) (s : State) : Host.Outcome State Fault Refusal :=
  .next (if bit value.toNat 0 then attest s else s)

end Sys2Proof.Machine
end

