-- ==== Sys2Proof/Machine/PowerThermal.lean ====
section
/-!
DEFINITION. Power, reset causes, droop, throttles, junction limits and the management port
(16_power_and_package.md).
-/
namespace Sys2Proof.Machine

/-- A POWER event (R450). -/
def powerEvent (code value : Nat) (s : State) : State := postEvent 0x000F code value [] s

/-! ## Power and reset (R440, R443, R444, R20, R33) -/

/-- PWRGD rises (Table 16.2): the rails come up, and the module awaits reset release as after power-on. -/
def powerUp (s : State) : State :=
  if s.power.pwrgd && s.boot.life != .off then s
  else
    let z := moduleReset 1 s
    { z with
      boot := { z.boot with life := .inReset, lastReset := 1 }
      power := { z.power with pwrgd := true, railsGood := false, thermTrip := false, smbAlert := false } }

def execPwrgdRise (s : State) : Host.Outcome State Fault Refusal := .next (powerUp s)

/-- Every rail turned off with cause 1 until PWRGD rises again (R443); SMB_ALERT_N is at high impedance (Table 16.5). -/
def powerDown (pwrgd : Bool) (s : State) : State :=
  let z := moduleReset 1 s
  { z with boot := { z.boot with life := .off }, power := { z.power with pwrgd := pwrgd, railsGood := false, smbAlert := false } }

def execPwrgdFall (s : State) : Host.Outcome State Fault Refusal := .next (powerDown false s)

/-- The input out of range (R440): `vin` in units of 10 mV, beyond the range for the time R440 states. -/
def execInputOutOfRange (vin : BitVec 16) (s : State) : Host.Outcome State Fault Refusal :=
  .next (if vin.toNat < 4000 ∨ 5800 < vin.toNat then powerDown s.power.pwrgd s else s)

/-- The rails are coming up, or are off (R443). -/
def inBringUp (s : State) : Bool := s.boot.life == .off || (s.boot.life == .inReset && !s.power.railsGood)

/-- RESET_N low: cause 2. While the rails are off or coming up it only delays reset release (R443). -/
def resetInput (s : State) : State :=
  let z := if inBringUp s then s else moduleReset 2 s
  { z with power := { z.power with resetN := false } }

def execResetNLow (s : State) : Host.Outcome State Fault Refusal := .next (resetInput s)

/-- 10 ms, in ticks. -/
def ticks10ms : Nat := 12500000

/-- The watchdog, armed at firmware start (R419), has had no service from a core for 10 ms (R20). -/
def serviceMissed (s : State) (core : Nat) : Bool :=
  s.boot.life == .running && decide (ticks10ms ≤ since s (s.boot.serviced.getD core 0))

/-- The watchdog misses a core's service: cause 4. -/
def execWatchdogExpiry (core : BitVec 2) (s : State) : Host.Outcome State Fault Refusal :=
  .next (if serviceMissed s core.toNat then moduleReset 4 s else s)

/-- An uncorrectable error in headstock SRAM (Table 1.6): cause 5. -/
def execHeadstockSramError (s : State) : Host.Outcome State Fault Refusal := .next (poweredReset 5 s)

/-- The core rail out of regulation (R19): cause 7. -/
def coreRailFault (s : State) : State :=
  let z := poweredReset 7 s
  { z with power := { z.power with railsGood := false } }

def execCoreRailFault (s : State) : Host.Outcome State Fault Refusal := .next (coreRailFault s)

/-! ## Droops (R445, R446) -/

/-- A droop begins where the input falls below `droop_cv`: counted, an input of the health risk estimate (input 4 of R340), the
droop throttle within 2 µs, unless it is still engaged, and the droop's event, which names the lowest input of its first 10 µs. -/
def droopBegin (lowest : Nat) (s : State) : State :=
  if s.power.drooping ∨ s.power.droopCv.toNat ≤ lowest then s
  else
    let t := { s with
      power := { s.power with droops := satInc s.power.droops, drooping := true, droopThr := true }
      course := { s.course with inputs := s.course.inputs.set 4 (s.course.inputs.getD 4 0 + 1) } }
    powerEvent 1 lowest (if s.power.droopThr then t else powerEvent 2 4 t)

def execDroopBegin (lowest : BitVec 16) (s : State) : Host.Outcome State Fault Refusal :=
  .next (droopBegin lowest.toNat s)

/-- A droop ends when the input rises above `droop_cv` + 0.5 V. -/
def execDroopEnd (vin : BitVec 16) (s : State) : Host.Outcome State Fault Refusal :=
  .next (if s.power.drooping ∧ s.power.droopCv.toNat + 50 < vin.toNat then
    { s with power := { s.power with drooping := false, droopEndAt := s.clock.now } } else s)

/-- The droop throttle releases 100 µs after the droop ends. -/
def execDroopThrottleRelease (s : State) : Host.Outcome State Fault Refusal :=
  .next (if s.power.droopThr ∧ ¬ s.power.drooping ∧ 125000 ≤ since s s.power.droopEndAt then
    powerEvent 3 4 { s with power := { s.power with droopThr := false } } else s)

/-! ## Power and thermal throttles (R446) -/

/-- Average input power above the maximum of Table 0.1. -/
def execPowerThrottleEngage (watts : BitVec 16) (s : State) : Host.Outcome State Fault Refusal :=
  .next (if ¬ s.power.powerThr ∧ s.config.maxPower < watts.toNat then
    powerEvent 2 1 { s with power := { s.power with powerThr := true } } else s)

/-- The unthrottled demand below the maximum for 1 ms. -/
def execPowerThrottleRelease (watts : BitVec 16) (s : State) : Host.Outcome State Fault Refusal :=
  .next (if s.power.powerThr ∧ watts.toNat < s.config.maxPower then
    powerEvent 3 1 { s with power := { s.power with powerThr := false } } else s)

/-- The compute-die junction above `tj_throttle`. -/
def execThermalThrottleEngage (compute : BitVec 8) (s : State) : Host.Outcome State Fault Refusal :=
  .next (if ¬ s.power.thermThr ∧ s.power.tjThrottle.toNat < compute.toNat then
    powerEvent 2 2 { s with power := { s.power with thermThr := true } } else s)

/-- The junction 3 K below `tj_throttle` for 1 ms. -/
def execThermalThrottleRelease (compute : BitVec 8) (s : State) : Host.Outcome State Fault Refusal :=
  .next (if s.power.thermThr ∧ compute.toNat + 3 ≤ s.power.tjThrottle.toNat then
    powerEvent 3 2 { s with power := { s.power with thermThr := false } } else s)

/-! ## Junction limits (R447, Table 16.3) -/

/-- A part's number in a POWER event. -/
def junctionNo : Junction → Nat
  | .compute => 0
  | .bridge => 1
  | .skein => 2
/-- Warning limits in °C. -/
def warnLimit : Junction → Nat
  | .compute => 105
  | .bridge => 100
  | .skein => 90
/-- Trip limits in °C. -/
def tripLimit : Junction → Nat
  | .compute => 110
  | .bridge => 110
  | .skein => 100

/-- A junction reaches its warning limit; with the rails off nothing is driven (Table 16.5). -/
def execThermalWarning (part : Junction) (celsius : BitVec 8) (s : State) : Host.Outcome State Fault Refusal :=
  .next (if warnLimit part ≤ celsius.toNat ∧ s.boot.life ≠ .off then
    powerEvent 4 (junctionNo part) { s with power := { s.power with smbAlert := true } } else s)

/-- A junction reaches its trip limit: the core rail off, a reset with cause 7, and `therm_trip`. -/
def thermalTrip (s : State) : State :=
  let z := moduleReset 7 s
  { z with boot := { z.boot with life := .tripped }
           power := { z.power with railsGood := false, thermTrip := true, smbAlert := true } }

def execThermalTrip (part : Junction) (celsius : BitVec 8) (s : State) : Host.Outcome State Fault Refusal :=
  .next (if tripLimit part ≤ celsius.toNat ∧ s.boot.life ≠ .off then thermalTrip s else s)

/-- Every junction at least 20 K below its trip limit: the module restarts from reset release, which RESET_N still may
delay. -/
def execThermalTripRecovery (compute bridge skein : BitVec 8) (s : State) : Host.Outcome State Fault Refusal :=
  .next (if s.boot.life = .tripped ∧ compute.toNat ≤ 90 ∧ bridge.toNat ≤ 90 ∧ skein.toNat ≤ 80 then
    let s := { s with boot := { s.boot with life := .inReset }, power := { s.power with railsGood := true } }
    if s.power.resetN then releaseReset s else s
  else s)

/-- The measured rate has stayed below 1.2 G handshakes/s for 1 ms (R25): the event with the rate, and input 5 of the
health risk estimate (R340). It is raised again after another such millisecond. -/
def rateLow (n : Nat) (s : State) : State :=
  postEvent 0x0006 n 0 [] { s with
    perf := { s.perf with lowFor := 0 }
    course := { s.course with inputs := s.course.inputs.set 5 1 } }

/-- RATE_LOW carries the rate measured, `rate_last`; it stands once that has been low for 1,000 whole microseconds. -/
def execRateLow (perMicrosecond : BitVec 32) (s : State) : Host.Outcome State Fault Refusal :=
  .next (if 1000 ≤ s.perf.lowFor ∧ perMicrosecond = s.perf.rateLast then rateLow perMicrosecond.toNat s else s)

/-! ## Management port (R451) -/

/-- The port's 7-bit address (R451). -/
def smbAddress (s : State) : BitVec 7 := 0x58 + s.power.smbAddr.setWidth 7

/-- The Packet Error Code of a read: CRC-8 over the address to write, the command, the address to read, the byte count of a block
read, and the data (System Management Bus Specification; PRESUMED, log entry 117). -/
def pecOf (s : State) (code : Byte) (block : Bool) (bs : List Byte) : Byte :=
  let a := BitVec.ofNat 8 (2 * (smbAddress s).toNat)
  crc8 ([a, code, a + 1] ++ (if block then leBytes 1 bs.length else []) ++ bs)

/-- The port answers a read while PWRGD is high; it does not answer at all while PWRGD is low (Table 16.5). -/
def mgmtReply (code : Byte) (block : Bool) (bs : List Byte) (s : State) : State :=
  if s.power.pwrgd then
    { s with out := { s.out with mgmt := s.out.mgmt ++ [bs], mgmtPec := s.out.mgmtPec ++ [pecOf s code block bs] } }
  else s

/-- The port does not acknowledge: an empty answer. -/
def mgmtNack (s : State) : State :=
  if s.power.pwrgd then { s with out := { s.out with mgmt := s.out.mgmt ++ [[]] } } else s

/-- MODULE_INFO (Table 13.4). -/
def moduleInfo (s : State) : Nat :=
  leNat [BitVec.ofNat 8 s.config.code, BitVec.ofNat 8 s.config.bridges, BitVec.ofNat 8 s.config.skeins,
    BitVec.ofNat 8 (b2n s.flash.identity.gradeH), BitVec.ofNat 8 s.columns, 0x11]

/-- The STATUS byte of Table 16.11. -/
def statusByte (s : State) : Nat :=
  b2n s.power.railsGood + 2 * b2n (s.boot.life == .inReset || s.boot.life == .tripped || s.boot.life == .off) +
    4 * b2n (s.boot.life == .resetHold) + 8 * b2n s.power.thermTrip + 16 * b2n (throttled s)

/-- STATUS: the byte, and SMB_ALERT_N released. -/
def execStatus (s : State) : Host.Outcome State Fault Refusal :=
  .next (mgmtReply 0x01 false (leBytes 1 (statusByte s)) { s with power := { s.power with smbAlert := s.power.smbAlert && !s.power.pwrgd } })

/-- VIN; the reading is the sensor's, and PWR_STATUS holds it (log entry 9). -/
def execVin (sample : BitVec 16) (s : State) : Host.Outcome State Fault Refusal :=
  .next (mgmtReply 0x02 false (leBytes 2 sample.toNat) { s with power := { s.power with vin := sample } })

def execIin (sample : BitVec 16) (s : State) : Host.Outcome State Fault Refusal :=
  .next (mgmtReply 0x03 false (leBytes 2 sample.toNat) { s with power := { s.power with iin := sample } })

def execPin (sample : BitVec 16) (s : State) : Host.Outcome State Fault Refusal :=
  .next (mgmtReply 0x04 false (leBytes 2 sample.toNat) { s with power := { s.power with pin := sample } })

def execTj (compute bridge skein : BitVec 8) (s : State) : Host.Outcome State Fault Refusal :=
  .next (mgmtReply 0x05 true [compute, bridge, skein]
    { s with power := { s.power with tjCompute := compute, tjBridge := bridge, tjSkein := skein } })

def execBoot (s : State) : Host.Outcome State Fault Refusal :=
  .next (mgmtReply 0x06 true [s.boot.stage.setWidth 8, s.boot.lastReset, s.boot.resultA, s.boot.resultB] s)

def execSerial (s : State) : Host.Outcome State Fault Refusal :=
  .next (mgmtReply 0x07 true (leBytes 8 s.flash.identity.serial.toNat) s)

def execInfo (s : State) : Host.Outcome State Fault Refusal := .next (mgmtReply 0x08 true (leBytes 8 (moduleInfo s)) s)

/-- BUILD: 0 while no firmware runs. -/
def execBuild (s : State) : Host.Outcome State Fault Refusal :=
  .next (mgmtReply 0x09 true (leBytes 4 (if s.boot.life = .running then s.boot.build.toNat else 0)) s)

/-- A write to the port's address: NACKed, but for the bare command code of a read (Table 16.11). A message to another address is not
answered. -/
def execSmbusWrite (message : SmbusWrite) (s : State) : Host.Outcome State Fault Refusal :=
  let code := message.command.toNat
  .next (if message.address ≠ smbAddress s ∨ (1 ≤ code ∧ code ≤ 9 ∧ message.data = []) then s else mgmtNack s)

end Sys2Proof.Machine
end

