-- ==== Sys2Proof/Machine/Perf.lean ====
section
/-!
DEFINITION. Performance counters and their dumps (R428 to R439), the queue captures of R321 and the sample ring's
records (R320, R410).
-/
namespace Sys2Proof.Machine

/-! ## Selectors (R434) -/

/-- Event codes of Table 15.3. -/
def eventCodes : List Nat :=
  [0x01, 0x02, 0x03, 0x04, 0x05, 0x06, 0x07, 0x08, 0x09, 0x0A, 0x0B, 0x0C, 0x0D, 0x0E, 0x10, 0x11, 0x12, 0x20, 0x21,
   0x22, 0x23, 0x30, 0x31, 0x40]

/-- A value that PERF_SEL_n takes. -/
def selOk (v : Nat) : Bool :=
  bits v 62 51 == 0 && bits v 30 22 == 0 && bits v 12 8 == 0 && bits v 47 46 != 3 && eventCodes.contains (bits v 7 0)
/-- A value that PERF_ADDR_n takes. -/
def addrOk (v : Nat) : Bool := bits v 62 51 == 0 && bits v 31 19 == 0 && decide (bits v 18 0 ≤ bits v 50 32)

/-- A write of PERF_SEL_n or PERF_ADDR_n: held, or ignored with `sel_err`. -/
def writeSelector (n : Nat) (addr : Bool) (v : BitVec 64) (s : State) : State :=
  let p := s.perf
  if addr then
    if addrOk v.toNat then { s with perf := { p with heldAddr := (tdel p.heldAddr n) |> tins n v } }
    else { s with perf := { p with selErr := true } }
  else if selOk v.toNat then { s with perf := { p with heldSel := (tdel p.heldSel n) |> tins n v } }
  else { s with perf := { p with selErr := true } }

def execPerfSelWrite (n : BitVec 6) (addr : Bool) (value : BitVec 64) (s : State) : Host.Outcome State Fault Refusal :=
  .next (hostAccess (writeSelector n.toNat addr value) s)

/-! ## The dump ring (R437) -/

/-- Length of each record section (Table 15.10). -/
def sectionLen : Nat → Nat
  | 0 => 64
  | 1 => 64
  | 2 => 512
  | 3 => 8192
  | 4 => 18432
  | 5 => 65536
  | _ => 256

/-- Record bytes of a `sections` field; section 0 is always present. -/
def recordLen (sections : Nat) : Nat :=
  ((List.range 7).map fun k => if k = 0 ∨ bit sections k then sectionLen k else 0).sum

/-- A write of PERF_DUMP_CTRL (R437). Table 13.15 has no code for an `interval` out of range: it is 0x01, and the fields are judged
in the order in which Table 15.9 lists the codes (DESIGN CHOICE, log entry 112). While time is not valid no tick counts as the
enable's (R435). -/
def writeDumpCtrl (v : Nat) (s : State) : State :=
  let p := s.perf
  if !bit v 63 then
    let p := if p.enable then p else
      { p with sections := BitVec.ofNat 7 (bits v 54 48 ||| 1), slotSize := BitVec.ofNat 6 (bits v 45 40)
               interval := BitVec.ofNat 20 (bits v 39 20), size := BitVec.ofNat 17 v }
    { s with perf := { p with enable := false, active := false, capture := none, waitRec := none } }
  else if p.enable then s
  else
    let p := { p with sections := BitVec.ofNat 7 (bits v 54 48 ||| 1), slotSize := BitVec.ofNat 6 (bits v 45 40)
                      interval := BitVec.ofNat 20 (bits v 39 20), size := BitVec.ofNat 17 v }
    let slotOk := decide (1 ≤ p.slotSize.toNat ∧ p.slotSize.toNat ≤ 32 ∧ recordLen p.sections.toNat ≤ p.slotSize.toNat * 4096)
    let q :=
      if !ringSizeOk p.size.toNat then { p with err := 0x01 }
      else if p.base = 0 then { p with err := 0x02 }
      else if !slotOk then { p with err := 0x07 }
      else if p.interval.toNat < 1 ∨ 1000000 < p.interval.toNat then { p with err := 0x01 }
      else { p with enable := true, active := true, err := 0, head := 0, tail := 0, dumpSeq := 0, missedRec := 0, capture := none, waitRec := none
                    lastDump := if s.clock.timeValid then BitVec.ofNat 64 (fabricTime s) else BitVec.allOnes 64 }
    { s with perf := q }

def execPerfDumpEnable (value : BitVec 64) (s : State) : Host.Outcome State Fault Refusal :=
  .next (hostAccess (writeDumpCtrl value.toNat) s)

def execPerfDumpHeadWrite (value : BitVec 64) (s : State) : Host.Outcome State Fault Refusal :=
  .next (hostAccess (fun s => { s with perf := { s.perf with head := BitVec.ofNat 16 value.toNat } }) s)

/-! ## A record (Tables 15.10 to 15.12) -/

/-- A number in n bytes, saturating. -/
def satBytes (n v : Nat) : List Byte := leBytes n (min v (256 ^ n - 1))

/-- Section 1. -/
def slotSection (s : State) : List Byte :=
  let p := s.perf
  leBytes 8 p.retired.toNat ++ leBytes 8 p.wasted.toNat ++ leBytes 8 p.front.toNat ++ leBytes 8 p.back.toNat ++
    leBytes 8 p.handshakes.toNat ++ leBytes 4 p.rateLast.toNat ++ leBytes 4 s.columns ++ leBytes 16 0

/-- Section 2. -/
def counterSection (s : State) : List Byte :=
  (List.range 64).flatMap fun n => leBytes 8 (tget 0 s.perf.cnt n).toNat

/-- Section 3. -/
def portSection (s : State) : List Byte :=
  (List.range 128).flatMap fun p =>
    let c := (getPort s p).counts
    [c.pktRx, c.pktTx, c.bytesRx, c.bytesTx, c.symbols, c.replays, c.dropped, c.aged].flatMap fun x => leBytes 8 x.toNat

/-- Packets and bytes queued on a sub-lane of a port. -/
def queueBytes (q : List QPkt) : Nat := (q.map fun x => packetSize x.pkt).sum

/-- Section 4: the five values of R321. -/
def queueSection (s : State) : List Byte :=
  (List.range 128).flatMap fun p => (List.range 9).flatMap fun k =>
    let q := queueOf s p k
    let st : QueueStat := tget {} (getPort s p).stats k
    satBytes 2 q.length ++ satBytes 2 (ceilDiv (queueBytes q) 256) ++ satBytes 2 (max st.depthMax q.length) ++
      leBytes 2 0 ++ satBytes 4 st.delayLast ++ satBytes 4 (max st.delayMax st.delayLast)

/-- Section 5. -/
def meterSection (s : State) : List Byte :=
  (List.range 1024).flatMap fun n =>
    let m : Meter := tget {} s.traffic.meters n
    [m.green, m.yellow, m.red, m.greenB, m.yellowB, m.redB, m.discards, 0].flatMap fun x => leBytes 8 x.toNat

/-- Hanks in a state of Table 6.3. -/
def hankCount (s : State) (st : HankState) : Nat :=
  if st = .free then s.config.skeins * hanksPerSkein - s.skein.hanks.length
  else (s.skein.hanks.filter fun q => q.2 == st).length

/-- Section 6. -/
def moduleSection (s : State) : List Byte :=
  ([HankState.free, .firmware, .staging, .shard, .sympathetic, .snapshot, .retired].flatMap fun h =>
      leBytes 4 (hankCount s h)) ++
    leBytes 4 s.skein.offSkein.toNat ++ ((List.range 4).flatMap fun n => leBytes 8 (getPool s n).refused.toNat) ++
    leBytes 8 s.pools.doubleFree.toNat ++ (s.routing.adapt.flatMap fun x => leBytes 8 x.toNat) ++
    (s.routing.fallback.flatMap fun x => leBytes 8 x.toNat) ++ leBytes 8 s.routing.inboxLost.toNat ++
    leBytes 8 s.traffic.samplesLost.toNat ++ leBytes 120 0

/-- Section 0. -/
def headerSection (s : State) : List Byte :=
  let p := s.perf
  leBytes 8 p.dumpSeq.toNat ++ leBytes 8 (fabricTime s) ++ leBytes 4 p.interval.toNat ++ leBytes 4 p.missedRec.toNat ++
    leBytes 1 p.sections.toNat ++ leBytes 3 0 ++ leBytes 4 (recordLen p.sections.toNat) ++ leBytes 2 s.label ++
    leBytes 1 s.config.code ++ leBytes 1 (b2n s.flash.identity.gradeH) ++ leBytes 4 s.boot.build.toNat ++ leBytes 24 0

/-- A dump record. -/
def dumpRecord (s : State) : List Byte :=
  let on (k : Nat) (bs : List Byte) : List Byte := if bit s.perf.sections.toNat k then bs else []
  headerSection s ++ on 1 (slotSection s) ++ on 2 (counterSection s) ++ on 3 (portSection s) ++ on 4 (queueSection s) ++
    on 5 (meterSection s) ++ on 6 (moduleSection s)

/-! ## Dump ticks (R435 to R438) -/

/-- The running tick is a dump tick (R435) that has not been served. -/
def isDumpTick (s : State) : Bool :=
  s.perf.active && s.clock.timeValid && fabricTime s % (s.perf.interval.toNat * 1250) == 0 &&
    decide (s.perf.lastDump.toNat ≠ fabricTime s)

/-- The slot at `tail` is released: not every slot but one is in use (R438). -/
def dumpRoom (s : State) : Bool :=
  decide ((s.perf.tail.toNat + 1) % s.perf.size.toNat ≠ s.perf.head.toNat)

/-- `depth_max` and `delay_max` restart from the current values (R321). -/
def restartCaptures (s : State) : State :=
  { s with ports := tmap {} (fun p => { p with stats := tmap {} id (p.stats.map fun (q : Nat × QueueStat) =>
      (q.1, { q.2 with depthMax := (tget [] p.queues q.1).length, delayMax := q.2.delayLast })) }) s.ports }

/-- The state at a dump tick, one more of them served. -/
def atDump (s : State) : State :=
  { s with perf := { s.perf with dumpSeq := s.perf.dumpSeq + 1, lastDump := BitVec.ofNat 64 (fabricTime s) } }

/-- The record of a dump tick taken as the tick begins, and then the held selectors in force (R434, R436). -/
def takeRecord (s : State) : State :=
  if isDumpTick s then
    applySelectors (restartCaptures { s with perf := { s.perf with capture := some (dumpRecord (atDump s)) } })
  else { s with perf := { s.perf with capture := none } }

/-- Fabric time moved within a tick: `rate_last`, and the record of the dump tick that it has come to (R431, R436). -/
def timeMoved (old : Nat) (s : State) : State :=
  if fabricTime s = old then s
  else
    let s := tickRate old s
    if s.perf.active then takeRecord s else s

/-- The record of a dump tick for which there is room: written, or waiting while host memory is closed (R388; DESIGN CHOICE, log
entry 112). -/
def placeRecord (bs : List Byte) (s : State) : State :=
  let s := { s with perf := { s.perf with missedRec := 0 } }
  if hostOk s then writeRecord bs s else { s with perf := { s.perf with waitRec := some bs } }

/-- A dump tick: its record placed, or the tick skipped where its slot is not released or the last record is not yet written
(R438). The record is that of the tick's beginning, or of now where fabric time has come to a dump tick within the tick. -/
def dump (s : State) : State :=
  if isDumpTick s then
    let (bs, s) := match s.perf.capture with
      | some bs => (bs, atDump { s with perf := { s.perf with capture := none } })
      | none => (dumpRecord (atDump s), applySelectors (restartCaptures (atDump s)))
    if s.perf.waitRec.isNone && dumpRoom s then placeRecord bs s
    else { s with perf := { s.perf with missed := satInc s.perf.missed, missedRec := satInc s.perf.missedRec } }
  else s

def execDumpTick (s : State) : Host.Outcome State Fault Refusal := .next (dump s)

/-! ## Samples (R320, R410) -/

/-- A slot of the sample ring is released. -/
def sampleRoom (s : State) : Bool :=
  let r := s.host.sample
  r.active && hostOk s && decide ((r.tail.toNat + 1) % r.size.toNat ≠ r.head.toNat)

/-- The next sample by time, ties in ascending port. -/
def nextSample : List Sample → Option Sample
  | [] => none
  | x :: xs => match nextSample xs with
    | none => some x
    | some y => some (if y.time < x.time ∨ (y.time = x.time ∧ y.port < x.port) then y else x)

/-- A sample lost, counted for the next record of its sampler (R320). -/
def loseSample (port : Nat) (s : State) : State :=
  updPort port (fun p => { p with smpLost := satInc p.smpLost })
    { s with traffic := { s.traffic with samplesLost := s.traffic.samplesLost + 1 } }

/-- One record written to the sample ring, bytes 0 to 254 then byte 255 (R410), or lost when the ring is full. While
host memory may not be written the sample waits (R388). -/
def writeSample (s : State) : State :=
  match nextSample s.traffic.samples with
  | none => s
  | some x =>
    let take (s : State) : State :=
      freeCell 0 x.cell false { s with traffic := { s.traffic with samples := s.traffic.samples.erase x } }
    let r := s.host.sample
    if !hostOk s then s
    else if sampleRoom s then
      let addr := r.base.toNat + 256 * r.tail.toNat
      let last := r.tail.toNat + 1 == r.size.toNat
      let lost := (getPort s x.port).smpLost.toNat
      let bs := slice x.bytes 0 20 ++ leBytes 4 lost ++ slice (x.bytes.drop 24) 0 168
      let s := updPort x.port (fun p => { p with smpLost := 0 }) (take s) |> hostWrite addr (bs ++ leBytes 63 0) |>
        hostWrite (addr + 255) (leBytes 1 (b2n !r.oddPass))
      { s with host := { s.host with sample := { r with
        tail := if last then 0 else r.tail + 1, oddPass := if last then !r.oddPass else r.oddPass } } }
    else loseSample x.port (take s)

def execSampleRecordWrite (s : State) : Host.Outcome State Fault Refusal := .next (writeSample s)

end Sys2Proof.Machine
end

