-- ==== Sys2Proof/Machine/Arrivals.lean ====
section
/-!
DEFINITION. Packets that arrive on a port and packets that wait in its queues: the checks of R213 and R236, sampling
(R319, R320), the return of credits (R208), age limits (R316 to R318) and the move to the escape path (R249).
-/
namespace Sys2Proof.Machine

/-! ## Sampling (R319, R320) -/

/-- A sample record (Table 10.11), its `lost` still 0; `time` is that of the packet's first word. -/
def sampleRecord (egress : Bool) (port : Nat) (p : Packet) (crc mal : Bool) (depth no time : Nat) : List Byte :=
  let copy := (packetBytes p).take 128
  leBytes 8 time ++ leBytes 1 port ++ leBytes 1 (b2n egress + 2 * b2n crc + 4 * b2n mal) ++
    leBytes 1 ((sublane p).getD 0xFF) ++ [0] ++ leBytes 4 (packetSize p) ++ leBytes 2 depth ++ leBytes 2 0 ++
    leBytes 4 0 ++ leBytes 4 no ++ leBytes 4 copy.length ++ leBytes 32 0 ++ padTo 128 copy

/-- A packet is eligible at a sampler whose setting is `v`. -/
def sampleEligible (v : Nat) (egress : Bool) (p : Packet) : Bool :=
  bit v 63 && bit v 62 == egress && (match sublane p with
    | some k => bit v (32 + k)
    | none => bits v 40 32 == 511)

/-- A packet passes the sampler of a port; `depth` is the queue it leaves (log entry 46), `time` that of its first word. -/
def samplePacket (egress : Bool) (port : Nat) (p : Packet) (crc mal : Bool) (depth time : Nat) (s : State) : State :=
  let v := setting s (0x3A000 + port)
  if !sampleEligible v egress p then s
  else if (getPort s port).smpCount < bits v 23 0 then updPort port (fun q => { q with smpCount := q.smpCount + 1 }) s
  else
    let s := updPort port (fun q => { q with smpCount := 0, smpNo := q.smpNo + 1 }) s
    match allocUnreserved 256 0 s with
    | (none, s) => loseSample port s
    | (some c, s) =>
      if 4096 ≤ s.traffic.samples.length then loseSample port (freeCell c.1 c.2 false s)
      else
        let r := sampleRecord egress port p crc mal depth (getPort s port).smpNo.toNat time
        let x : Sample := { time := time, port := port, bytes := r, cell := c.2 }
        { s with traffic := { s.traffic with samples := s.traffic.samples ++ [x] } }

/-! ## Credits of the sender (R207, R257) -/

def creditOf (p : Port) (sub : Nat) : Credit := tget {} p.credits sub

/-- Credits free; `may_send` is 1 to 2,047. -/
def creditsFree (c : Credit) : Nat := (c.limit - c.sent).toNat

/-- The packet is *final* on a dimension-0 port: its destination is the partner, or an endpoint of this course. -/
def isFinal (s : State) (p : Packet) : Bool :=
  if 0x8000 ≤ pDst p then pDst p == modAddr s.partnerLabel
  else bits (routeEntry s (pEpoch p) (pDst p)) 62 52 / 2 == s.label / 2

/-- Credits a packet must find free. -/
def creditsNeeded (s : State) (port sub : Nat) (p : Packet) : Nat :=
  if isDim0 s port && !([1, 3, 7].contains sub) && !isFinal s p then 2 else 1

/-- `may_send`, with the rule of dimension-0 ports. -/
def creditLets (s : State) (port sub : Nat) (p : Packet) : Bool :=
  let n := creditsFree (creditOf (getPort s port) sub)
  decide (creditsNeeded s port sub p ≤ n ∧ n ≤ 2047)

/-! ## A packet from the stream (R208, R213, R236, R243) -/

/-- An event of a packet at a port, with its master and class. -/
def pktEvent (code port : Nat) (p : Packet) : PEv :=
  { code := code, port := some port, src := srcAttr p, sub := sublane p }

/-- The credit of a received packet that takes no buffer returns at once (R208). -/
def returnCredit (port : Nat) (p : Packet) (s : State) : State :=
  match sublane p with
  | some k => updPort port (freeCredit s.clock.now k) s
  | none => s

/-- A packet dropped as it arrives, counted by port and cause, its credit returned. -/
def dropArrival (port cause : Nat) (p : Packet) (s : State) : State := returnCredit port p (drop port cause s)

/-- A packet with a bad CRC-32C or malformed counted, at the port as well. -/
def countBad (code port cause : Nat) (p : Packet) (s : State) : State :=
  let s := updPort port (fun q => { q with counts := { q.counts with dropped := q.counts.dropped + 1 } }) s
  drop port cause (count (pktEvent code port p) 1 s)

/-- Such a packet dropped as it arrives. -/
def dropBad (code port cause : Nat) (p : Packet) (s : State) : State := returnCredit port p (countBad code port cause p s)

/-- The pool of a sub-lane's receive buffers (R167, R206; log entry 41). -/
def rxPool (sub : Nat) : Nat := if sub = 0 then 0 else 3

/-- PKT_RX and BYTES_RX, and the port's counts. -/
def countArrival (port : Nat) (p : Packet) (s : State) : State :=
  let z := packetSize p
  let s := count { pktEvent 0x01 port p with priv := some 0 } 1 s
  let s := count { pktEvent 0x03 port p with priv := some 0 } z s
  updPort port (fun q => { q with counts := { q.counts with
    pktRx := q.counts.pktRx + 1, bytesRx := q.counts.bytesRx + BitVec.ofNat 48 z } }) s

/-- A packet passes the sampler of the port it comes by, malformed as Table 7.13 says: its Collective cause is that of the
receiver, so it shows at the module the packet is for. -/
def sampleArrival (port : Nat) (p : Packet) (mal time : Nat) (s : State) : State :=
  samplePacket false port p (crcOk p) (mal != 0 || (forMe s (pDst p) && collectiveMal s p)) 0 time s

/-- A packet takes a cell of its port's receive reservation and is routed; from an endpoint port it is injected here. `cut`: it has
begun to leave by cut-through. -/
def takePacket (port : Nat) (cut : Bool) (p : Packet) (s : State) : State :=
  let sub := (sublane p).getD 0
  let x : QPkt := { pkt := p, inPort := port, enq := s.clock.now, inSub := sub, cut := cut }
  let inject := !peModule (getPort s port)
  match allocReserved (rxPool sub) s with
  | some (c, s) => route { x with cell := some (rxPool sub, c) } inject false s
  | none => route x inject false s

/-- A data packet had begun to leave by cut-through when its last word came (R29): its output's queue is empty. Every fabric lane
runs at one rate (R272). -/
def cutBegun (s : State) (port : Nat) (p : Packet) : Bool :=
  !pIsCtl p && Config.cutThrough s.clock.now port && (match lookup s p port (!peModule (getPort s port)) false with
  | (p, .out o sub) => (getPort s o).state == .up && (queueOf s o sub).isEmpty && creditLets s o sub p
  | _ => false)

/-- A packet with a CRC-32C that every receiver finds wrong: the complement of the right one (R29; DEDUCED, log entry 95). -/
def spoilCrc (p : Packet) : Packet := { p with trailer := setBits p.trailer 0 32 (crcOf p ^^^ 0xFFFFFFFF) }

/-- A packet delivered by the stream of a port that is UP, its first word come at `time`: counted, sampled, checked and sent on.
One whose CRC-32C fails is dropped, or finished on its output with the CRC-32C inverted where cut-through has begun (R29). -/
def acceptPacket (port time : Nat) (p : Packet) (s : State) : State :=
  let q := getPort s port
  let mal := malformed p (!peModule q) q.level.toNat 32
  let s := sampleArrival port p mal time (countArrival port p s)
  if !crcOk p then
    if mal = 0 ∧ cutBegun s port p then takePacket port true (spoilCrc p) (countBad 0x05 port 8 p s) else dropBad 0x05 port 8 p s
  else if mal ≠ 0 then dropBad 0x06 port mal p s
  else takePacket port (cutBegun s port p) p s

/-! ## Ageing (R316 to R318) -/

/-- The age limit of a VL, in ticks. -/
def ageLimit (s : State) (vl : Nat) : Nat :=
  let a := setting s 0x39000
  let b := setting s 0x39001
  1250 * (match vl with
    | 1 => bits a 19 0
    | 2 => bits a 39 20
    | 3 => bits a 59 40
    | 4 => bits b 19 0
    | _ => bits b 39 20)

/-- A packet's age at a fabric time (R214). -/
def ageOf (t : Nat) (p : Packet) : Nat := (t / 256 % 2 ^ 24 + 2 ^ 24 - pInj p) % 2 ^ 24 * 256

/-- A data-class packet beyond its VL's limit at a fabric time. -/
def isAgedAt (s : State) (t : Nat) (p : Packet) : Bool := !pIsCtl p && decide (ageLimit s (pVl p) < ageOf t p)

/-- A data-class packet beyond its VL's limit. -/
def isAged (s : State) (p : Packet) : Bool := isAgedAt s (fabricTime s) p

/-- An aged packet discarded, counted and answered by its type. -/
def ageOut (port sub : Nat) (q : QPkt) (s : State) : State :=
  let e : PEv := { code := 0x07, priv := some q.priv, port := some port, src := srcAttr q.pkt, sub := some sub }
  let s := updPort port (fun p => { p with counts := { p.counts with aged := p.counts.aged + 1 } }) s
  sendNack q.pkt port 3 (releaseBuf q (drop port 13 (count e 1 s)))

/-- A packet of a port that is lost routed again in its own epoch, tested as it joins its new queue (R253, R315). -/
def routeAgain (q : QPkt) (s : State) : State :=
  let x := { q with headAt := none, held := false, cut := false, test := false }
  let test (p : Packet) (port sub : Nat) : State :=
    if isAged s p then ageOut port sub { x with pkt := p } s else route x false false s
  match lookup s q.pkt q.inPort false false with
  | (p, .out port sub) => test p port sub
  | (p, .hold port sub) => test p port sub
  | _ => route x false false s

/-! ## The move to the escape path (R249, R250) -/

/-- Place of VL1, VL2 and VL5 in the counts of R250. -/
def adaptPlace (vl : Nat) : Nat := if vl = 5 then 2 else vl - 1

/-- The head of an adaptive queue moved to the escape path, once it has stood there for `adapt_wait` without a credit. -/
def adaptExpiry (port sub : Nat) (s : State) : State :=
  match queueOf s port sub with
  | [] => s
  | q :: _ =>
    let wait := bits (setting s 0x20000) 31 16
    let stood := match q.headAt with
      | some t => decide (wait ≤ since s t)
      | none => false
    if [1, 3, 7].contains sub && stood && !creditLets s port sub q.pkt then
      let e : PEv := { code := 0x0B, priv := some q.priv, port := some port, src := srcAttr q.pkt, sub := some sub }
      let i := adaptPlace (pVl q.pkt)
      let s := { s with routing := { s.routing with
        fallback := s.routing.fallback.set i (s.routing.fallback.getD i 0 + 1) } }
      route { q with headAt := none, cut := false, test := false } false true (updQueue port sub (·.drop 1) (count e 1 s))
    else s

def execAdaptWaitExpiry (port : BitVec 7) (sublane : BitVec 4) (s : State) : Host.Outcome State Fault Refusal :=
  .next (adaptExpiry port.toNat sublane.toNat s)

end Sys2Proof.Machine
end

