-- ==== Sys2Proof/Machine/Links.lean ====
section
/-!
DEFINITION. Fabric ports from the port table to UP and back (R273, R289 to R294, R413), the LINK_INIT exchange (R210),
what a port that leaves UP does with its traffic (R253, R315), and the timers of a port (R205, R209, R227, R290 to R292).
-/
namespace Sys2Proof.Machine

/-! ## Lanes and the reference -/

/-- Bridge lane of port lane j (R274). -/
def laneOf (q : Port) (j : Nat) : Nat := if peReverse q then peFirst q + peWidth q - 1 - j else peFirst q + j
/-- Peg index of port lane j (R287). -/
def pegIndex (q : Port) (j : Nat) : Nat := 64 * peBridge q + laneOf q j
def pegEntry (s : State) (i : Nat) : BitVec 128 := tget 0 s.routing.pegs i
/-- `tx_main` of a lane's entry in the table. -/
def pegMain (s : State) (i : Nat) : Nat := efield (pegEntry s i) 2 1

/-- Fabric ports of a bridge may leave WAIT_REF (R284, R289). -/
def refReady (s : State) (b : Nat) : Bool := s.clock.locked && s.clock.timeValid && bridgeDrives s b

/-- FABRIC_ID as a register value (Table 8.1). -/
def fabricId (s : State) : Nat := s.routing.dim.toNat * 65536 + s.label
/-- FABRIC_ID lets ports be brought up (R237). -/
def fabricIdOk (s : State) : Bool :=
  let d := s.routing.dim.toNat
  decide (1 ≤ d ∧ d ≤ 11 ∧ s.label < 2 ^ d)

/-! ## Neighbours' hellos (R293, R297) -/

/-- Enabled drone lanes to a module. -/
def lanesTo (s : State) (m : Nat) : List Nat :=
  (List.range 32).filter fun i => deEnable (getDrone s i) && dePeer (getDrone s i) == m
/-- A hello of the module is accepted on some lane. -/
def helloAccepted (s : State) (m : Nat) : Bool := (lanesTo s m).any fun i => (getDrone s i).accepted.isSome
/-- The level agreed with a module (R297); 0 before acceptance. -/
def agreedLevel (s : State) (m : Nat) : Nat :=
  min (((lanesTo s m).map fun i => deMaxLevel (getDrone s i)).foldl max 0) (tget 0 s.course.levels m)

/-- This end measures the port's delay (R291). -/
def isMeasurer (s : State) (q : Port) : Bool := !peModule q || decide (s.label < pePeer q)

/-! ## Entering LOCK (R288 to R290) -/

/-- A port without anything of its link: lock, measurement, flits, stream and credits as at codeword lock. -/
def freshLink (q : Port) : Port :=
  { q with
    level := 0, locks := [], peerLocked := false, goSent := false, goCount := none, cwCount := 0, txFlags := 0
    samples := [], tries := 0, updates := 0, echo := none, txTime := none, rxTime := none, marginLanes := []
    peerInit := none, peerOk := false, initSent := false
    txFsn := 0, retry := [], lastAck := none, lastRtag := none, replayFrom := none, replay := []
    rxFsn := 0, deskew := [], rxLane := 0, rxLoss := false, rxTag := 0, ackDue := false, sinceAck := 0, sinceSeq := 0
    rxBytes := [], rxAt := 0, rxQueue := [], txBytes := [], creditAt := []
    credits := [(0, { init := 16, limit := 16 })] }

/-- The lanes of a port take their peg entries. -/
def takePegs (p : Nat) (s : State) : State :=
  let q := getPort s p
  forEach (List.range (peWidth q)) (fun j s =>
    { s with routing := { s.routing with
        pegsUsed := tset 0 s.routing.pegsUsed (pegIndex q j) (pegEntry s (pegIndex q j)) } }) s

/-- A port enters LOCK with the entry loaded for it. -/
def enterLock (p : Nat) (s : State) : State :=
  takePegs p (updPort p (fun q => { freshLink q with
    entry := q.nextEntry, state := .lock, restarts := satInc q.restarts, qCause := 0, since := s.clock.now }) s)

/-- A port in LOCK, or in WAIT_REF until the reference and time are there. -/
def startPort (p : Nat) (s : State) : State :=
  if refReady s (peBridge (getPort s p)) then enterLock p s
  else updPort p (fun q => { freshLink q with state := .waitRef, qCause := 0, since := s.clock.now }) s

/-! ## Leaving UP (R28, R253, R315) -/

/-- Cells a port reserves for the buffers behind its credits (R168; log entry 41). -/
def rxCells : List Nat := [16, 0, 0, 64]

/-- Every place in which a received packet's buffer is held. -/
def heldPackets (s : State) : List QPkt :=
  s.ports.flatMap (fun q => q.2.queues.flatMap (·.2) ++ q.2.sending.map (·.2) ++ q.2.unacked.map (·.2)) ++ s.routing.inbox

/-- No cell is reserved. -/
def allIdle (cs : List Nat) : Bool := cs.all (· == 0)

/-- Every packet received by port p that is still here gets this place (`QPkt.inSub`). -/
def markRx (p sub : Nat) (s : State) : State :=
  let mark (x : QPkt) : QPkt := if x.inPort = p ∧ x.inSub ≠ 9 then { x with inSub := sub } else x
  let onPort (q : Port) : Port := { q with
    queues := q.queues.map fun k => (k.1, k.2.map mark)
    sending := q.sending.map fun k => (k.1, mark k.2), unacked := q.unacked.map fun k => (k.1, mark k.2) }
  { s with ports := s.ports.map fun q => (q.1, onPort q.2)
           routing := { s.routing with inbox := s.routing.inbox.map mark } }

/-- A port's receive reservation released (R168): its unused cells now, the others as they are freed. -/
def detachRx (p : Nat) (s : State) : State :=
  let mine := (heldPackets s).filter fun x => x.inPort == p && x.inSub != 9
  let free := (getPort s p).cells.mapIdx fun n c => c - (mine.filter fun x => x.cell.any (·.1 == n)).length
  updPort p (fun q => { q with cells := [0, 0, 0, 0] }) (markRx p 9 (unreserveCells free s))

/-- The reservation of a port that is down is released once its queues have been flushed or have aged out (R168). -/
def releaseRx (p : Nat) (s : State) : State :=
  let q := getPort s p
  if q.state != .up && !allIdle q.cells && q.queues.all (·.2.isEmpty) then detachRx p s else s

/-- Code of a state (Table 9.9). -/
def stateCode : LaneState → Nat
  | .disabled => 0
  | .waitRef => 1
  | .lock => 2
  | .hello => 3
  | .measure => 4
  | .margin => 5
  | .init => 6
  | .up => 7
  | .quarantined => 8
  | .failed => 9

/-- A queue of a port that is lost: data routed again, control flushed. -/
def emptyQueue (p : Nat) (k : Nat × List QPkt) (s : State) : State :=
  forEach k.2 (fun x s => if pIsCtl x.pkt then flush p k.1 x s else routeAgain x s) s

/-- A port leaves UP for a state: its bit is set; packets whose last word is unacknowledged are routed again in the order
in which they were sent, then what its queues hold. A packet begun whose last word is not in a flit yet, of whatever class, is
routed again with them (DESIGN CHOICE, log entry 101). What it had received whole goes on. -/
def leaveUp (p : Nat) (st : LaneState) (s : State) : State :=
  let got := (getPort s p).rxQueue.filter fun x => pType x.2 != 0x40
  let s := forEach got (fun x => acceptPacket p x.1 x.2) (updPort p (fun q => { q with rxQueue := [] }) s)
  let s := markRx p 10 s
  let q := getPort s p
  let s := { s with routing := { s.routing with down := s.routing.down ||| (1 <<< p) } }
  let s := updPort p (fun q => { q with
    state := st, level := 0, since := s.clock.now, sending := [], unacked := [], queues := [], creditAt := [] }) s
  let s := postEvent 0x0004 p (stateCode st) [] s
  let s := forEach (q.unacked.map (·.2) ++ q.sending.map (·.2)) routeAgain s
  let s := releaseRx p (forEach q.queues (emptyQueue p) s)
  if peModule q then s else loseEndpoint (pePeer q) s

/-- States from which a loss returns a port to LOCK (R205, R294). -/
def inLink : LaneState → Bool
  | .lock | .measure | .margin | .hello | .init | .up => true
  | _ => false

/-- A port is lost: it is brought up again from codeword lock. -/
def portLost (p : Nat) (s : State) : State :=
  let st := (getPort s p).state
  if st = .up then enterLock p (leaveUp p .lock s) else if inLink st then enterLock p s else s

/-- Module ports to a neighbour. -/
def portsTo (s : State) (m : Nat) : List Nat :=
  (List.range 128).filter fun p => isModPort s p && pePeer (getPort s p) == m

/-- The neighbour's loss takes every port to it to LOCK (R281, R294). -/
def portsLost (m : Nat) (s : State) : State :=
  forEach (portsTo s m) (fun p s => if (getPort s p).state = .failed then startPort p s else portLost p s) s

/-- A reference loss takes a port to WAIT_REF (R294); QUARANTINED and DISABLED stay. -/
def portWaits (p : Nat) (s : State) : State :=
  match (getPort s p).state with
  | .disabled | .quarantined => s
  | st =>
    let s := if st = .up then leaveUp p .waitRef s else s
    updPort p (fun q => { freshLink q with state := .waitRef, since := s.clock.now }) s

/-- A port disabled by the port table. -/
def disablePort (p : Nat) (s : State) : State :=
  let s := if (getPort s p).state = .up then leaveUp p .disabled s else s
  updPort p (fun q => { freshLink q with
    entry := q.nextEntry, state := .disabled, qCause := 0, since := s.clock.now }) s

/-- A port quarantined with a cause of Table 9.14 (R210, R296). -/
def quarantinePort (p cause : Nat) (s : State) : State :=
  match (getPort s p).state with
  | .disabled | .quarantined => s
  | st =>
    let s := if st = .up then leaveUp p .quarantined s else s
    let s := updPort p (fun q => { q with
      state := .quarantined, qCause := BitVec.ofNat 8 cause, initSent := false, peerOk := false, since := s.clock.now }) s
    postEvent 0x0002 p cause [] s

/-- A failure before UP (R289): the dwell, and PORT_FAILED with its code. -/
def failPort (p code : Nat) (s : State) : State :=
  postEvent 0x0003 p code [] (updPort p (fun q => { freshLink q with state := .failed, since := s.clock.now }) s)

/-! ## Bringing ports up (R237, R413) -/

/-- The ranges of an entry, enabled or not (DEDUCED, log entry 44). -/
def portRangeOk (s : State) (e : BitVec 256) : Bool :=
  let q : Port := { entry := e }
  let d := s.routing.dim.toNat
  decide (efield e 1 1 ≤ 4) && decide (peBridge q < s.config.bridges) && decide (peFirst q ≤ 63) &&
  peFirst q % peWidth q == 0 && decide (1 ≤ peMaxSym q ∧ peMaxSym q ≤ 15) &&
  (if peModule q then
    decide (peDim q ≤ 10 ∧ peDim q < d) && peMaxLevel q == 0 && decide (pePeer q < 2048) &&
      pePeer q == neighbour s.label (peDim q) d
  else peDim q == 0 && decide (1 ≤ peMaxLevel q ∧ peMaxLevel q ≤ 3) && decide (pePeer q < 2 ^ 15))

/-- An enabled port leaves DISABLED, once each of its lanes has a peg entry. The first one fixes FABRIC_ID, the carve and
the reference settings. -/
def bringUp (p : Nat) (s : State) : State :=
  let q := getPort s p
  let bare := ((List.range (peWidth q)).map (pegIndex q)).filter fun i => pegMain s i == 0
  if bare.isEmpty then
    let s := { s with routing := { s.routing with idFixed := true }, clock := { s.clock with portsLeft := true } }
    startPort p (applyCarve s)
  else
    let new := bare.filter fun i => !q.noPeg.contains i
    forEach new (fun i => postEvent 0x000E i 0 []) (updPort p (fun q => { q with noPeg := q.noPeg ++ new }) s)

/-- Every enabled port that is DISABLED is brought up, or FABRIC_ID refused. A port whose entry does not agree with FABRIC_ID,
which may have been written after the table, is not (R239). -/
def bringUpAll (s : State) : State :=
  let ps := (List.range 128).filter fun p => peEnable (getPort s p) && (getPort s p).state == .disabled
  if ps.isEmpty then s
  else if fabricIdOk s then forEach (ps.filter fun p => portRangeOk s (getPort s p).entry) bringUp s
  else postEvent 0x0008 (fabricId s) 0 [] s

/-! ## PORT_TABLE_LOAD (R273, Table 9.2) -/

def portRsvdOk (e : BitVec 256) : Bool :=
  bits (efield e 0 1) 7 3 == 0 && efield e 21 3 == 0 && efield e 28 4 == 0

/-- Two enabled ports share a lane. -/
def portsClash (a b : BitVec 256) : Bool :=
  let q : Port := { entry := a }
  let r : Port := { entry := b }
  peEnable q && peEnable r && peBridge q == peBridge r &&
    decide (peFirst q < peFirst r + peWidth r ∧ peFirst r < peFirst q + peWidth q)

/-- No entry of a list clashes with a later one. -/
def noClash : List (BitVec 256) → Bool
  | [] => true
  | e :: es => (es.all fun f => !portsClash e f) && noClash es

/-- The lanes, kind and dimension of an entry. Its lanes are which they are and in which order: `lane_reverse` alone changes them
(DESIGN CHOICE, log entry 102). -/
def portShape (e : BitVec 256) : Nat × Nat × Nat × Bool × Bool × Nat :=
  let q : Port := { entry := e }
  (efield e 1 1, peBridge q, peFirst q, peReverse q, peModule q, peDim q)

/-- The table in force port by port: at once for a DISABLED port, at the next LOCK for another; a port it disables is
disabled now. -/
def loadPorts (es : List (BitVec 256)) (s : State) : State :=
  bringUpAll (forEach (List.range 128) (fun p s =>
    let e := es.getD p 0
    let q := getPort s p
    if q.state = .disabled then updPort p (fun q => { q with entry := e, nextEntry := e }) s
    else
      let s := updPort p (fun q => { q with nextEntry := e }) s
      if bit (efield e 0 1) 0 then s else disablePort p s) s)

def portTableLoad (d : Desc) (h : HostRead) (t : Tok) (s : State) : State :=
  match hostRead s (field d 16 8) 4096 h with
  | none => bad t dtHostRead (noteRead (field d 16 8) 4096 h s)
  | some bs =>
    let es := (chunksOf 32 bs).map fun b => BitVec.ofNat 256 (leNat b)
    let moved := (List.range 128).any fun p =>
      (getPort s p).state != .disabled && portShape (getPort s p).nextEntry != portShape (es.getD p 0)
    if !es.all portRsvdOk then bad t dtReserved s
    else if !(es.all (portRangeOk s)) || !noClash es then bad t dtRange s
    else if moved then bad t dtState s
    else ok t 0 [] (loadPorts es s)

def execPortTableLoad (sq : BitVec 8) (d : Desc) (host : HostRead) (s : State) : Host.Outcome State Fault Refusal :=
  .next (runCommand 0x39 sq d (fun t s =>
    if dRsvdOk d [(16, 8)] then portTableLoad d host t s else bad t dtReserved s) s)

/-! ## LINK_INIT and UP (R210, R293) -/

/-- The peer's address, as its LINK_INIT names it. -/
def peerAddr (q : Port) : Nat := if peModule q then modAddr (pePeer q) else pePeer q

/-- The module's own LINK_INIT; its `max_payload` is 32 and its credits are 8 on each sub-lane (DESIGN CHOICE, log entry
49). -/
def linkInitPacket (s : State) (q : Port) : Packet :=
  let level := if peModule q then agreedLevel s (pePeer q) else peMaxLevel q
  let delay := if isMeasurer s q then q.delay.toNat else 0
  ctlPacket 0x40 0 (peerAddr q) (modAddr s.label)
    ([(8, 1, level), (9, 1, 1), (10, 2, 32)] ++ ((List.range 8).map fun k => (12 + 2 * k, 2, 8)) ++
     [(28, 2, delay), (32, 8, s.flash.identity.serial.toNat), (40, 4, s.boot.build.toNat),
      (44, 1, b2n (q.state == .quarantined))])

/-- A field of a LINK_INIT outside Table 7.9. -/
def linkInitBad (q : Port) (p : Packet) : Bool :=
  let level := field p.hdr 8 1
  let pay := field p.hdr 10 2
  let delay := field p.hdr 28 2
  (rsvdFields 0x40).any (fun f => field p.hdr f.1 f.2 != 0) || rsvdBits p ||
  decide (level < 1 ∨ 3 < level ∨ 1 < field p.hdr 9 1 ∨ pay < 1 ∨ 32 < pay ∨ 750 < delay) ||
  (!peModule q && delay != 0) ||
  (List.range 8).any fun k => decide (field p.hdr (12 + 2 * k) 2 < 1 ∨ 2047 < field p.hdr (12 + 2 * k) 2)

/-- The first check of Table 9.14 that a LINK_INIT fails; 0 where it is accepted. -/
def linkInitCause (s : State) (q : Port) (p : Packet) : Nat :=
  if peModule q && bit (field p.hdr 44 1) 0 then 1
  else if pSrc p ≠ peerAddr q then 3
  else if field p.hdr 32 8 ≠ peSerial q then 5
  else if peBuild q ≠ 0 ∧ field p.hdr 40 4 ≠ peBuild q then 6
  else if linkInitBad q p then 7
  else if peModule q ∧ field p.hdr 8 1 ≠ agreedLevel s (pePeer q) then 8
  else if field p.hdr 9 1 ≠ b2n (peModule q) then 9
  else 0

/-- Packets held for a port that is UP again leave with its queue, by the escape path (R243, R254). -/
def unhold (q : Port) : Port :=
  let free (x : QPkt) : QPkt :=
    if x.held then { x with held := false, pkt := stamp x.pkt (adaptiveVl (pVl x.pkt)) (pEpoch x.pkt) } else x
  { q with queues := q.queues.map fun k => (k.1, k.2.map free) }

/-- A port enters UP: its receive buffers reserved, its bit cleared (R28, R168). A port that finds no cells has failed (log
entry 41). -/
def enterUp (p : Nat) (s : State) : State :=
  match reserveCells rxCells (applyCarve (if allIdle (getPort s p).cells then s else detachRx p s)) with
  | none => updPort p (fun q => { freshLink q with state := .failed, since := s.clock.now }) s
  | some s =>
    let q := getPort s p
    let peer := match q.peerInit with
      | some i => field i.hdr 8 1
      | none => 0
    let level := if peModule q then agreedLevel s (pePeer q) else min (peMaxLevel q) peer
    let s := updPort p (fun q => { unhold q with
      state := .up, level := BitVec.ofNat 2 level, since := s.clock.now, cells := rxCells }) s
    let s := { s with routing := { s.routing with down := s.routing.down &&& ~~~((1 : BitVec 128) <<< p) } }
    let s := postEvent 0x0004 p 7 [] s
    if peModule q then s else endpointBack (pePeer q) s

/-- UP once both LINK_INITs are through. -/
def checkUp (p : Nat) (s : State) : State :=
  let q := getPort s p
  if q.state = .init ∧ q.peerOk ∧ q.initSent then enterUp p s else s

/-- The peer's LINK_INIT checked: the port quarantined, or its credits and delay taken (R207, R291). -/
def judgeInit (p : Nat) (x : Packet) (s : State) : State :=
  let q := getPort s p
  let cause := linkInitCause s q x
  if cause ≠ 0 then quarantinePort p cause s
  else
    let start (t : Table Credit) (k : Nat) : Table Credit :=
      let n := BitVec.ofNat 12 (field x.hdr (12 + 2 * k) 2)
      let c : Credit := tget {} t (k + 1)
      tset {} t (k + 1) { c with init := n, limit := n, sent := 0 }
    checkUp p (updPort p (fun q => { q with
      peerInit := some x, peerOk := true, credits := (List.range 8).foldl start q.credits
      delay := if isMeasurer s q then q.delay else BitVec.ofNat 10 (field x.hdr 28 2) }) s)

/-- A port enters INIT; a LINK_INIT that came earlier is checked now. -/
def enterInit (p : Nat) (s : State) : State :=
  let s := updPort p (fun q => { q with state := .init, since := s.clock.now, initSent := false }) s
  match (getPort s p).peerInit with
  | some x => judgeInit p x s
  | none => s

/-- A LINK_INIT received: checked in INIT, kept before it; in UP it matters when it quarantines a module port. -/
def hearInit (p : Nat) (x : Packet) (s : State) : State :=
  let q := getPort s p
  match q.state with
  | .init => judgeInit p x s
  | .lock | .measure | .margin | .hello => updPort p (fun q => { q with peerInit := some x }) s
  | .up => if peModule q && bit (field x.hdr 44 1) 0 then quarantinePort p 1 s else s
  | _ => s

/-- A packet of the stream taken: the time its first word came; now, where it is not there. -/
def takeRx (p : Nat) (x : Packet) (s : State) : Nat × State :=
  match (getPort s p).rxQueue.find? (·.2 == x) with
  | some y => (y.1, updPort p (fun q => { q with rxQueue := q.rxQueue.erase y }) s)
  | none => (fabricTime s, s)

/-- A LINK_INIT delivered by the stream: sampled, and dropped where its CRC-32C fails or it is malformed (R236). -/
def linkInitRx (p : Nat) (x : Packet) (s : State) : State :=
  let (at0, s) := takeRx p x s
  let mal := malformed x (!peModule (getPort s p)) 3 32
  let s := sampleArrival p x mal at0 (countArrival p x s)
  if !crcOk x then dropBad 0x05 p 8 x s
  else if mal ≠ 0 then dropBad 0x06 p mal x s
  else hearInit p x (returnCredit p x s)

def execLinkInit (port : BitVec 7) (p : Packet) (s : State) : Host.Outcome State Fault Refusal :=
  .next (linkInitRx port.toNat p s)

/-- A packet delivered by the stream. A port that is not UP samples it, and drops and counts everything but LINK_INIT (R210,
R319). -/
def packetRx (p : Nat) (x : Packet) (s : State) : State :=
  if pType x = 0x40 then linkInitRx p x s
  else
    let (at0, s) := takeRx p x s
    let q := getPort s p
    if q.state = .up then acceptPacket p at0 x s
    else dropArrival p 20 x (sampleArrival p x (malformed x (!peModule q) 3 32) at0 (countArrival p x s))

def execPacketRx (port : BitVec 7) (p : Packet) (s : State) : Host.Outcome State Fault Refusal :=
  .next (packetRx port.toNat p s)

/-! ## LOCK, MEASURE and MARGIN (R290 to R292) -/

/-- Port lock: every lane locked in its place, with the port's width, within 3 periods of the others. -/
def portLock (q : Port) : Bool :=
  let ls := (List.range (peWidth q)).map fun j => (tget {} q.locks j : LaneLock)
  let counts := ls.map (·.count)
  (ls.mapIdx fun j l => l.locked && l.idx == j && l.width == efield q.entry 1 1).all id &&
    decide ((counts.foldl max 0 : Nat) ≤ counts.foldl min (counts.headD 0) + 3)

/-- A measurement begins. -/
def startMeasure (q : Port) (now : Nat) : Port := { q with samples := [], updates := 0, measureAt := now }

/-- `go` has been sent and seen: MEASURE. -/
def enterMeasure (p : Nat) (s : State) : State :=
  updPort p (fun q => { startMeasure q s.clock.now with state := .measure, tries := 0, since := s.clock.now }) s

def enterMargin (p : Nat) (s : State) : State :=
  updPort p (fun q => { q with state := .margin, since := s.clock.now, marginLanes := [] }) s

/-- The insertion of a number into a rising list. -/
def insertNat (x : Nat) : List Nat → List Nat
  | [] => [x]
  | y :: ys => if x ≤ y then x :: y :: ys else y :: insertNat x ys

/-- The 9th smallest of the samples; whether none lies further from it than the tolerance (R291, R300). -/
def ninth (xs : List Nat) (tol : Nat) : Nat × Bool :=
  let m := (xs.foldr insertNat []).getD 8 0
  (m, xs.all fun x => decide (x ≤ m + tol ∧ m ≤ x + tol))

/-- Sixteen samples are there: d, the measurement again, or MEASURE_FAIL. -/
def measured (p : Nat) (s : State) : State :=
  let q := getPort s p
  let (m, good) := ninth q.samples 2
  let d := (m + 1) / 2
  if good then
    if d ≤ 750 then enterMargin p (updPort p (fun q => { q with delay := BitVec.ofNat 10 d }) s) else failPort p 2 s
  else if q.tries = 2 then failPort p 2 s
  else updPort p (fun q => { startMeasure q s.clock.now with tries := q.tries + 1 }) s

/-- A complete time update received (R291): a sample at the measurer, an echo owed by the echoer, else nothing (R235). It
arrived with its part 0. -/
def timeUpdate (p v : Nat) (s : State) : State :=
  let q := getPort s p
  let a := match q.rxTime with
    | some (t, 4) => t
    | _ => fabricTime s - 96
  let s := updPort p (fun q => { q with rxTime := none }) s
  if isMeasurer s q then
    if q.state = .measure then
      let s := updPort p (fun q => { q with samples := q.samples ++ [a - v] }) s
      if (getPort s p).samples.length = 16 then measured p s else s
    else s
  else if q.state = .measure ∨ q.state = .margin ∨ q.state = .hello ∨ q.state = .init then
    updPort p (fun q => { q with echo := some (v, a) }) s
  else s

def execTime (port : BitVec 7) (value : BitVec 64) (s : State) : Host.Outcome State Fault Refusal :=
  .next (timeUpdate port.toNat value.toNat s)

/-- Lanes beyond the margin limits. -/
def marginFails (q : Port) : List Nat :=
  (List.range (peWidth q)).filter fun j =>
    let m := tget (0, 0) q.marginLanes j
    decide (peMaxSym q < m.1 ∨ peMaxTotal q < m.2)

/-- The worst codeword of the margin window noted (Table 9.12). -/
def noteWorst (p : Nat) (s : State) : State :=
  updPort p (fun q => { q with worstSym := BitVec.ofNat 4 ((q.marginLanes.map (·.2.1)).foldl max 0) }) s

/-- MARGIN_FAIL, with the first failing lane and the worst codeword. -/
def marginFail (p j : Nat) (s : State) : State :=
  failPort p 3 (updPort p (fun q => { q with failLane := BitVec.ofNat 4 j }) (noteWorst p s))

/-- A loss of R203 on a lane in MARGIN fails it at once (R292, where R294 has a loss return the port to LOCK: DEDUCED, log entry
107). -/
def marginLoss (p lane : Nat) (s : State) : State :=
  marginFail p ((marginFails (getPort s p)).foldl min lane) s

/-- The margin window ends (R292, R293). Of several failing lanes the lowest-numbered is the first one of fail_lane (DESIGN
CHOICE, log entry 119). -/
def marginEnd (p : Nat) (s : State) : State :=
  let q := getPort s p
  if q.state ≠ .margin ∨ since s q.since < bits s.clock.laneCtrl.toNat 31 16 * 1250 then s
  else
    match marginFails q with
    | j :: _ => marginFail p j s
    | [] =>
      let s := noteWorst p s
      if peModule q && !helloAccepted s (pePeer q) then
        updPort p (fun q => { q with state := .hello, since := s.clock.now }) s
      else enterInit p s

def execMarginWindowEnd (port : BitVec 7) (s : State) : Host.Outcome State Fault Refusal := .next (marginEnd port.toNat s)

/-- Ports that await a neighbour's hello go on to INIT (R293). -/
def helloCame (m : Nat) (s : State) : State :=
  forEach ((portsTo s m).filter fun p => (getPort s p).state == .hello) enterInit s

/-! ## Timers of a port -/

def lockTimeout (p : Nat) (s : State) : State :=
  let q := getPort s p
  if q.state = .lock ∧ !portLock q ∧ 12500000 ≤ since s q.since then failPort p 1 s else s

def execLockTimeout (port : BitVec 7) (s : State) : Host.Outcome State Fault Refusal := .next (lockTimeout port.toNat s)

def measureTimeout (p : Nat) (s : State) : State :=
  let q := getPort s p
  if q.state = .measure ∧ isMeasurer s q ∧ q.samples.length < 16 ∧ 1250000 ≤ since s q.measureAt then failPort p 2 s else s

def execMeasureTimeout (port : BitVec 7) (s : State) : Host.Outcome State Fault Refusal :=
  .next (measureTimeout port.toNat s)

/-- 1 µs without a flit accepted in order. -/
def flitTimeout (p : Nat) (s : State) : State :=
  let q := getPort s p
  if q.goCount.isSome ∧ 1250 ≤ since s q.lastFlit then portLost p s else s

def execFlitTimeout (port : BitVec 7) (s : State) : Host.Outcome State Fault Refusal := .next (flitTimeout port.toNat s)

/-- 5 µs + 2d, in ticks. -/
def answerTime (q : Port) : Nat := 6250 + 2 * q.delay.toNat

/-- A flit whose ACK is late, counted from its first sending (DEDUCED, log entry 42). -/
def ackTimeout (p : Nat) (s : State) : State :=
  let q := getPort s p
  if q.retry.any fun f => decide (answerTime q < since s f.2.1) then portLost p s else s

def execAckTimeout (port : BitVec 7) (s : State) : Host.Outcome State Fault Refusal := .next (ackTimeout port.toNat s)

/-- An endpoint's credit return is late (R209), in UP or for the LINK_INIT sent in INIT. -/
def creditDeadline (p : Nat) (s : State) : State :=
  let q := getPort s p
  if !peModule q && (q.state == .up || q.state == .init) && q.creditAt.any fun c => decide (answerTime q < since s c.2.2) then portLost p s
  else s

def execCreditDeadline (port : BitVec 7) (s : State) : Host.Outcome State Fault Refusal :=
  .next (creditDeadline port.toNat s)

/-- A header without what sending changes: the lane byte and `inj_time`. -/
def sentHeader (p : Packet) : BitVec 512 :=
  let h := setField p.hdr 1 1 0
  if pIsCtl p then h else setField h 8 3 0

/-- A packet of a transfer has not left the port. -/
def notLeft (q : Port) (t : Transfer) : Bool :=
  (q.queues.flatMap (·.2) ++ q.sending.map (·.2)).any fun x => t.packets.any fun y =>
    sentHeader x.pkt == sentHeader y

/-- The last packet of a transfer that left did so longer ago than a TACK may take (R227). -/
def tackLate (s : State) (q : Port) (t : Transfer) : Bool :=
  match t.sentAt with
  | some x => decide (answerTime q < since s x) && !notLeft q t
  | none => false

/-- A transfer sent whole to an endpoint has no TACK in time (R205, R227). -/
def tackDeadline (e : Nat) (s : State) : State :=
  match epPort s e with
  | none => s
  | some p =>
    let q := getPort s p
    let late := s.groups.any fun g => g.transfers.any fun t =>
      t.sent && t.dst == e && t.dir != 0 && tackLate s q t
    if late && q.state == .up then portLost p s else s

def execTackDeadline (endpoint : BitVec 15) (s : State) : Host.Outcome State Fault Refusal :=
  .next (tackDeadline endpoint.toNat s)

end Sys2Proof.Machine
end

