-- ==== Sys2Proof/Machine/Scramble.lean ====
section
/-!
DEFINITION. The message bits of a codeword: where its header and its flit lie in them (R197), and the self-synchronising
scrambler of a fabric lane (R271).
-/
namespace Sys2Proof.Machine

/-- The message bits (R197): the header in bits 19:0, bit i of flit byte b in bit 20 + 8b + i. -/
def Message.bits (m : Message) : BitVec 5140 := BitVec.ofNat 5140 (m.header.toNat + leNat (slice m.flit 0 640) * 2 ^ 20)

/-- What message bits carry. -/
def Message.ofBits (b : BitVec 5140) : Message :=
  { header := BitVec.ofNat 20 b.toNat, flit := leBytes 640 (b.toNat / 2 ^ 20) }

/-- For each bit of a codeword on the line, the sum of the bits 39 and 58 places before it; `prev` holds the 58 bits before the
codeword, its last one highest. -/
def lineTaps (prev : BitVec 58) (line : BitVec 5140) : BitVec 5140 :=
  let all := line.toNat * 2 ^ 58 + prev.toNat
  BitVec.ofNat 5140 (all >>> 19 ^^^ all)

/-- Message bits scrambled by 1 + x³⁹ + x⁵⁸: each bit on the line is the message bit with its taps. A tap lies at least 39 places
back, so each pass makes 39 more bits right, and 132 passes all. -/
def scramble (prev : BitVec 58) (m : BitVec 5140) : BitVec 5140 :=
  (List.range 132).foldl (fun line _ => m ^^^ lineTaps prev line) 0

/-- The message bits of a line. -/
def descramble (prev : BitVec 58) (line : BitVec 5140) : BitVec 5140 := line ^^^ lineTaps prev line

/-- The last 58 bits of a codeword's line. -/
def lineEnd (line : BitVec 5140) : BitVec 58 := BitVec.ofNat 58 (line.toNat >>> 5082)

end Sys2Proof.Machine
end

