-- ==== Sys2Proof/Machine/Flits.lean ====
section
/-!
DEFINITION. Codewords and flits of a port: egress scheduling with its gates (R306 to R309), the test of age (R317), the sender
and receiver of flits with link-level retry (R197 to R205), scrambling (R271), the packet stream (R211), the lock block (R290),
time updates (R234, R291) and link credits (R207).
-/
namespace Sys2Proof.Machine

/-! ## Gates (R308, R309) -/

/-- Entries of a port's fret list with a duration: gates and duration. -/
def fretList (s : State) (p : Nat) : List (Nat × Nat) :=
  ((List.range (bits (setting s (0x30100 + p)) 6 0)).map fun e =>
    let v := setting s (0x34000 + 64 * p + e)
    (bits v 5 0, bits v 31 8)).filter fun e => e.2 != 0

/-- The list turned to begin with the entry at offset o, and how far o lies in it. -/
def fretTurn : List (Nat × Nat) → Nat → List (Nat × Nat) → List (Nat × Nat) × Nat
  | [], _, seen => (seen.reverse, 0)
  | e :: es, o, seen => if o < e.2 then (e :: es ++ seen.reverse, o) else fretTurn es (o - e.2) (e :: seen)

/-- Ticks through the leading entries that open VL v; none when no entry closes it. -/
def openLen (v : Nat) : List (Nat × Nat) → Option Nat
  | [] => none
  | e :: es => if bit e.1 v then (openLen v es).map (· + e.2) else some 0

/-- The longest open run of VL v in the cycle; none when no entry closes it. -/
def longestRun (v : Nat) (es : List (Nat × Nat)) : Option Nat :=
  (List.range es.length).foldl (fun b k => match b, openLen v (es.drop k ++ es.take k) with
    | some m, some n => some (max m n)
    | _, _ => none) (some 0)

/-- How a packet meets its gate. -/
inductive Gate where
  | shut
  | fits
  | overrun
  deriving DecidableEq, Repr

/-- A port's gates are in force (R308). -/
def isGated (s : State) (p : Nat) : Bool := bit (setting s (0x30100 + p)) 7 && !(fretList s p).isEmpty

/-- The fit rule for a packet that starts at fabric time `t` and needs `need` ticks: it fits what is left of the open run, or it
is longer than every run and this is the first tick of one. -/
def gateOf (s : State) (p v need t : Nat) : Gate :=
  let es := fretList s p
  let base := setting s (0x30200 + p)
  if !isGated s p then .fits
  else if t < base then
    (match openLen v es with
    | none => .fits
    | some n => if need ≤ base - t + n then .fits else .shut)
  else
    let (l, into) := fretTurn es ((t - base) % (es.map (·.2)).sum) []
    match openLen v l, longestRun v es with
    | some n, some m =>
      if n = 0 then .shut
      else if need ≤ n - into then .fits
      else
        let back := into + (openLen v l.tail.reverse).getD 0
        if m < need ∧ back = 0 then .overrun else .shut
    | _, _ => .fits

/-! ## Egress scheduling (R306, R307) -/

/-- A KX9 sends no packet for 1 s after a reset (R216). -/
def mayTransmit (s : State) : Bool := decide (1250000000 ≤ s.clock.now)

/-- Ticks a packet takes on a port. -/
def ticksOf (q : Port) (p : Packet) : Nat := ceilDiv (packetSize p) (20 * peWidth q)

/-- The gate that a packet of a sub-lane meets when it starts at `t`. -/
def packetGate (s : State) (p sub t : Nat) (x : Packet) : Gate := gateOf s p (vlOf sub) (ticksOf (getPort s p) x) t

/-- The head of a queue is eligible to start at `t`. -/
def eligible (s : State) (p t sub : Nat) : Bool :=
  match queueOf s p sub with
  | [] => false
  | x :: _ =>
    (getPort s p).state == .up && !x.held && mayTransmit s && creditLets s p sub x.pkt && packetGate s p sub t x.pkt != .shut

/-- The eligible sub-lane of a VL; of two, the one not taken last. -/
def pickSub (s : State) (p t v : Nat) : Option Nat :=
  match (subsOf v).filter (eligible s p t) with
  | [] => none
  | [k] => some k
  | k :: j :: _ => if tget 0 (getPort s p).lastSub v = k then some j else some k

/-- Deficit round robin over VL1 to VL5: the queue whose head leaves. The fuel covers the rounds that the largest packet
needs under the least quantum. -/
def nextShared (p t : Nat) : Nat → State → State × Option Nat
  | 0, s => (s, none)
  | k + 1, s =>
    if !([1, 2, 3, 4, 5].any fun v => (pickSub s p t v).isSome) then (s, none)
    else
      let v := (getPort s p).turn
      let pass (s : State) : State :=
        updPort p (fun q => { q with granted := tset false q.granted v false, turn := v % 5 + 1 }) s
      if (subsOf v).all fun k => (queueOf s p k).isEmpty then
        nextShared p t k (pass (updPort p (fun q => { q with deficit := tdel q.deficit v }) s))
      else match pickSub s p t v with
      | none => nextShared p t k (pass s)
      | some sub =>
        let quantum := bits (setting s (0x30000 + p)) (8 * v - 1) (8 * v - 8)
        let q := getPort s p
        let have' : BitVec 32 := tget 0 q.deficit v
        let have' := if tget false q.granted v then have' else have' + BitVec.ofNat 32 (256 * quantum)
        let size := match queueOf s p sub with
          | x :: _ => packetSize x.pkt
          | [] => 0
        let s := updPort p (fun q => { q with
          granted := tset false q.granted v true, deficit := tset 0 q.deficit v have' }) s
        if size ≤ have'.toNat then
          (updPort p (fun q => { q with
            deficit := tset 0 q.deficit v (have' - BitVec.ofNat 32 size), lastSub := tset 0 q.lastSub v sub }) s, some sub)
        else nextShared p t k (pass s)

/-- `next_packet` at `t`: VL0 first. -/
def nextPacket (p t : Nat) (s : State) : State × Option Nat :=
  if eligible s p t 0 then (s, some 0) else nextShared p t 200 s

/-- A credit of a sub-lane used (R207). -/
def useCredit (sub : Nat) (q : Port) : Port :=
  let c := creditOf q sub
  { q with credits := tset {} q.credits sub { c with sent := c.sent + 1 } }

/-- The delay of a packet that starts, in its queue's capture (R321). -/
def noteDelay (sub delay : Nat) (q : Port) : Port :=
  let st : QueueStat := tget {} q.stats sub
  let d := min delay 0xFFFFFFFF
  { q with stats := tset {} q.stats sub { st with delayLast := d, delayMax := max st.delayMax d } }

/-- A packet's first word leaves at `t`: it is counted, its credit used, its bytes next in the stream, and it passes the port's
sampler; `depth` packets stay in its queue. -/
def beginPacket (p sub t depth : Nat) (x : QPkt) (s : State) : State :=
  let size := packetSize x.pkt
  let late := packetGate s p sub t x.pkt == .overrun
  let ev (code : Nat) : PEv := { pktEvent code p x.pkt with priv := some x.priv, sub := some sub }
  let s := count (ev 0x04) size (count (ev 0x02) 1 s)
  let s := updPort p (fun q =>
    let q := useCredit sub q
    { q with
      txBytes := q.txBytes ++ packetBytes x.pkt
      overruns := if late then q.overruns + 1 else q.overruns
      creditAt := if peModule q then [] else q.creditAt ++ [(sub, (creditOf q sub).sent, s.clock.now)]
      counts := { q.counts with pktTx := q.counts.pktTx + 1, bytesTx := q.counts.bytesTx + BitVec.ofNat 48 size } }) s
  samplePacket true p x.pkt (crcOk x.pkt) false depth t s

/-- The moment, by which limits are counted, of a fabric time that is not past. -/
def momentOf (s : State) (t : Nat) : Nat := s.clock.now + (t - fabricTime s)

/-- The head of a queue starts at `t`, when the next one comes to the head. One sent by cut-through has a delay of 0 (R321). -/
def startPacket (p sub t : Nat) (s : State) : State :=
  match queueOf s p sub with
  | [] => s
  | x :: rest =>
    let s := updQueue p sub (fun _ => headed (momentOf s t) rest) s
    let ev : PEv := { pktEvent 0x0A p x.pkt with priv := some x.priv, sub := some sub }
    let s := if [1, 3, 7].contains sub then
        let i := adaptPlace (vlOf sub)
        count ev 1 { s with routing := { s.routing with adapt := s.routing.adapt.set i (s.routing.adapt.getD i 0 + 1) } }
      else s
    let s := beginPacket p sub t rest.length x s
    updPort p (fun q => { noteDelay sub (if x.cut then 0 else momentOf s t - x.enq) q with
      sending := q.sending ++ [(q.txBytes.length, x)] }) s

/-! ## The sender of flits (R199 to R202) -/

/-- The retry store holds its flits of 128 for each lane; while it does, no packet starts (log entry 42). -/
def retryFull (q : Port) : Bool := decide (128 * peWidth q ≤ (q.retry.filter fun f => f.2.2.isSome).length)

/-- The fabric time at which byte `pos` of the flit on a lane leaves, whose codeword starts now: the lanes of a port carry one
stream of 20 B a lane and tick (R309; DESIGN CHOICE, log entry 45). -/
def leaveTime (s : State) (p lane pos : Nat) : Nat := fabricTime s + (640 * lane + pos) / (20 * peWidth (getPort s p))

/-- The first word of the flit that leaves in a tick after that of byte `pos`. -/
def nextTick (s : State) (p lane pos : Nat) : Nat :=
  let w := 20 * peWidth (getPort s p)
  8 * ceilDiv (((640 * lane + pos) / w + 1) * w - 640 * lane) 8

/-- LINK_INIT in the stream, once, when a credit of VL0 is there and its gate lets it start. -/
def putInit (p lane : Nat) (s : State) : State :=
  let q := getPort s p
  let x := linkInitPacket s q
  let t := leaveTime s p lane q.txBytes.length
  if !q.initSent && mayTransmit s && decide (1 ≤ creditsFree (creditOf q 0) ∧ creditsFree (creditOf q 0) ≤ 2047) &&
      packetGate s p 0 t x != .shut then
    updPort p (fun q => { q with initSent := true })
      (beginPacket p 0 t (queueOf s p 0).length { pkt := x, inPort := 128, enq := s.clock.now, priv := 2 } s)
  else s

/-- An aged head that came to the head of its queue at or after this tick and before moment `m`, so that it was tested there before
it could start; the one that comes there in its place is tested then as well (R317). The fuel is the queue's length. -/
def testEarlier (p sub m : Nat) : Nat → State → State
  | 0, s => s
  | k + 1, s => match queueOf s p sub with
    | [] => s
    | x :: rest => match x.headAt with
      | none => s
      | some h =>
        if s.clock.now ≤ h ∧ h < m ∧ !x.cut ∧ isAgedAt s (fabricTime s + (h - s.clock.now)) x.pkt then
          testEarlier p sub m k (releaseRx p (ageOut p sub x (updQueue p sub (fun _ => headed h rest) s)))
        else s

/-- Every queue of a port so tested before a packet starts at moment `m`. -/
def testBefore (p m : Nat) (s : State) : State :=
  (getPort s p).queues.foldl (fun s k => testEarlier p k.1 m k.2.length s) s

/-- Packets started from byte `pos` until the next flit is full, with idle words up to the tick in which a gate lets one start.
The fuel covers the ten packets that a flit can begin and its ticks. -/
def fillStream (p lane : Nat) : Nat → Nat → State → State
  | 0, _, s => s
  | k + 1, pos, s =>
    if 640 ≤ pos then s
    else
      let t := leaveTime s p lane pos
      match nextPacket p t (testBefore p (momentOf s t) s) with
      | (s, some sub) =>
        let s := startPacket p sub t (updPort p (fun q => { q with txBytes := padTo pos q.txBytes }) s)
        fillStream p lane k (getPort s p).txBytes.length s
      | (s, none) => if isGated s p then fillStream p lane k (nextTick s p lane pos) s else s

/-- What the stream has for the flit on a lane, by the port's state (Table 9.9). -/
def stageStream (p lane : Nat) (s : State) : State :=
  let q := getPort s p
  if retryFull q then s
  else match q.state with
    | .up => fillStream p lane 44 q.txBytes.length s
    | .init | .quarantined => putInit p lane s
    | _ => s

/-! ## The test of age (R317) -/

/-- A queue's head would start in this tick. -/
def startsNow (s : State) (p sub : Nat) : Bool :=
  let q := getPort s p
  !retryFull q && decide (q.txBytes.length < 640) && (nextPacket p (fabricTime s) s).2 == some sub

/-- The test of one queued packet. A head that may still start in this tick, and then passes, is tested as the tick ends. -/
def ageCheck (port sub i : Nat) (s : State) : State :=
  match (queueOf s port sub)[i]? with
  | some q =>
    if !isAged s q.pkt || q.cut then s
    else if i == 0 && startsNow s port sub then updQueue port sub (fun l => l.set 0 { q with test := true }) s
    else releaseRx port (ageOut port sub q (updQueue port sub (·.eraseIdx i) s))
  | none => s

def execAgeCheck (port : BitVec 7) (sublane : BitVec 4) (index : BitVec 16) (s : State) :
    Host.Outcome State Fault Refusal := .next (ageCheck port.toNat sublane.toNat index.toNat s)

/-- The test of a packet that has come to the head of its queue in this tick, or was to be tested there, and has not started in
it; one that comes there in its place is tested as well. The fuel is the queue's length. -/
def testHead (p sub : Nat) : Nat → State → State
  | 0, s => s
  | k + 1, s => match queueOf s p sub with
    | [] => s
    | x :: _ =>
      if (x.headAt = some s.clock.now ∨ x.test) ∧ !x.cut ∧ isAged s x.pkt then
        testHead p sub k (releaseRx p (ageOut p sub x (updQueue p sub (·.drop 1) s)))
      else s

/-- Every queue's head tested as a tick ends. -/
def testHeads (s : State) : State :=
  s.ports.foldl (fun s q => q.2.queues.foldl (fun s k => testHead q.1 k.1 k.2.length s) s) s

/-! ## Flits -/

/-- Transfers of which a packet has left whole note the moment (R227). -/
def noteLeft (ps : List QPkt) (s : State) : State :=
  let mine (t : Transfer) : Bool := t.packets.any fun y => ps.any fun x => sentHeader x.pkt == sentHeader y
  let note (t : Transfer) : Transfer := if mine t then { t with sentAt := some s.clock.now } else t
  if ps.isEmpty then s
  else { s with groups := s.groups.map fun g => { g with transfers := g.transfers.map note } }

/-- The next new flit, for a lane: its FSN and its bytes. -/
def newFlit (p lane : Nat) (s : State) : State × BitVec 12 × List Byte :=
  let s := stageStream p lane s
  let q := getPort s p
  let bs := padTo 640 (q.txBytes.take 640)
  let fsn := q.txFsn
  let done := (q.sending.filter fun x => decide (x.1 ≤ 640)).map fun x => (fsn, x.2)
  let left := (q.sending.filter fun x => decide (640 < x.1)).map fun x => (x.1 - 640, x.2)
  (updPort p (fun q => { q with
    txFsn := fsn + 1, txBytes := q.txBytes.drop 640, sending := left, unacked := q.unacked ++ done
    retry := q.retry ++ [(fsn, s.clock.now, if q.txBytes.isEmpty then none else some bs)] }) (noteLeft (done.map (·.2)) s),
    fsn, bs)

/-- A codeword driven on a lane, its message bits scrambled (R197, R271). -/
def driveCodeword (p lane : Nat) (header : Nat) (flit : List Byte) (s : State) : State :=
  let m : Message := { header := BitVec.ofNat 20 header, flit := flit }
  let line := scramble (tget 0 (getPort s p).txLine lane) m.bits
  let s := updPort p (fun q => { q with txLine := tset 0 q.txLine lane (lineEnd line) }) s
  { s with out := { s.out with codewords := s.out.codewords ++
    [{ port := p, lane := lane, header := m.header, flit := flit, line := line }] } }

/-- Header words (Tables 7.2, 7.3). -/
def hdrAck (fsn : BitVec 12) (replay : Bool) (rtag : BitVec 2) : Nat := fsn.toNat * 64 + 32 * b2n replay + 8 * rtag.toNat
def hdrCredit (sub count : Nat) : Nat := 1 * 2 ^ 18 + sub * 2 ^ 14 + count * 4
def hdrTime (part value : Nat) : Nat := 2 * 2 ^ 18 + part * 2 ^ 16 + bits value (16 * part + 15) (16 * part)
def hdrSeq (fsn : BitVec 12) : Nat := 3 * 2 ^ 18 + fsn.toNat * 64

/-- Ticks of 1,000 codeword periods, after which a time update is due (log entry 39). -/
def updateGap : Nat := 32000

/-- The value of a time update that is due to start (R234, R291): an echo; one of the measurer's sixteen, 64 periods
apart; or the regular one. -/
def timeDue (s : State) (q : Port) : Option Nat :=
  match q.echo with
  | some (v, a) => some ((v + (fabricTime s - a)) % 2 ^ 64)
  | none =>
    let gap := since s q.updateAt
    if q.state = .measure then
      if isMeasurer s q && decide (q.updates < 16 ∧ (q.updates = 0 ∨ 2048 ≤ gap)) then some (fabricTime s) else none
    else if (q.state == .up || q.state == .quarantined || (isMeasurer s q && inLink q.state && q.state != .lock)) &&
        decide (updateGap ≤ gap) && s.clock.timeValid then some (fabricTime s)
    else none

/-- A part of a time update sent on lane 0: its header, the port after it, and whether the update ends an echoer's
MEASURE (log entry 38). -/
def sendTime (now v part : Nat) (q : Port) : Nat × Port × Bool :=
  let q := if part = 0 then { q with updateAt := now } else q
  if part < 3 then (hdrTime part v, { q with txTime := some (v, part + 1) }, false)
  else
    let n := q.updates + 1
    (hdrTime part v, { q with txTime := none, echo := none, updates := n }, q.echo.isSome && decide (n = 16))

/-- The CREDIT to send: of those that are due since the longest, the lowest sub-lane (DESIGN CHOICE, log entry 96). -/
def creditDue (now : Nat) (young : Bool) (q : Port) : Option (Nat × Credit) :=
  let due := q.credits.filterMap fun x => x.2.dueAt.bind fun t => if young ∨ 992 ≤ now - t then some (t, x) else none
  (due.foldl (fun (b : Option (Nat × (Nat × Credit))) d => match b with
    | some e => if d.1 < e.1 then some d else b
    | none => some d) none).map (·.2)

/-- The header of a codeword that opens no replay, by the rules of R199, and the port after it. Part 0 of a new time update goes
ahead of a due ACK, as its later parts do. From 240 flits without a SEQ on, a CREDIT waits until it has been due for 31 periods,
so that the SEQ is sent within 256 flits (DESIGN CHOICE, log entry 96). -/
def chooseHeader (s : State) (lane : Nat) (fsn : BitVec 12) (q : Port) : Nat × Port × Bool :=
  let tp : Option (Nat × Nat) := if lane ≠ 0 then none else match q.txTime with
    | some t => some t
    | none => (timeDue s q).map (·, 0)
  let q := { q with sinceSeq := q.sinceSeq + 1 }
  let seq : Nat × Port × Bool := (hdrSeq fsn, { q with sinceSeq := 0 }, false)
  match tp with
  | some (v, part) => sendTime s.clock.now v part q
  | none =>
    if q.ackDue ∨ 15 ≤ q.sinceAck then
      (hdrAck (q.rxFsn - 1) q.rxLoss q.rxTag, { q with ackDue := false, sinceAck := 0 }, false)
    else match creditDue s.clock.now (decide (q.sinceSeq < 240)) q with
      | some (k, c) =>
        (hdrCredit k c.freed.toNat, { q with credits := tset {} q.credits k { c with dueAt := none } }, false)
      | none => seq

/-- An update cut short by a replay is sent again in full (R234). -/
def dropUpdate (now : Nat) (q : Port) : Port :=
  if q.txTime.isSome then { q with txTime := none, updateAt := now - updateGap } else q

/-- A replay opened on lane 0: every flit held after the FSN asked for. -/
def openReplay (now : Nat) (f : BitVec 12) (q : Port) : Port :=
  let after := (q.retry.map (·.1)).dropWhile fun x => !decide ((x - f).toNat - 1 < 2047 ∧ x ≠ f)
  { dropUpdate now q with replay := after, replayFrom := none, sinceSeq := 0 }

/-- A flit on a lane: the next of a replay, or a new one. With 2,047 unacknowledged when a new one is due the port is
lost. -/
def flitTx (p lane : Nat) (s : State) : State :=
  let now := s.clock.now
  let from? := if lane = 0 then (getPort s p).replayFrom else none
  let s := updPort p (fun q =>
    let q := if lane = 0 then { q with sinceAck := q.sinceAck + 1 } else q
    match from? with
    | some f => openReplay now f q
    | none => q) s
  let q := getPort s p
  let again := q.replay.findSome? fun f => q.retry.find? (·.1 == f)
  let r : Option (State × BitVec 12 × List Byte) := match again with
    | some (f, _, bs) => some (updPort p (fun q =>
        { q with replay := (q.replay.dropWhile (· != f)).drop 1 }) s, f, bs.getD (List.replicate 640 0))
    | none => if 2047 ≤ q.retry.length then none else some (newFlit p lane (updPort p (fun q => { q with replay := [] }) s))
  match r with
  | none => portLost p s
  | some (s, fsn, bs) =>
    if from?.isSome then driveCodeword p lane (hdrSeq fsn) bs s
    else
      let (h, q, ended) := chooseHeader s lane fsn (getPort s p)
      let s := driveCodeword p lane h bs (updPort p (fun _ => q) s)
      let s := if ended && q.state == .measure then enterMargin p s else s
      checkUp p s

/-! ## Lock codewords (R290) -/

/-- The lock block of Table 9.10. -/
def lockBlock (q : Port) (lane : Nat) : List Byte :=
  padTo 640 (leBytes 4 0x4B4C4B00 ++ leBytes 1 lane ++ leBytes 1 (efield q.entry 1 1) ++ leBytes 1 q.txFlags.toNat ++ [0] ++
    leBytes 8 q.cwCount)

/-- `flags` of a period: `rx_locked` with port lock; `go` once the peer has it as well. -/
def lockFlags (q : Port) : BitVec 2 := BitVec.ofNat 2 (b2n (portLock q) + 2 * b2n (portLock q && q.peerLocked))

/-- A lock codeword on a lane. The flags of a period are those of its lane 0; after a period with `go`, flits follow. -/
def lockTx (p lane : Nat) (s : State) : State :=
  let s := if lane = 0 then updPort p (fun q => { q with txFlags := lockFlags q }) s else s
  let q := getPort s p
  let s := driveCodeword p lane (hdrSeq 0) (lockBlock q lane) s
  if lane + 1 = peWidth q then
    let go := bit q.txFlags.toNat 1
    let s := updPort p (fun q => { q with cwCount := q.cwCount + 1, goSent := go }) s
    if go && q.goCount.isSome && q.state == .lock then enterMeasure p s else s
  else s

/-- States in which a port's lanes drive codewords (Table 9.9). -/
def drives (st : LaneState) : Bool := inLink st || st == .quarantined

/-- CODEWORD_TX: the lane's codeword of a period (R200). -/
def codewordTx (p lane : Nat) (s : State) : State :=
  let q := getPort s p
  if peWidth q ≤ lane ∨ !drives q.state ∨ !s.clock.locked ∨ !bridgeDrives s (peBridge q) then s
  else if q.goSent then flitTx p lane s else lockTx p lane s

def execCodewordTx (port : BitVec 7) (lane : BitVec 4) (s : State) : Host.Outcome State Fault Refusal :=
  .next (codewordTx port.toNat lane.toNat s)

/-! ## The packet stream (R211) -/

/-- Packets and idle words read from the stream, each packet with the place of its first word, and the bytes left over; none at a
framing error. The stream begins at byte `o`. -/
def parseStream : Nat → Nat → List Byte → Option (List (Nat × Packet) × List Byte)
  | 0, _, bs => some ([], bs)
  | k + 1, o, bs =>
    if bs.length < 8 then some ([], bs)
    else
      let t := leAt bs 0 1
      if t = 0 then if allZero (bs.take 8) then parseStream k (o + 8) (bs.drop 8) else none
      else if 0x80 ≤ t then none
      else
        let n := if 0x40 ≤ t then 64 else 40 + 256 * bits (leAt bs 6 2) 5 0
        if bs.length < n then some ([], bs)
        else (parseStream k (o + n) (bs.drop n)).map fun r => ((o, packetOf (bs.take n)) :: r.1, r.2)

/-! ## The receiver of flits (R203) -/

/-- A header with a non-zero reserved bit (R198). -/
def hdrBad (h : Nat) : Bool :=
  match bits h 19 18 with
  | 0 => bits h 2 0 != 0
  | 1 => bits h 1 0 != 0
  | 2 => false
  | _ => bits h 5 0 != 0

/-- The FSN that a codeword's header names, if it is SEQ. -/
def seqOf (c : Message) : Option (BitVec 12) :=
  let h := c.header.toNat
  if bits h 19 18 = 3 ∧ !hdrBad h then some (BitVec.ofNat 12 (bits h 17 6)) else none

/-- The fabric time at which the word at byte `o` of the stream came: those of the flit just accepted as the lane carries them
(log entry 45), and the first `old` bytes, whose first word came at `first`, before it. -/
def arriveTime (s : State) (p lane old first o : Nat) : Nat := if o < old then first else leaveTime s p lane (o - old)

/-- A flit accepted in order: its bytes join the stream, and whole packets leave it. A framing error loses the port. -/
def acceptFlit (p lane : Nat) (bs : List Byte) (s : State) : State :=
  let q := getPort s p
  let all := q.rxBytes ++ slice bs 0 640
  let at' := arriveTime s p lane q.rxBytes.length q.rxAt
  let s := updPort p (fun q => { q with rxFsn := q.rxFsn + 1, rxLoss := false, lastFlit := s.clock.now }) s
  match parseStream (all.length / 8 + 1) 0 all with
  | some (ps, rest) => updPort p (fun q => { q with
      rxBytes := rest, rxQueue := q.rxQueue ++ ps.map (fun x => (at' x.1, x.2)), rxAt := at' (all.length - rest.length) }) s
  | none => portLost p s

/-- A loss: a replay is asked for, MARGIN fails (R292), or before UP the port returns to LOCK (R294). -/
def flitLoss (p lane : Nat) (s : State) : State :=
  let q := getPort s p
  if q.state = .margin then marginLoss p lane s
  else if q.state = .up ∨ q.state = .quarantined then
    updPort p (fun q => { q with rxLoss := true, rxTag := q.rxTag + 1, ackDue := true }) s
  else portLost p s

/-- The parts of a time update followed on lane 0 (R234). -/
def followTime (s : State) (cw : Option Message) (q : Port) : Port :=
  let part : Option Nat := match cw with
    | some c => if bits c.header.toNat 19 18 = 2 then some (bits c.header.toNat 17 16) else none
    | none => none
  match part with
  | some 0 => { q with rxTime := some (fabricTime s, 1) }
  | some k => match q.rxTime with
    | some (t, j) => { q with rxTime := if j = k then some (t, k + 1) else none }
    | none => q
  | none => match q.rxTime with
    | some (_, 4) => q
    | _ => { q with rxTime := none }

/-- A codeword read as a flit. -/
def flitRx (p lane : Nat) (cw : Option Message) (s : State) : State :=
  let q := getPort s p
  match cw with
  | none => if q.rxLoss then s else flitLoss p lane s
  | some c =>
    let s := if hdrBad c.header.toNat then drop p 18 s else s
    let named := seqOf c
    if q.rxLoss then if named = some q.rxFsn then acceptFlit p lane c.flit s else s
    else match named with
      | some f => if f = q.rxFsn then acceptFlit p lane c.flit s else flitLoss p lane s
      | none => acceptFlit p lane c.flit s

/-! ## Lock of a lane (R290) -/

/-- A codeword lost to a lane: one that is not locked starts anew; the eighth in turn loses lane lock. -/
def laneMiss (l : LaneLock) : LaneLock × Bool :=
  if l.locked then ({ l with missed := l.missed + 1, count := l.count + 1 }, decide (8 ≤ l.missed + 1))
  else ({ l with run := 0 }, false)

/-- A lock block with these values. -/
def laneHit (l : LaneLock) (idx width n : Nat) : LaneLock × Bool :=
  let next := decide (0 < l.run) && l.idx == idx && l.width == width && l.count + 1 == n
  if next then ({ l with run := l.run + 1, missed := 0, count := n, locked := l.locked || decide (4 ≤ l.run + 1) }, false)
  else if l.locked then laneMiss l
  else ({ run := 1, idx := idx, width := width, count := n }, false)

/-- A codeword read as a lock codeword. -/
def lockRx (p lane : Nat) (cw : Option Message) (s : State) : State :=
  let q := getPort s p
  let l : LaneLock := tget {} q.locks lane
  let block : Option (List Byte) := match cw with
    | some c => if leAt c.flit 0 4 = 0x4B4C4B00 then some c.flit else none
    | none => none
  let r := match block with
    | some b => laneHit l (leAt b 4 1) (leAt b 5 1) (leAt b 8 8)
    | none => laneMiss l
  let flags := match block with
    | some b => leAt b 6 1
    | none => 0
  if r.2 then portLost p s
  else
    let s := updPort p (fun q => { q with
      locks := tset {} q.locks lane r.1, peerLocked := q.peerLocked || bit flags 0 }) s
    if bit flags 1 && r.1.locked && q.goCount.isNone then
      let s := updPort p (fun q => { q with goCount := some r.1.count, lastFlit := s.clock.now }) s
      if q.goSent && q.state == .lock then enterMeasure p s else s
    else s

/-- Symbols corrected in a codeword counted, for the port, the health risk estimate (input 1 of R340) and the margin
window. -/
def countSymbols (p lane : Nat) (cw : Codeword) (s : State) : State :=
  match cw.symbols with
  | none => s
  | some c =>
    let n := c.toNat
    let s := { s with course := { s.course with inputs := s.course.inputs.set 1 (s.course.inputs.getD 1 0 + n) } }
    updPort p (fun q =>
      let m := tget (0, 0) q.marginLanes lane
      { q with
        counts := { q.counts with symbols := q.counts.symbols + BitVec.ofNat 48 n }
        marginLanes := if q.state = .margin then tset (0, 0) q.marginLanes lane (max m.1 n, m.2 + n)
          else q.marginLanes }) s

/-- A codeword descrambled after decoding (R271): what it carries, unless it is uncorrectable (R198). -/
def hearCodeword (p lane : Nat) (cw : Codeword) (s : State) : Option Message × State :=
  let m := Message.ofBits (descramble (tget 0 (getPort s p).rxLine lane) cw.message)
  (cw.symbols.map fun _ => m, updPort p (fun q => { q with rxLine := tset 0 q.rxLine lane (lineEnd cw.message) }) s)

/-- Codewords that wait taken as flits in the order of their lanes and periods, as far as they have come (R290). The fuel is their
number. -/
def takeDeskewed (p : Nat) : Nat → State → State
  | 0, s => s
  | k + 1, s =>
    let q := getPort s p
    match tget [] q.deskew q.rxLane with
    | [] => s
    | m :: ms =>
      let s := updPort p (fun q => { q with
        deskew := tset [] q.deskew q.rxLane ms, rxLane := (q.rxLane + 1) % max 1 (peWidth q) }) s
      takeDeskewed p k (flitRx p q.rxLane m s)

/-- A codeword that is a flit: lane 0's times are those of its arrival, and the lanes are deskewed before their flits are taken
(R290). -/
def deskewRx (p lane : Nat) (m : Option Message) (s : State) : State :=
  let s := if lane = 0 then updPort p (followTime s m) s else s
  let s := updPort p (fun q => { q with deskew := tset [] q.deskew lane (tget [] q.deskew lane ++ [m]) }) s
  takeDeskewed p (((getPort s p).deskew.map (·.2.length)).sum) s

/-- CODEWORD_RX: what a lane receives is a flit once `go` has been seen in an earlier period. The headers ACK, CREDIT and
TIME act as commands of their own. -/
def codewordRx (p lane : Nat) (cw : Codeword) (s : State) : State :=
  let q := getPort s p
  if peWidth q ≤ lane ∨ !drives q.state then s
  else
    let (m, s) := hearCodeword p lane cw (countSymbols p lane cw s)
    let l : LaneLock := tget {} q.locks lane
    match q.goCount with
    | some n => if n ≤ l.count then deskewRx p lane m s else lockRx p lane m s
    | none => lockRx p lane m s

def execCodewordRx (port : BitVec 7) (lane : BitVec 4) (cw : Codeword) (s : State) :
    Host.Outcome State Fault Refusal := .next (codewordRx port.toNat lane.toNat cw s)

/-! ## ACK and CREDIT headers (R204, R207) -/

/-- FSN a precedes FSN b (R201). -/
def precedes (a b : BitVec 12) : Bool :=
  let d := (b - a).toNat
  decide (1 ≤ d ∧ d ≤ 2047)

/-- An ACK received: flits freed with the packets they end, and a replay owed. -/
def ackRx (p : Nat) (fsn : BitVec 12) (replay : Bool) (rtag : BitVec 2) (s : State) : State :=
  let q := getPort s p
  if !q.goSent || !drives q.state then s
  else
    let old : Bool := match q.lastAck with
      | some l => precedes fsn l
      | none => false
    let covered (f : BitVec 12) : Bool := !old && (f == fsn || precedes f fsn)
    let freed := (q.unacked.filter fun x => covered x.1).map (·.2)
    let s := updPort p (fun q => { q with
      retry := q.retry.filter (fun f => !covered f.1), unacked := q.unacked.filter (fun x => !covered x.1)
      lastAck := if old then q.lastAck else some fsn }) s
    let s := forEach freed releaseBuf s
    if replay ∧ q.lastRtag ≠ some rtag then
      let s := { s with course := { s.course with inputs := s.course.inputs.set 2 (s.course.inputs.getD 2 0 + 1) } }
      updPort p (fun q => { q with
        lastRtag := some rtag, replayFrom := some fsn
        counts := { q.counts with replays := q.counts.replays + 1 } }) s
    else s

def execAck (port : BitVec 7) (fsn : BitVec 12) (replay : Bool) (rtag : BitVec 2) (s : State) :
    Host.Outcome State Fault Refusal := .next (ackRx port.toNat fsn replay rtag s)

/-- `on_credit` of R207, and the packets to an endpoint whose credit is back (R209). -/
def creditRx (p sub : Nat) (n : BitVec 12) (s : State) : State :=
  let q := getPort s p
  if 9 ≤ sub then drop p 18 s
  else if !drives q.state then s
  else
    let c := creditOf q sub
    let new := c.init + n
    let limit := if (new - c.limit).toNat < 2048 then new else c.limit
    updPort p (fun q => { q with
      credits := tset {} q.credits sub { c with limit := limit }
      creditAt := q.creditAt.filter fun x => !(x.1 == sub && decide ((limit - c.init - x.2.1).toNat < 2048)) }) s

def execCredit (port : BitVec 7) (sublane : BitVec 4) (count : BitVec 12) (s : State) :
    Host.Outcome State Fault Refusal := .next (creditRx port.toNat sublane.toNat count s)

end Sys2Proof.Machine
end

