-- ==== Sys2Proof/Machine/DroneLanes.lean ====
section
/-!
DEFINITION. Drone lanes (R275 to R281, R295 to R301), the reference clock (R282 to R285, R19), fabric time (R299 to R304),
the loads of the drone and peg tables (R287, R295, R413) and PORT_RESTART (R289).
-/
namespace Sys2Proof.Machine

/-! ## Lanes -/

/-- Peg index of a drone lane (R287): lane l of bridge b has drone lane number 8 × b + l. -/
def dronePeg (m : Nat) : Nat := 256 + m

/-- A lane's number in an event (Table 13.23). -/
def droneNo (m : Nat) : Nat := 256 + m

/-- A lane that has reached HELLO with an accepted hello that has `ref_locked`. -/
def offersRef (s : State) (m : Nat) : Bool :=
  match (getDrone s m).accepted with
  | some b => laneHears s m && bit (helloFlags b) 1
  | none => false

/-- The reference came by this lane, or by it until a REF_RELAY commit of this tick: of the two, the loss is taken first (R285). -/
def cameBy (s : State) (m : Nat) : Bool := isRelay s && (m == upstream s || s.clock.relayFrom == some (m, s.clock.now))

/-- Holdover begins where the reference came by this lane (R285). -/
def upstreamLost (m : Nat) (s : State) : State :=
  if cameBy s m && s.clock.locked && !s.clock.holdover then
    refEvent 1 m { s with clock := { s.clock with
      refLosses := satInc s.clock.refLosses, holdover := true, holdoverAt := s.clock.now, onAlt := false } }
  else s

/-! ## LOCK, loss and the neighbour (R277, R281) -/

/-- A lane without anything it had learnt; its transmitter abandons an ordinary frame under way with ABT (Table 9.3). In LOCK and
QUARANTINED it sends no TMARK and no urgent frame that has not begun (R296, Table 9.9). -/
def freshDrone (d : Drone) : Drone :=
  { d with
    level := 0, lastBeat := none, peerState := 0, helloAt := none, accepted := none, reqAt := none, waiting := false
    samples := [], tries := 0, measured := false, tmarkAt := none, skew := 0, txFrames := [], txFrame := none
    txRest := if d.txFrame.isSome then [.k kAbt] else d.txRest
    txUrgent := []
    txSets := d.txSets.filter fun f => match f with
      | .beat _ => true
      | _ => false }

/-- A lane enters LOCK with its peg entry (R288). -/
def droneLock (m : Nat) (s : State) : State :=
  let s := updDrone m (fun d => { freshDrone d with state := .lock, qCause := 0, since := s.clock.now }) s
  { s with routing := { s.routing with
    pegsUsed := tset 0 s.routing.pegsUsed (dronePeg m) (pegEntry s (dronePeg m)) } }

/-- A lane that counts as lost (R281, R296). -/
def laneGone (s : State) (m : Nat) : Bool := !laneHears s m

/-- Every drone lane to a module is lost. -/
def allGone (s : State) (n : Nat) : Bool := (lanesTo s n).all (laneGone s)

/-- Where every lane to a neighbour is lost, its ports and then the neighbour are declared lost, and its level is open again
(R297). -/
def checkNeighbour (n : Nat) (s : State) : State :=
  if allGone s n then
    declareLost n (portsLost n { s with course := { s.course with levels := tset 0 s.course.levels n 0 } })
  else s

/-- PORT_STATE where a lane leaves UP. -/
def droneLeaves (m : Nat) (st : LaneState) (s : State) : State :=
  if (getDrone s m).state = .up then postEvent 0x0004 (droneNo m) (stateCode st) [] s else s

/-- A lane in HELLO, MEASURE or UP is lost and returns to LOCK. -/
def droneLost (m : Nat) (s : State) : State :=
  if laneHears s m then
    let n := dePeer (getDrone s m)
    checkNeighbour n (droneLock m (upstreamLost m (droneLeaves m .lock s)))
  else s

/-- 640 ticks without a valid BEAT. -/
def droneTimeout (m : Nat) (s : State) : State :=
  let d := getDrone s m
  if laneHears s m && decide (640 ≤ since s (d.lastBeat.getD d.since)) then droneLost m s else s

def execDroneLaneLost (lane : BitVec 5) (s : State) : Host.Outcome State Fault Refusal :=
  .next (droneTimeout lane.toNat s)

/-- A lane quarantined with a cause; with every lane to the neighbour quarantined, its ports are as well (R296). -/
def quarantineLane (m cause : Nat) (s : State) : State :=
  if !laneHears s m then s
  else
    let n := dePeer (getDrone s m)
    let s := upstreamLost m (droneLeaves m .quarantined s)
    let s := updDrone m (fun d => { freshDrone d with
      state := .quarantined, qCause := BitVec.ofNat 8 cause, lastBeat := d.lastBeat, since := s.clock.now }) s
    let s := postEvent 0x0002 (droneNo m) cause [] s
    let s := if (lanesTo s n).all fun i => (getDrone s i).state == .quarantined then
      forEach (portsTo s n) (fun p => quarantinePort p cause) s else s
    checkNeighbour n s

/-- Every lane's code group of this tick: electrical idle where it does not drive (R275, Table 9.9). -/
def driveLines (s : State) : State :=
  { s with drones := s.drones.map fun q => (q.1, if laneSends s q.1 then sendGroup s q.2 else { q.2 with pins := none }) }

/-! ## BEAT and alignment (R277, R295) -/

/-- An ordered set is due: none of its kind waits to begin, and the last began so many ticks ago. -/
def setDue (s : State) (d : Drone) (isBeat : Bool) (last : Option Nat) (gap : Nat) : Bool :=
  !(d.txSets.any fun f => match f with
    | .beat _ => isBeat
    | _ => !isBeat) && (match last with
    | some t => decide (gap ≤ since s t)
    | none => true)

/-- A BEAT sent, 150 code groups after the last began at least: `state` and the next beat number. -/
def beatTx (m : Nat) (s : State) : State :=
  let d := getDrone s m
  if laneSends s m && setDue s d true d.beatAt 150 then
    let b := BitVec.ofNat 8 (64 * b2n s.course.draining + d.beatNo.toNat)
    updDrone m (fun d => { d with beatNo := d.beatNo + 1 }) (droneSend m (.beat b) s)
  else s

def execDroneBeatTx (lane : BitVec 5) (s : State) : Host.Outcome State Fault Refusal := .next (beatTx lane.toNat s)

/-- A BEAT received: valid where its reserved bits are 0. DRAINING is entered in the fault table (R348). -/
def beatRx (m : Nat) (b : Byte) (s : State) : State :=
  let st := bits b.toNat 7 6
  let d := getDrone s m
  if 2 ≤ st ∨ d.state = .disabled ∨ d.state = .failed then s
  else
    let s := updDrone m (fun d => { d with lastBeat := some s.clock.now, peerState := BitVec.ofNat 2 st }) s
    if st = 1 ∧ laneHears s m ∧ faultOf s (dePeer d) = .up then setFault (dePeer d) .draining s else s

def execBeat (lane : BitVec 5) (data : Byte) (s : State) : Host.Outcome State Fault Refusal :=
  .next (beatRx lane.toNat data s)

/-- Four commas at one boundary: the lane leaves LOCK. Until its first BEAT the 640 ticks of R277 are counted from here (DESIGN
CHOICE, log entry 103). An upstream lane that comes to HELLO restarts a module that has lost its reference at step 2 of R284:
its drone lanes drive again (R285; which lanes these are is log entry 43). -/
def commaAlign (m : Nat) (s : State) : State :=
  if (getDrone s m).state = .lock then
    let s := updDrone m (fun d => { d with state := .hello, since := s.clock.now, lastBeat := some s.clock.now }) s
    if isRelay s && (m == upLane s || (bit s.clock.refCtrl.toNat 18 && m == altLane s)) then
      { s with clock := { s.clock with lost := false } }
    else s
  else s

def execCommaAlign (lane : BitVec 5) (s : State) : Host.Outcome State Fault Refusal := .next (commaAlign lane.toNat s)

/-- Code groups received: a code error, or a frame that is discarded (R275, R279). Code errors are counted in DRONE_STATUS, and
what is discarded as a frame is counted beside it. -/
def frameError (m : Nat) (groups : List (BitVec 10)) (s : State) : State :=
  match frameFault groups with
  | none => s
  | some e =>
    if (getDrone s m).state = .disabled then s
    else updDrone m (fun d => { d with
      frameErrs := d.frameErrs + 1
      codeErr := if e = .code then satInc d.codeErr else d.codeErr }) s

def execDroneFrameError (lane : BitVec 5) (groups : List (BitVec 10)) (s : State) : Host.Outcome State Fault Refusal :=
  .next (frameError lane.toNat groups s)

/-! ## HELLO (R295 to R297, Table 9.8) -/

/-- The module's hello on a lane. -/
def helloBody (s : State) (m : Nat) : BitVec 224 :=
  let d := getDrone s m
  let c := s.clock
  let spread := if refSource s = 0 then c.spreadSeen else bits c.refCtrl.toNat 9 8 != 0
  let flags := b2n (d.state == .quarantined) + 2 * b2n c.locked + 4 * b2n c.timeValid + 8 * b2n spread
  BitVec.ofNat 224 (leNat (leBytes 8 s.flash.identity.serial.toNat ++ leBytes 2 s.label ++ leBytes 1 s.routing.dim.toNat ++
    leBytes 1 (deDim d) ++ leBytes 1 m ++ leBytes 1 (deMaxLevel d) ++ leBytes 1 flags ++ [0] ++
    leBytes 4 s.boot.build.toNat ++ leBytes 4 (if c.timeValid then c.relayDelay else 0xFFFFFFFF) ++ leBytes 4 0))

/-- A HELLO sent when it is due: every 100 µs until the peer's is accepted, every 1 ms after that. -/
def helloTx (m : Nat) (s : State) : State :=
  let d := getDrone s m
  let gap := if d.accepted.isSome then ticks1ms else 125000
  let dueNow : Bool := match d.helloAt with
    | some t => decide (gap ≤ since s t)
    | none => true
  if (laneHears s m || d.state == .quarantined) && droneDrives s m && dueNow then
    updDrone m (fun d => { d with helloAt := some s.clock.now }) (droneSend m (.hello (helloBody s m)) s)
  else s

def execHelloTx (lane : BitVec 5) (s : State) : Host.Outcome State Fault Refusal := .next (helloTx lane.toNat s)

/-- A reserved field that is not 0, or a value outside Table 9.8. -/
def helloBad (b : BitVec 224) : Bool :=
  bits (helloField b 8 2) 15 11 != 0 || bits (helloFlags b) 7 4 != 0 || helloField b 15 1 != 0 || helloField b 24 4 != 0 ||
  decide (helloField b 10 1 < 1 ∨ 11 < helloField b 10 1 ∨ 10 < helloField b 11 1 ∨ 31 < helloField b 12 1 ∨
    helloField b 13 1 < 1 ∨ 3 < helloField b 13 1)

/-- A hello but for `flags` and `relay_delay`. -/
def helloCore (b : BitVec 224) : BitVec 224 := setBits (setBits b 112 8 0) 160 32 0

/-- A hello that differs from one accepted: on its lane in any field, or in the level that fixes the neighbour's (R297). -/
def helloChanged (s : State) (m : Nat) (b : BitVec 224) : Bool :=
  let d := getDrone s m
  (match d.accepted with
    | some a => helloCore a != helloCore b
    | none => false) ||
  (tget 0 s.course.levels (dePeer d) != 0 && tget 0 s.course.levels (dePeer d) != helloField b 13 1)

/-- The first check of Table 9.14 that a hello fails; 0 where it is accepted. -/
def helloCause (s : State) (m : Nat) (b : BitVec 224) : Nat :=
  let d := getDrone s m
  if bit (helloFlags b) 0 then 1
  else if helloField b 10 1 ≠ s.routing.dim.toNat ∨ helloField b 11 1 ≠ deDim d then 2
  else if bits (helloField b 8 2) 10 0 ≠ dePeer d then 3
  else if helloField b 12 1 ≠ dePeerLane d then 4
  else if helloField b 0 8 ≠ deSerial d then 5
  else if deBuild d ≠ 0 ∧ helloField b 16 4 ≠ deBuild d then 6
  else if helloBad b then 7
  else if helloChanged s m b then 10
  else 0

/-- The level a neighbour offers, fixed by the first hello accepted from it (R297). -/
def fixLevel (n l : Nat) (s : State) : State :=
  if tget 0 s.course.levels n = 0 then { s with course := { s.course with levels := tset 0 s.course.levels n l } } else s

/-- A hello received. -/
def helloRx (m : Nat) (b : BitVec 224) (s : State) : State :=
  if !laneHears s m then s
  else
    let cause := helloCause s m b
    if cause ≠ 0 then quarantineLane m cause s
    else
      let s := updDrone m (fun d => { d with
        accepted := some b, level := BitVec.ofNat 2 (min (deMaxLevel d) (helloField b 13 1))
        state := if d.state = .hello then .measure else d.state
        since := if d.state = .hello then s.clock.now else d.since
        measureAt := if d.state = .hello then s.clock.now else d.measureAt }) s
      helloCame (dePeer (getDrone s m)) (takeUpstream m (fixLevel (dePeer (getDrone s m)) (helloField b 13 1) s))

def execHello (lane : BitVec 5) (body : BitVec 224) (s : State) : Host.Outcome State Fault Refusal :=
  .next (helloRx lane.toNat body s)

/-! ## The delay of a lane (R300) -/

/-- A lane that measures: in MEASURE, or again in UP after a relock, on the module's reference. -/
def laneMeasures (s : State) (m : Nat) : Bool :=
  let d := getDrone s m
  s.clock.locked && (d.state == .measure || (d.state == .up && !d.measured))

/-- The measurement begins again; the third failure is MEASURE_FAIL. -/
def droneMeasureFails (m : Nat) (s : State) : State :=
  let d := getDrone s m
  if d.tries = 2 then
    let n := dePeer d
    let s := upstreamLost m (droneLeaves m .failed s)
    let s := updDrone m (fun d => { freshDrone d with state := .failed, since := s.clock.now }) s
    checkNeighbour n (postEvent 0x0003 (droneNo m) 2 [] s)
  else updDrone m (fun d => { d with samples := [], waiting := false, tries := d.tries + 1, measureAt := s.clock.now }) s

/-- The next DELAY_REQ, 1 µs after the last. A measurement that has lasted 1 ms has failed (R291). -/
def delayReqTx (m : Nat) (s : State) : State :=
  let d := getDrone s m
  let dueNow : Bool := match d.reqAt with
    | some t => decide (1250 ≤ since s t)
    | none => true
  if !laneMeasures s m || !droneDrives s m then s
  else if ticks1ms ≤ since s d.measureAt then droneMeasureFails m s
  else if dueNow then
    let s := droneSend m (.delayReq d.reqId (BitVec.ofNat 64 s.clock.fine)) s
    updDrone m (fun d => { d with reqId := d.reqId + 1, reqAt := some s.clock.now, waiting := true }) s
  else s

def execDelayReqTx (lane : BitVec 5) (s : State) : Host.Outcome State Fault Refusal := .next (delayReqTx lane.toNat s)

/-- A DELAY_REQ answered at once: arrival and departure by this module's own fine time. -/
def delayReqRx (m : Nat) (req : BitVec 32) (t1 : BitVec 64) (s : State) : State :=
  let now := BitVec.ofNat 64 s.clock.fine
  if laneHears s m && droneDrives s m then droneSend m (.delayResp req t1 now now) s else s

def execDelayReq (lane : BitVec 5) (reqId : BitVec 32) (t1 : BitVec 64) (s : State) : Host.Outcome State Fault Refusal :=
  .next (delayReqRx lane.toNat reqId t1 s)

/-- Sixteen samples are there: δ, or another measurement. MEASURE ends in UP. -/
def droneMeasured (m : Nat) (s : State) : State :=
  let d := getDrone s m
  let (δ, good) := ninth d.samples 64
  if good && decide (δ ≤ 48000) then
    let s := updDrone m (fun d => { d with delayFine := BitVec.ofNat 16 δ, measured := true, tries := 0 }) s
    let s := takeUpstream m s
    if d.state = .measure then
      let s := updDrone m (fun d => { d with state := .up, since := s.clock.now }) s
      neighbourBack (dePeer d) (postEvent 0x0004 (droneNo m) 7 [] s)
    else s
  else droneMeasureFails m s

/-- The response to the outstanding request: one sample (the half rounded down: DEDUCED, log entry 50). -/
def delayRespRx (m : Nat) (req : BitVec 32) (t1 t2 t3 : BitVec 64) (s : State) : State :=
  let d := getDrone s m
  if !laneMeasures s m || !d.waiting || req + 1 != d.reqId then s
  else
    let x := ((BitVec.ofNat 64 s.clock.fine - t1) - (t3 - t2)).toNat / 2
    let s := updDrone m (fun d => { d with samples := d.samples ++ [x], waiting := false }) s
    if (getDrone s m).samples.length = 16 then droneMeasured m s else s

def execDelayResp (lane : BitVec 5) (reqId : BitVec 32) (t1 t2 t3 : BitVec 64) (s : State) :
    Host.Outcome State Fault Refusal := .next (delayRespRx lane.toNat reqId t1 t2 t3 s)

/-! ## The reference (R284, R285, R19) -/

/-- Every lane measures its delay anew (R300). -/
def relockLanes (s : State) : State :=
  { s with drones := s.drones.map fun q => (q.1, if q.2.state = .up ∨ q.2.state = .measure then
      { q.2 with measured := false, samples := [], tries := 0, waiting := false, measureAt := s.clock.now }
    else q.2) }

/-- Ports that waited for the reference and for time enter LOCK. -/
def portsGo (s : State) : State :=
  forEach ((List.range 128).filter fun p =>
    (getPort s p).state == .waitRef && refReady s (peBridge (getPort s p))) enterLock s

/-- The reference that the module waits for is there: the source's own, or the upstream lane's. -/
def refOffered (s : State) : Bool :=
  match refSource s with
  | 0 => offersRef s (upstream s)
  | 3 => false
  | _ => true

/-- Steps 2 to 5 of R284: every lane on the reference; the source's time loaded, once, and valid. It also ends a holdover
whose upstream is back (DEDUCED, log entry 43) and a bridge's loss of lock. -/
def refLock (s : State) : State :=
  let c := s.clock
  if s.boot.life != .running || !refOffered s || (c.locked && !c.holdover && c.bridgeLost.isEmpty) then s
  else
    let load := refSource s != 0 && !c.timeValid
    let s := { s with clock := { c with
      locked := true, lost := false, holdover := false, bridgeLost := []
      fine := if load then c.ftimeInit.toNat * 64 else c.fine, timeValid := c.timeValid || load
      relayDelay := if refSource s = 0 then c.relayDelay else 0 } }
    portsGo (relockLanes (timeMoved (c.fine / 64 % 2 ^ 64) s))

def execRefLock (s : State) : Host.Outcome State Fault Refusal := .next (refLock s)

/-- In holdover the relay locks to its alternative lane. -/
def altLock (s : State) : State :=
  let m := altLane s
  if s.clock.holdover && bit s.clock.refCtrl.toNat 18 && (getDrone s m).state == .up && offersRef s m then
    refEvent 2 m (relockLanes (takeUpstream m { s with clock := { s.clock with holdover := false, onAlt := true } }))
  else s

def execAltLaneLock (s : State) : Host.Outcome State Fault Refusal := .next (altLock s)

/-- Holdover has lasted 1 ms: the relay becomes the source, or its reference is lost. -/
def holdoverEnd (s : State) : State :=
  let c := s.clock
  if !c.holdover || decide (since s c.holdoverAt < ticks1ms) then s
  else if bit c.refCtrl.toNat 12 then
    refEvent 3 0 { s with clock := { c with
      refCtrl := setBits c.refCtrl 0 2 1, holdover := false, onAlt := false, relayDelay := 0 } }
  else
    let s := { s with clock := { c with holdover := false, onAlt := false, locked := false, lost := true } }
    refEvent 4 0 (forEach (List.range 128) portWaits s)

def execHoldoverExpiry (s : State) : Host.Outcome State Fault Refusal := .next (holdoverEnd s)

/-- A bridge loses lock to its reference clock, which it reports to the headstock: its lanes drive electrical idle, its ports wait
for the reference (R19). -/
def bridgeLosesLock (b : Nat) (s : State) : State :=
  if s.config.bridges ≤ b ∨ s.clock.bridgeLost.contains b then s
  else
    forEach ((List.range 128).filter fun p => peEnable (getPort s p) && peBridge (getPort s p) == b) portWaits
      { s with clock := { s.clock with bridgeLost := b :: s.clock.bridgeLost, lockLosses := s.clock.lockLosses + 1 } }

def execLossOfLock (bridge : BitVec 2) (s : State) : Host.Outcome State Fault Refusal := .next (bridgeLosesLock bridge.toNat s)

/-! ## Fabric time (R278, R302, R304) -/

/-- The ninth data code group of a TMARK. -/
def tmarkCrc (v : BitVec 64) : Byte := crc8 (leBytes 8 v.toNat)

/-- A TMARK sent on an UP lane, 1,024 ticks after the last left at least. -/
def tmarkTx (m : Nat) (s : State) : State :=
  let d := getDrone s m
  if d.state == .up && s.clock.timeValid && droneDrives s m && setDue s d false d.tmarkAt 1024 then
    let v := BitVec.ofNat 64 (fabricTime s)
    droneSend m (.tmark v (tmarkCrc v)) s
  else s

def execTmarkTx (lane : BitVec 5) (s : State) : Host.Outcome State Fault Refusal := .next (tmarkTx lane.toNat s)

/-- Fabric time steered by the upstream's mark (R302). Time never runs back: a phase that is ahead is slowed. -/
def steer (m : Nat) (target : Nat) (s : State) : State :=
  let c := s.clock
  let old := fabricTime s
  if !c.timeValid then portsGo (timeMoved old { s with clock := { c with fine := target, timeValid := true, slew := 0 } })
  else
    let e : Int := (target : Int) - c.fine
    let stepped (c : Clock) : State :=
      refEvent 5 m (timeMoved old { s with clock := { c with timeSteps := satInc c.timeSteps } })
    if 64 < e then stepped { c with fine := target, slew := 0 }
    else if e < -64 then stepped { c with slew := (-e).toNat }
    else if 0 < e then timeMoved old { s with clock := { c with fine := c.fine + 1 } }
    else if e < 0 then { s with clock := { c with slew := 1 } }
    else s

/-- A mark on another lane checked: the fourth in turn that is more than 8 ns off is TIME_SKEW (R304). -/
def checkSkew (m : Nat) (target : Nat) (s : State) : State :=
  let e := ((target : Int) - s.clock.fine).natAbs
  let n := if 640 < e then (getDrone s m).skew + 1 else 0
  let s := updDrone m (fun d => { d with skew := n }) s
  if n = 4 then refEvent 6 m s else s

/-- A TMARK received. -/
def tmarkRx (m : Nat) (v : BitVec 64) (crc : Byte) (s : State) : State :=
  let d := getDrone s m
  let target := v.toNat * 64 + d.delayFine.toNat
  if d.state ≠ .up ∨ crc ≠ tmarkCrc v then s
  else if isUpstream s m then if s.clock.holdover || !s.clock.locked then s else steer m target s
  else if s.clock.timeValid then checkSkew m target s
  else s

def execTmark (lane : BitVec 5) (value : BitVec 64) (crc : Byte) (s : State) : Host.Outcome State Fault Refusal :=
  .next (tmarkRx lane.toNat value crc s)

/-! ## DRONE_TABLE_LOAD (R295, Table 9.13) -/

/-- An enabled lane leaves DISABLED, once its peg entry is there (R413). -/
def bringUpDrone (m : Nat) (s : State) : State :=
  let d := getDrone s m
  if !deEnable d || d.state != .disabled || !droneExists s m then s
  else if pegMain s (dronePeg m) = 0 then
    if d.noPeg then s else postEvent 0x000E (dronePeg m) 0 [] (updDrone m (fun d => { d with noPeg := true }) s)
  else droneLock m s

def bringUpDrones (s : State) : State := forEach (List.range 32) bringUpDrone s

def droneRsvdOk (e : BitVec 192) : Bool :=
  bits (efield e 0 1) 7 1 == 0 && efield e 6 2 == 0 && efield e 20 4 == 0

def droneRangeOk (s : State) (e : BitVec 192) : Bool :=
  let d : Drone := { entry := e }
  let n := s.routing.dim.toNat
  decide (deDim d ≤ 10 ∧ deDim d < n ∧ dePeer d < 2048 ∧ dePeerLane d < 32 ∧ 1 ≤ deMaxLevel d ∧ deMaxLevel d ≤ 3) &&
    dePeer d == neighbour s.label (deDim d) n

/-- Two enabled lanes to one neighbour that differ in `max_level`. -/
def levelsDiffer (es : List (BitVec 192)) : Bool :=
  let ds : List Drone := es.map fun e => { entry := e }
  ds.any fun a => ds.any fun b => deEnable a && deEnable b && dePeer a == dePeer b && deMaxLevel a != deMaxLevel b

/-- A lane disabled by the table. -/
def disableDrone (m : Nat) (s : State) : State :=
  let n := dePeer (getDrone s m)
  let heard := laneHears s m
  let s := upstreamLost m (droneLeaves m .disabled s)
  let s := updDrone m (fun d => { freshDrone d with
    state := .disabled, qCause := 0, since := s.clock.now, txSet := [], txRest := [], txSets := [], txUrgent := [] }) s
  if heard then checkNeighbour n s else s

/-- The table in force lane by lane: a lane whose entry changes while it is up starts again (DEDUCED, log entry 51). -/
def loadDrones (es : List (BitVec 192)) (s : State) : State :=
  bringUpDrones (forEach (List.range 32) (fun m s =>
    let e := es.getD m 0
    let d := getDrone s m
    if d.entry = e then s
    else
      let s := if d.state = .disabled then s else disableDrone m s
      updDrone m (fun d => { d with entry := e }) s) s)

def droneTableLoad (d : Desc) (h : HostRead) (t : Tok) (s : State) : State :=
  match hostRead s (field d 16 8) 768 h with
  | none => bad t dtHostRead (noteRead (field d 16 8) 768 h s)
  | some bs =>
    let es := (chunksOf 24 bs).map fun b => BitVec.ofNat 192 (leNat b)
    let absent := (es.mapIdx fun i e => !droneExists s i && bit (efield e 0 1) 0).any id
    if !es.all droneRsvdOk then bad t dtReserved s
    else if absent || !(es.all (droneRangeOk s)) || levelsDiffer es then bad t dtRange s
    else ok t 0 [] (loadDrones es s)

def execDroneTableLoad (sq : BitVec 8) (d : Desc) (host : HostRead) (s : State) : Host.Outcome State Fault Refusal :=
  .next (runCommand 0x3A sq d (fun t s =>
    if dRsvdOk d [(16, 8)] then droneTableLoad d host t s else bad t dtReserved s) s)

/-! ## PEG_LOAD (R287, Table 9.7) -/

/-- A signed byte of a peg entry. -/
def tap (e : BitVec 128) (o : Nat) : Int := (BitVec.ofNat 8 (efield e o 1)).toInt

def pegRsvdOk (e : BitVec 128) : Bool := bits (efield e 9 1) 7 4 == 0 && efield e 11 5 == 0

/-- The ranges and the sum of an entry. -/
def pegRangeOk (e : BitVec 128) : Bool :=
  let inR (o n : Nat) : Bool := decide ((tap e o).natAbs ≤ n)
  let main := efield e 2 1
  inR 0 16 && inR 1 32 && decide (1 ≤ main ∧ main ≤ 64) && inR 3 32 && decide (efield e 4 1 ≤ 31 ∧ efield e 5 1 ≤ 31) &&
    inR 6 32 && inR 7 32 && inR 8 32 &&
    decide ((tap e 0).natAbs + (tap e 1).natAbs + main + (tap e 3).natAbs ≤ 64)

/-- What a drone entry must leave at 0. -/
def pegDroneOk (e : BitVec 128) : Bool :=
  efield e 0 2 == 0 && efield e 6 3 == 0 && bits (efield e 9 1) 3 2 == 0

def pegLoad (d : Desc) (h : HostRead) (t : Tok) (s : State) : State :=
  match hostRead s (field d 16 8) 4608 h with
  | none => bad t dtHostRead (noteRead (field d 16 8) 4608 h s)
  | some bs =>
    let es := (chunksOf 16 bs).map fun b => BitVec.ofNat 128 (leNat b)
    if !es.all pegRsvdOk then bad t dtReserved s
    else if !(es.all pegRangeOk) || !((es.drop 256).all pegDroneOk) then bad t dtRange s
    else
      let table := (es.mapIdx fun i e => (i, e)).filter fun q => q.2 != 0
      ok t 0 [] (bringUpAll (bringUpDrones { s with routing := { s.routing with pegs := table } }))

def execPegLoad (sq : BitVec 8) (d : Desc) (host : HostRead) (s : State) : Host.Outcome State Fault Refusal :=
  .next (runCommand 0x3B sq d (fun t s => if dRsvdOk d [(16, 8)] then pegLoad d host t s else bad t dtReserved s) s)

/-! ## PORT_RESTART and the dwell of FAILED (R289) -/

/-- The neighbour's drone lanes are all quarantined. -/
def allQuarantined (s : State) (n : Nat) : Bool :=
  let ls := lanesTo s n
  !ls.isEmpty && ls.all fun i => (getDrone s i).state == .quarantined

/-- A fabric port restarted, or quarantined again at once for its neighbour's lanes (DEDUCED, log entry 40). -/
def restartPort (p : Nat) (t : Tok) (s : State) : State :=
  let q := getPort s p
  if q.state = .disabled then bad t dtState s
  else
    let s := startPort p (if q.state = .up then leaveUp p .lock s else s)
    if peModule q && allQuarantined s (pePeer q) then
      let cause := ((lanesTo s (pePeer q)).map fun i => (getDrone s i).qCause.toNat).headD 0
      complete t 0x0C 0 0 [] (quarantinePort p cause s)
    else ok t 0 [] s

/-- A drone lane restarted. -/
def restartDrone (m : Nat) (t : Tok) (s : State) : State :=
  if (getDrone s m).state = .disabled then bad t dtState s
  else ok t 0 [] (if laneHears s m then droneLost m s else droneLock m s)

def portRestart (d : Desc) (t : Tok) (s : State) : State :=
  let i := field d 8 1
  match field d 9 1 with
  | 0 => if i < 128 then restartPort i t s else bad t dtRange s
  | 1 => if i < 32 then restartDrone i t s else bad t dtRange s
  | _ => bad t dtRange s

def execPortRestart (sq : BitVec 8) (d : Desc) (s : State) : Host.Outcome State Fault Refusal :=
  .next (runCommand 0x3C sq d (fun t s =>
    if dRsvdOk d [(8, 1), (9, 1)] then portRestart d t s else bad t dtReserved s) s)

/-- `retry_ms` in FAILED has passed: the port or lane returns to LOCK. -/
def dwellEnd (drone : Bool) (i : Nat) (s : State) : State :=
  let wait := bits s.clock.laneCtrl.toNat 15 8 * ticks1ms
  if drone then
    if (getDrone s i).state = .failed ∧ wait ≤ since s (getDrone s i).since then droneLock i s else s
  else if (getPort s i).state = .failed ∧ wait ≤ since s (getPort s i).since then startPort i s else s

def execFailedDwellEnd (drone : Bool) (index : BitVec 7) (s : State) : Host.Outcome State Fault Refusal :=
  .next (dwellEnd drone index.toNat s)

end Sys2Proof.Machine
end

