-- ==== Sys2Proof/Machine/Courses.lean ====
section
/-!
DEFINITION. Course set-up (R323 to R325): COURSE_SETUP, the COURSE frames it exchanges with the partner, and what they
decide.
-/
namespace Sys2Proof.Machine

/-- `feed_id` and `override` of COURSE_CFG (Table 11.1). -/
def ownFeed (s : State) : Nat := bits s.course.cfg.toNat 15 0
def ownOverride (s : State) : Bool := bit s.course.cfg.toNat 31

/-- The COURSE frame sent on every UP dimension-0 lane. -/
def sendCourse (s : State) : State :=
  toPartner 0x18 s.label (b2n (ownOverride s)) (ownFeed s) { s with course := { s.course with setupAt := some s.clock.now } }

/-- The COURSE_SETUP that waits completes. -/
def setupDone (status : Nat) (s : State) : State :=
  match s.course.setupTok with
  | some t => complete t status 0 0 [] { s with course := { s.course with setupTok := none } }
  | none => s

/-- The course decided once both feeds are known: PAIRED where they differ or an override accepts them, else REFUSED. -/
def decideCourse (s : State) : State :=
  match s.course.partner with
  | some (feed, anyway) =>
    if !s.course.fixed || s.course.state != .unset then s
    else if feed.toNat ≠ ownFeed s then
      setupDone stOK (postEvent 0x0009 1 s.partnerLabel [] { s with course := { s.course with state := .paired } })
    else if anyway || ownOverride s then
      setupDone stOK (postEvent 0x0009 2 s.partnerLabel [] { s with course := { s.course with
        state := .paired, overrides := satInc s.course.overrides } })
    else setupDone stFeedShared { s with course := { s.course with state := .refused } }
  | none => s

/-- COURSE_SETUP accepted: the configuration is fixed and the frames start. A partner's frame that came before decides at
once (DEDUCED, log entry 52). -/
def courseSetup (t : Tok) (s : State) : State :=
  if s.course.fixed then bad t dtState s
  else if ownFeed s = 0 then bad t dtRange s
  else
    let lead := BitVec.ofNat 11 (bits s.course.cfg.toNat 26 16)
    let s := { s with course := { s.course with
      fixed := true, setupTok := some t, leadNow := some (s.course.leadNow.getD lead) } }
    decideCourse (sendCourse s)

def execCourseSetup (sq : BitVec 8) (d : Desc) (s : State) : Host.Outcome State Fault Refusal :=
  .next (runCommand 0x28 sq d (fun t s => if dRsvdOk d [] then courseSetup t s else bad t dtReserved s) s)

/-- The frame repeated: every 100 µs until the partner's has come, every 1 ms after that. -/
def courseRepeat (s : State) : State :=
  match s.course.setupAt with
  | some t =>
    let gap := if s.course.partner.isSome then ticks1ms else 125000
    if gap ≤ since s t then sendCourse s else s
  | none => s

def execCourseRepeat (s : State) : Host.Outcome State Fault Refusal := .next (courseRepeat s)

/-- The partner's frame: decided on, or, with another `feed_id` than before, a changed hello on its lane. -/
def hearCourse (lane : Nat) (b : BitVec 192) (s : State) : State :=
  let feed := BitVec.ofNat 16 (uArg b)
  match s.course.partner with
  | some (f, _) => if f = feed then s else quarantineLane lane 0x0A s
  | none => decideCourse { s with course := { s.course with partner := some (feed, bit (uCause b) 0) } }

def execCourse (lane : BitVec 5) (body : BitVec 192) (s : State) : Host.Outcome State Fault Refusal :=
  .next (hearPartner lane.toNat (hearCourse lane.toNat body) s)

end Sys2Proof.Machine
end

