-- ==== Sys2Proof/Machine/Registers.lean ====
section
/-!
DEFINITION. The registers of BAR0 (R10 to R14, R385 to R387): the map, what each register reads as, what a write of it
does, and the accesses by halves of R13. An access that the manual gives a behaviour of its own ends in the operation that
its own command uses.
-/
namespace Sys2Proof.Machine

/-! ## The map -/

/-- Ring n of an area that begins at `base`, and the offset in its 32 bytes. -/
def ringAt (base off : Nat) : Option (Nat × Nat) :=
  if base ≤ off ∧ off < base + 8192 then some ((off - base) / 32, (off - base) % 32) else none

/-- A word of an array of 32-bit words: the identity and attestation blocks, the protection block, MSI-X (Tables 13.3,
14.9). -/
def isWordArea (off : Nat) : Bool :=
  decide (0x700100 ≤ off ∧ off < 0x700168) || decide (0x700200 ≤ off ∧ off < 0x700220) ||
  decide (0x700300 ≤ off ∧ off < 0x700400) || decide (0x701000 ≤ off ∧ off < 0x702000) ||
  decide (0x3FE0000 ≤ off ∧ off < 0x3FE8000) || decide (0x3FF0000 ≤ off ∧ off < 0x3FF0100)

/-- 32-bit registers. -/
def isNarrow (off : Nat) : Bool :=
  [0x20, 0x28, 0x200000, 0x300000, 0x300004, 0x300018, 0x400000, 0x400008, 0x504008, 0x50400C, 0x700020, 0x700220, 0x800000,
    0x800010].contains off ||
  (decide (0x100000 ≤ off ∧ off < 0x100010) && off % 4 == 0) ||
  (match ringAt 0x500000 off with
    | some (_, o) => o == 8 || o == 12
    | none => false) ||
  (match ringAt 0x502000 off with
    | some (_, o) => o == 16
    | none => false) ||
  (isWordArea off && off % 4 == 0)

/-- 64-bit registers. -/
def isWide (off : Nat) : Bool :=
  [0x0, 0x8, 0x10, 0x200008, 0x300008, 0x300010, 0x504000, 0x600000, 0x600008, 0x600010, 0x600018, 0x700000, 0x700008, 0x700010,
    0x700018, 0x700028, 0x800008, 0x800018].contains off ||
  (off % 8 == 0 && (decide (0x301000 ≤ off ∧ off < 0x301400) || decide (0x302000 ≤ off ∧ off < 0x302100) ||
    decide (0x601000 ≤ off ∧ off < 0x601400) || decide (0x602000 ≤ off ∧ off < 0x602200) ||
    decide (0x603000 ≤ off ∧ off < 0x603030))) ||
  (match ringAt 0x500000 off with
    | some (_, o) => o == 0
    | none => false) ||
  (match ringAt 0x502000 off with
    | some (_, o) => o == 0 || o == 8
    | none => false)

/-! ## What registers read as -/

/-- Fields at their low bits, put together. -/
def packFields (fs : List (Nat × Nat)) : Nat := (fs.map fun f => f.1 <<< f.2).sum

def bankCode : BankState → Nat
  | .retired => 0
  | .loaded => 1
  | .current => 2
  | .draining => 3

def courseCode : CourseState → Nat
  | .unset => 0
  | .refused => 1
  | .paired => 2
  | .solo => 3
  | .refill => 4
  | .severed => 5
  | .lost => 6

/-- HOST_STATUS (Table 13.8). -/
def hostStatus (s : State) : Nat :=
  let h := s.host
  let err := h.sqs.any (·.2.err != 0) || h.cqs.any (·.2.err != 0) || h.sample.err != 0 ||
    s.perf.err != 0
  packFields [(h.eventLost.toNat, 16), (b2n h.fwReady, 7), (b2n err, 3), (b2n h.bme, 2)]

/-- POOL_CARVE_n (Table 6.2). -/
def carveReg (s : State) (n : Nat) : Nat :=
  let c := s.pools
  packFields [(b2n c.err, 31), (if c.applied then (getPool s n).cells else (c.carve.getD n 0).toNat, 0)]

/-- ROUTE_STATUS (Table 8.8). -/
def routeStatus (s : State) : Nat :=
  let r := s.routing
  let writes := match r.txn with
    | some x => if x.due.isNone then x.records.length else 0
    | none => 0
  packFields [(writes, 34), (b2n (r.txn.any fun x => x.due.isSome), 33), (b2n (r.txn.any fun x => x.due.isNone), 32),
    (min 0xFFFF (drainCount s), 16), (bankCode r.bank1, 4), (bankCode r.bank0, 2), (b2n (curValid s), 1), (b2n r.epoch, 0)]

/-- REF_STATUS (Table 9.6). -/
def refStatus (s : State) : Nat :=
  let c := s.clock
  packFields [(c.refLosses.toNat, 16), (c.timeSteps.toNat, 8), (b2n c.spreadSeen, 4), (b2n c.timeValid, 3), (b2n c.onAlt, 2),
    (b2n c.holdover, 1), (b2n c.locked, 0)]

/-- PORT_STATUS_n (Table 9.12). -/
def portStatus (q : Port) : Nat :=
  packFields [(q.delay.toNat, 44), (q.worstSym.toNat, 40), (q.failLane.toNat, 36), (q.qCause.toNat, 24), (q.level.toNat, 22),
    (q.restarts.toNat, 8), (stateCode q.state, 0)]

/-- DRONE_STATUS_m (Table 9.15). -/
def droneStatus (d : Drone) : Nat :=
  packFields [(d.delayFine.toNat, 32), (d.qCause.toNat, 24), (d.level.toNat, 22), (d.codeErr.toNat, 8), (stateCode d.state, 0)]

/-- COURSE_STATUS (Table 11.3). -/
def courseStatus (s : State) : Nat :=
  packFields [(s.course.risk.toNat, 24), (s.course.overrides.toNat, 16), (courseCode s.course.state, 13), (leadRole s, 11),
    (leadOf s, 0)]

def sqReg (q : Sq) : Nat → Nat
  | 0 => q.base.toNat
  | 8 => packFields [(b2n q.enable, 31), (q.weight.toNat, 24), (q.size.toNat, 0)]
  | _ => packFields [(q.err.toNat, 24), (b2n q.stalled, 17), (b2n q.active, 16), (q.head.toNat, 0)]

def cqReg (c : Cq) : Nat → Nat
  | 0 => c.base.toNat
  | 8 => packFields [(b2n c.enable, 63), (b2n c.event, 62), (b2n c.irqEn, 61), (c.vector.toNat, 48), (c.modCount.toNat, 40),
      (c.modTime.toNat, 24), (c.size.toNat, 0)]
  | _ => packFields [(c.err.toNat, 24), (b2n c.active, 16), (c.tail.toNat, 0)]

def sampleReg (r : SampleRing) : Nat → Nat
  | 0 => r.base.toNat
  | 8 => packFields [(b2n r.enable, 31), (r.size.toNat, 0)]
  | _ => packFields [(r.err.toNat, 24), (b2n r.active, 16), (r.tail.toNat, 0)]

/-- PERF_DUMP_CTRL and PERF_DUMP_STATUS (Tables 15.7, 15.9). -/
def dumpCtrl (p : Perf) : Nat :=
  packFields [(b2n p.enable, 63), ((p.sections ||| 1).toNat, 48), (p.slotSize.toNat, 40), (p.interval.toNat, 20),
    (p.size.toNat, 0)]
def dumpStatus (p : Perf) : Nat :=
  packFields [(p.missed.toNat, 32), (b2n p.selErr, 25), (b2n p.active, 24), (p.err.toNat, 16), (p.tail.toNat, 0)]

/-- PERF_SEL_n and PERF_ADDR_n as last written. -/
def selReg (p : Perf) (n : Nat) (addr : Bool) : Nat :=
  (if addr then tget (tget 0 p.addr n) p.heldAddr n else tget (tget 0 p.sel n) p.heldSel n).toNat

/-- NB_SLOTS (Table 15.2). -/
def slotReg (s : State) : Nat → Nat
  | 0 => s.perf.retired.toNat
  | 1 => s.perf.wasted.toNat
  | 2 => s.perf.front.toNat
  | 3 => s.perf.back.toNat
  | 4 => s.perf.handshakes.toNat
  | _ => packFields [(s.columns, 32), (s.perf.rateLast.toNat, 0)]

/-- BOOT_STATUS and BOOT_SELECT (Tables 14.11, 14.12). -/
def bootStatus (b : Boot) : Nat :=
  packFields [(b.lastReset.toNat, 48), (b.resultB.toNat, 40), (b.resultA.toNat, 32), (b.protSrc.toNat, 24), (b2n b.idValid, 23),
    (b2n b.protLocked, 22), (b2n b.fellBack, 21), (b2n b.trial, 20), (b.stage.toNat, 0)]
def bootSelect (s : State) : Nat :=
  let c := (bootControl s.flash).1
  packFields [(c.floor.toNat, 32), (c.generation.toNat % 65536, 16), (c.trialSlot.toNat, 8), (b2n c.trialTries, 1),
    (b2n c.preferred, 0)]

/-- FW_UPDATE_CTRL and FW_UPDATE_STATUS (Tables 14.14, 14.15). -/
def fwCtrl (b : Boot) : Nat := packFields [(b2n b.raiseFloor, 63), (b.fwLength.toNat, 32), (b2n b.fwSlot, 8)]
def fwStatus (b : Boot) : Nat :=
  packFields [(b2n b.busy, 31), (b2n b.overrun, 30), (b.result.toNat, 16), (b.lastOp.toNat, 0)]

/-- Four bytes of a block. -/
def wordOf (bs : List Byte) (o : Nat) : Nat := leAt bs o 4

/-- A word of the arrays in BAR0 (Tables 13.3, 14.9). -/
def wordArea (off : Nat) (s : State) : Nat :=
  let i := s.flash.identity
  if off < 0x700168 then
    wordOf (leBytes 8 i.serial.toNat ++ leBytes 32 i.publicKey.toNat ++ leBytes 64 i.cert.toNat) (off - 0x700100)
  else if off < 0x700220 then wordOf (leBytes 32 s.boot.nonce.toNat) (off - 0x700200)
  else if off < 0x700400 then wordOf s.boot.report (off - 0x700300)
  else if off < 0x702000 then wordOf s.boot.prot (off - 0x701000)
  else if off < 0x3FE8000 then
    let o := off - 0x3FE0000
    if o % 16 = 12 then b2n (tget {} s.host.msix (o / 16) : MsixVec).masked else (tget 0 s.host.msixTable o).toNat
  else
    let v := (off - 0x3FF0000) * 8
    ((List.range 32).map fun k => b2n (tget {} s.host.msix (v + k) : MsixVec).pending <<< k).sum

/-- What a register reads as. -/
def readReg (off : Nat) (s : State) : Nat :=
  let b := s.boot
  let p := s.power
  if isWordArea off then wordArea off s
  else match off with
  | 0x0 => moduleInfo s
  | 0x8 => s.flash.identity.serial.toNat
  | 0x10 => packFields [(b.build.toNat, 32), (b2n b.slot, 0)]
  | 0x20 => b2n s.host.ringsEn
  | 0x28 => hostStatus s
  | 0x200000 => fabricId s
  | 0x200008 => routeStatus s
  | 0x300000 => s.clock.refCtrl.toNat
  | 0x300004 => refStatus s
  | 0x300008 => fabricTime s
  | 0x300010 => s.clock.ftimeInit.toNat
  | 0x300018 => s.clock.laneCtrl.toNat
  | 0x400000 => s.course.cfg.toNat
  | 0x400008 => courseStatus s
  | 0x504000 => sampleReg s.host.sample 0
  | 0x504008 => sampleReg s.host.sample 8
  | 0x50400C => sampleReg s.host.sample 12
  | 0x600000 => dumpCtrl s.perf
  | 0x600008 => s.perf.base.toNat
  | 0x600010 => s.perf.head.toNat
  | 0x600018 => dumpStatus s.perf
  | 0x700000 => bootStatus b
  | 0x700008 => bootSelect s
  | 0x700010 => b.fwAddr.toNat
  | 0x700018 => fwCtrl b
  | 0x700020 => fwStatus b
  | 0x700028 => packFields [(b.blocked.toNat, 32), (b.windowHanks.toNat, 8)]
  | 0x700220 => packFields [(b2n b.attErr, 3), (b2n b.attDone, 2), (b2n b.attBusy, 1)]
  | 0x800000 => packFields [(p.tjThrottle.toNat, 16), (p.droopCv.toNat, 0)]
  | 0x800008 => packFields [(p.pin.toNat, 32), (p.iin.toNat, 16), (p.vin.toNat, 0)]
  | 0x800010 => packFields [(p.tjSkein.toNat, 16), (p.tjBridge.toNat, 8), (p.tjCompute.toNat, 0)]
  | 0x800018 => packFields [(p.droops.toNat, 32), (b2n p.droopThr, 2), (b2n p.thermThr, 1), (b2n p.powerThr, 0)]
  | _ =>
    if 0x100000 ≤ off ∧ off < 0x100010 then carveReg s ((off - 0x100000) / 4)
    else if 0x301000 ≤ off ∧ off < 0x301400 then portStatus (getPort s ((off - 0x301000) / 8))
    else if 0x302000 ≤ off ∧ off < 0x302100 then droneStatus (getDrone s ((off - 0x302000) / 8))
    else if 0x601000 ≤ off ∧ off < 0x601400 then selReg s.perf ((off - 0x601000) / 16) ((off - 0x601000) % 16 == 8)
    else if 0x602000 ≤ off ∧ off < 0x602200 then (tget 0 s.perf.cnt ((off - 0x602000) / 8)).toNat
    else if 0x603000 ≤ off ∧ off < 0x603030 then slotReg s ((off - 0x603000) / 8)
    else match ringAt 0x500000 off, ringAt 0x502000 off with
    | some (n, o), _ => sqReg (getSq s n) o
    | none, some (n, o) => cqReg (getCq s n) o
    | _, _ => 0

/-- RC fields of the low half, or of a 32-bit register, cleared by its read (Table 0.6). -/
def clearLow (off : Nat) (s : State) : State :=
  match off with
  | 0x28 => { s with host := { s.host with eventLost := 0 } }
  | 0x300004 => { s with clock := { s.clock with refLosses := 0, timeSteps := 0 } }
  | _ =>
    if 0x301000 ≤ off ∧ off < 0x301400 then updPort ((off - 0x301000) / 8) (fun q => { q with restarts := 0 }) s
    else if 0x302000 ≤ off ∧ off < 0x302100 then updDrone ((off - 0x302000) / 8) (fun d => { d with codeErr := 0 }) s
    else s

/-- RC fields of the high half. -/
def clearHigh (off : Nat) (s : State) : State :=
  match off with
  | 0x600018 => { s with perf := { s.perf with missed := 0 } }
  | 0x700028 => { s with boot := { s.boot with blocked := 0 } }
  | 0x800018 => { s with power := { s.power with droops := 0 } }
  | _ => s

/-! ## What a write does -/

/-- HOST_CTRL (Table 13.7). A host interface reset clears `rings_en` whatever is written to it. -/
def writeHostCtrl (v : Nat) (s : State) : State :=
  if bit v 31 then poweredReset 3 s
  else if bit v 1 then hostInterfaceReset s
  else setRingsEn (bit v 0) s

/-- POOL_CARVE_n. -/
def writeCarve (n v : Nat) (s : State) : State :=
  if s.pools.applied then s else { s with pools := { s.pools with carve := s.pools.carve.set n (BitVec.ofNat 21 v) } }

/-- FABRIC_ID (Table 8.1): enabled ports that it kept back are brought up. -/
def writeFabricId (v : Nat) (s : State) : State :=
  if s.routing.idFixed then s
  else bringUpAll { s with routing := { s.routing with
    dim := BitVec.ofNat 4 (bits v 19 16), label := BitVec.ofNat 11 (bits v 10 0) } }

/-- REF_CTRL (Table 9.5). -/
def writeRefCtrl (v : Nat) (s : State) : State :=
  if s.clock.portsLeft then s
  else { s with clock := { s.clock with
    refCtrl := BitVec.ofNat 32 (packFields [(bits v 23 12, 12), (bits v 9 8, 8), (bits v 1 0, 0)]) } }

/-- COURSE_CFG (Table 11.1). -/
def writeCourseCfg (v : Nat) (s : State) : State :=
  if s.course.fixed then s
  else { s with course := { s.course with
    cfg := BitVec.ofNat 32 (packFields [(bits v 31 31, 31), (bits v 26 16, 16), (bits v 15 0, 0)]) } }

/-- PWR_CFG (Table 16.6). -/
def writePwrCfg (v : Nat) (s : State) : State :=
  let tj := bits v 23 16
  let cv := bits v 15 0
  if s.clock.portsLeft ∨ tj < 70 ∨ 100 < tj ∨ cv < 4100 ∨ 5000 < cv then s
  else { s with power := { s.power with tjThrottle := BitVec.ofNat 8 tj, droopCv := BitVec.ofNat 16 cv } }

/-- A word of the arrays in BAR0: the nonce and the MSI-X table are written, the rest is read-only. -/
def writeWord (off v : Nat) (s : State) : State :=
  if 0x700200 ≤ off ∧ off < 0x700220 then
    if s.boot.attBusy then s
    else { s with boot := { s.boot with nonce := setBits s.boot.nonce (8 * (off - 0x700200)) 32 v } }
  else if 0x3FE0000 ≤ off ∧ off < 0x3FE8000 then
    let o := off - 0x3FE0000
    if o % 16 = 12 then maskVector (o / 16) (bit v 0) s
    else { s with host := { s.host with msixTable := tset 0 s.host.msixTable o (BitVec.ofNat 32 v) } }
  else s

/-- A 32-bit register written. -/
def writeNarrow (off v : Nat) (s : State) : State :=
  if isWordArea off then writeWord off v s
  else match off with
  | 0x20 => writeHostCtrl v s
  | 0x200000 => writeFabricId v s
  | 0x300000 => writeRefCtrl v s
  | 0x300018 => { s with clock := { s.clock with laneCtrl := BitVec.ofNat 32 (bits v 31 8 * 256) } }
  | 0x400000 => writeCourseCfg v s
  | 0x504008 => writeSampleCtrl v s
  | 0x700020 => if bit v 30 then { s with boot := { s.boot with overrun := false } } else s
  | 0x700220 => if bit v 0 then attest s else s
  | 0x800000 => writePwrCfg v s
  | _ =>
    if 0x100000 ≤ off ∧ off < 0x100010 then writeCarve ((off - 0x100000) / 4) v s
    else match ringAt 0x500000 off with
    | some (n, 8) => writeSqCtrl n v s
    | _ => s

/-- A ring's base: bits 63:12. -/
def ringBase (v : Nat) : BitVec 64 := BitVec.ofNat 64 (bits v 63 12 * 4096)

/-- A 64-bit register written. -/
def writeWide (off v : Nat) (s : State) : State :=
  match off with
  | 0x300010 => { s with clock := { s.clock with ftimeInit := BitVec.ofNat 64 v } }
  | 0x504000 =>
    if s.host.sample.enable then s else { s with host := { s.host with sample := { s.host.sample with base := ringBase v } } }
  | 0x600000 => writeDumpCtrl v s
  | 0x600008 => if s.perf.enable then s else { s with perf := { s.perf with base := ringBase v } }
  | 0x600010 => { s with perf := { s.perf with head := BitVec.ofNat 16 v } }
  | 0x600018 => if bit v 25 then { s with perf := { s.perf with selErr := false } } else s
  | 0x700010 => { s with boot := { s.boot with fwAddr := BitVec.ofNat 64 (bits v 63 6 * 64) } }
  | 0x700018 => fwUpdate (bits v 3 0) v none s
  | _ =>
    if 0x601000 ≤ off ∧ off < 0x601400 ∧ off % 8 = 0 then
      writeSelector ((off - 0x601000) / 16) ((off - 0x601000) % 16 == 8) (BitVec.ofNat 64 v) s
    else match ringAt 0x500000 off, ringAt 0x502000 off with
    | some (n, 0), _ => updSq n (fun q => if q.enable then q else { q with base := ringBase v }) s
    | none, some (n, 0) => updCq n (fun c => if c.enable then c else { c with base := ringBase v }) s
    | none, some (n, 8) => writeCqCtrl n v s
    | _, _ => s

/-! ## Accesses (R13, R386) -/

/-- An answer to a read. -/
def answer (off v : Nat) (s : State) : State := { s with out := { s.out with reads := s.out.reads ++ [(off, BitVec.ofNat 64 v)] } }

/-- A 32-bit write: of a 64-bit register's low half held until its high half is written; of a high half alone it acts on
the live register, of whose low half no W1C bit is written. -/
def write32 (off v : Nat) (s : State) : State :=
  if off % 4 ≠ 0 then s
  else if isNarrow off then writeNarrow off v s
  else if isWide off then
    { s with host := { s.host with writeHold := tins off (BitVec.ofNat 32 v) (tdel s.host.writeHold off) } }
  else if 4 ≤ off ∧ isWide (off - 4) then
    let b := off - 4
    let low := match s.host.writeHold.find? (·.1 == b) with
      | some q => q.2.toNat
      | none => if b = 0x600018 then 0 else readReg b s % 2 ^ 32
    writeWide b (v * 2 ^ 32 + low) { s with host := { s.host with writeHold := tdel s.host.writeHold b } }
  else s

/-- A 32-bit read: of a low half it latches the high half, whose RC fields are cleared with it (log entry 53); of a high
half it gives what is latched, or the live half. -/
def read32 (off : Nat) (s : State) : State :=
  if off % 4 ≠ 0 then answer off 0 s
  else if isNarrow off then clearLow off (answer off (readReg off s) s)
  else if isWide off then
    let v := readReg off s
    let s := answer off (v % 2 ^ 32) s
    clearHigh off (clearLow off { s with host := { s.host with
      readLatch := tins off (BitVec.ofNat 32 (v / 2 ^ 32)) (tdel s.host.readLatch off) } })
  else if 4 ≤ off ∧ isWide (off - 4) then
    let b := off - 4
    match s.host.readLatch.find? (·.1 == b) with
    | some q => answer off q.2.toNat { s with host := { s.host with readLatch := tdel s.host.readLatch b } }
    | none => clearHigh b (answer off (readReg b s / 2 ^ 32) s)
  else answer off 0 s

/-- A 64-bit write; over two 32-bit registers it is a write of each (DEDUCED, log entry 54). -/
def write64 (off v : Nat) (s : State) : State :=
  if off % 8 ≠ 0 then s
  else if isWide off then writeWide off v s
  else write32 (off + 4) (v / 2 ^ 32) (write32 off (v % 2 ^ 32) s)

/-- A 64-bit read: of a 64-bit register, or of the two 32-bit registers it covers (DEDUCED, log entry 54). -/
def read64 (off : Nat) (s : State) : State :=
  if off % 8 ≠ 0 then answer off 0 s
  else if isWide off then clearHigh off (clearLow off (answer off (readReg off s) s))
  else
    let half (o : Nat) : Nat := if isNarrow o then readReg o s else 0
    clearLow (off + 4) (clearLow off (answer off (half off + 2 ^ 32 * half (off + 4)) s))

/-- A write of a BAR (R386): BAR0 takes aligned accesses of 32 and 64 bits, BAR2 of 32 bits; any other is ignored. -/
def writeBar (a : BarAddr) (w : AccessWidth) (v : Nat) (s : State) : State :=
  match a, w with
  | .bar0 o, .b32 => write32 o.toNat (v % 2 ^ 32) s
  | .bar0 o, .b64 => write64 o.toNat v s
  | .bar2 o, .b32 => doorbell o.toNat (v % 2 ^ 32) s
  | _, _ => s

/-- A read of a BAR (R386): BAR2 reads 0, and so does BAR0 for an access it does not accept. Answers name BAR2 above the 64 MiB
of BAR0. -/
def readBar (a : BarRead) (s : State) : State :=
  match a.addr, a.width with
  | .bar0 o, .b32 => read32 o.toNat s
  | .bar0 o, .b64 => read64 o.toNat s
  | .bar0 o, _ => answer o.toNat 0 s
  | .bar2 o, _ => answer (2 ^ 26 + o.toNat) 0 s

def execRegisterWrite (offset : BarAddr) (width : AccessWidth) (value : BitVec 64) (s : State) :
    Host.Outcome State Fault Refusal :=
  .next (hostAccess (writeBar offset width value.toNat) s)

def execRegisterReadClear (access : BarRead) (s : State) : Host.Outcome State Fault Refusal :=
  .next (hostAccess (readBar access) s)

def execRegisterHalfAccess (offset : BitVec 26) (write : Bool) (value : BitVec 32) (s : State) :
    Host.Outcome State Fault Refusal :=
  .next (hostAccess (fun s => if write then write32 offset.toNat value.toNat s else read32 offset.toNat s) s)

end Sys2Proof.Machine
end

