-- ==== Sys2Proof/Machine/Dispatch.lean ====
section
/-!
DEFINITION. `exec`: the effect of each command on everything but the queue, one arm per row of the table.
-/
namespace Sys2Proof.Machine

/-- The effect of a command on a state whose queue holds the commands behind it. -/
def exec (i : Instr) (s : State) : Host.Outcome State Fault Refusal :=
  match i with
  | .nop sq d => Sys2Proof.Machine.execNop sq d s
  | .programLoad sq d host => Sys2Proof.Machine.execProgramLoad sq d host s
  | .programClear sq d => Sys2Proof.Machine.execProgramClear sq d s
  | .programQuery sq d => Sys2Proof.Machine.execProgramQuery sq d s
  | .castOn sq d host => Sys2Proof.Machine.execCastOn sq d host s
  | .bindOff sq d => Sys2Proof.Machine.execBindOff sq d s
  | .collective sq d host => Sys2Proof.Machine.execCollective sq d host s
  | .groupPause sq d => Sys2Proof.Machine.execGroupPause sq d s
  | .groupResume sq d => Sys2Proof.Machine.execGroupResume sq d s
  | .groupSave sq d => Sys2Proof.Machine.execGroupSave sq d s
  | .groupRestore sq d host => Sys2Proof.Machine.execGroupRestore sq d host s
  | .recast sq d host => Sys2Proof.Machine.execRecast sq d host s
  | .stepRollback sq d => Sys2Proof.Machine.execStepRollback sq d s
  | .shardResend sq d => Sys2Proof.Machine.execShardResend sq d s
  | .provenance sq d => Sys2Proof.Machine.execProvenance sq d s
  | .shardWrite sq d host => Sys2Proof.Machine.execShardWrite sq d host s
  | .shardRead sq d => Sys2Proof.Machine.execShardRead sq d s
  | .securePoint sq d => Sys2Proof.Machine.execSecurePoint sq d s
  | .releaseSecure sq d => Sys2Proof.Machine.execReleaseSecure sq d s
  | .stepRecordRead sq d => Sys2Proof.Machine.execStepRecordRead sq d s
  | .courseSetup sq d => Sys2Proof.Machine.execCourseSetup sq d s
  | .takeover sq d => Sys2Proof.Machine.execTakeover sq d s
  | .evacuate sq d => Sys2Proof.Machine.execEvacuate sq d s
  | .drain sq d => Sys2Proof.Machine.execDrain sq d s
  | .txnBegin sq d => Sys2Proof.Machine.execTxnBegin sq d s
  | .txnWrite sq d host => Sys2Proof.Machine.execTxnWrite sq d host s
  | .txnCommit sq d => Sys2Proof.Machine.execTxnCommit sq d s
  | .txnFrog sq d => Sys2Proof.Machine.execTxnFrog sq d s
  | .settingRead sq d => Sys2Proof.Machine.execSettingRead sq d s
  | .routeLoad sq d host => Sys2Proof.Machine.execRouteLoad sq d host s
  | .portTableLoad sq d host => Sys2Proof.Machine.execPortTableLoad sq d host s
  | .droneTableLoad sq d host => Sys2Proof.Machine.execDroneTableLoad sq d host s
  | .pegLoad sq d host => Sys2Proof.Machine.execPegLoad sq d host s
  | .portRestart sq d => Sys2Proof.Machine.execPortRestart sq d s
  | .rowRead sq d => Sys2Proof.Machine.execRowRead sq d s
  | .rowWait sq d => Sys2Proof.Machine.execRowWait sq d s
  | .rowAdd sq d => Sys2Proof.Machine.execRowAdd sq d s
  | .inject sq d host => Sys2Proof.Machine.execInject sq d host s
  | .moduleReset => Sys2Proof.Machine.execModuleReset s
  | .ifReset => Sys2Proof.Machine.execIfReset s
  | .hostInterfaceReset cause => Sys2Proof.Machine.execHostInterfaceReset cause s
  | .sqEnable ring value => Sys2Proof.Machine.execSqEnable ring value s
  | .sqDisable ring value => Sys2Proof.Machine.execSqDisable ring value s
  | .cqEnable ring value => Sys2Proof.Machine.execCqEnable ring value s
  | .cqDisable ring value => Sys2Proof.Machine.execCqDisable ring value s
  | .sampleRingEnable value => Sys2Proof.Machine.execSampleRingEnable value s
  | .sqTailDoorbell ring value => Sys2Proof.Machine.execSqTailDoorbell ring value s
  | .cqHeadDoorbell ring value => Sys2Proof.Machine.execCqHeadDoorbell ring value s
  | .sampleHeadDoorbell value => Sys2Proof.Machine.execSampleHeadDoorbell value s
  | .irqModerationTimeout ring => Sys2Proof.Machine.execIrqModerationTimeout ring s
  | .perfSelWrite n addr value => Sys2Proof.Machine.execPerfSelWrite n addr value s
  | .perfDumpEnable value => Sys2Proof.Machine.execPerfDumpEnable value s
  | .perfDumpHeadWrite value => Sys2Proof.Machine.execPerfDumpHeadWrite value s
  | .dumpTick => Sys2Proof.Machine.execDumpTick s
  | .stage value host => Sys2Proof.Machine.execStage value host s
  | .trial value => Sys2Proof.Machine.execTrial value s
  | .commit value => Sys2Proof.Machine.execCommit value s
  | .select value => Sys2Proof.Machine.execSelect value s
  | .protect value host => Sys2Proof.Machine.execProtect value host s
  | .attestGo value => Sys2Proof.Machine.execAttestGo value s
  | .registerWrite offset width value => Sys2Proof.Machine.execRegisterWrite offset width value s
  | .registerReadClear access => Sys2Proof.Machine.execRegisterReadClear access s
  | .registerHalfAccess offset write value => Sys2Proof.Machine.execRegisterHalfAccess offset write value s
  | .status => Sys2Proof.Machine.execStatus s
  | .vin sample => Sys2Proof.Machine.execVin sample s
  | .iin sample => Sys2Proof.Machine.execIin sample s
  | .pin sample => Sys2Proof.Machine.execPin sample s
  | .tj compute bridge skein => Sys2Proof.Machine.execTj compute bridge skein s
  | .boot => Sys2Proof.Machine.execBoot s
  | .serial => Sys2Proof.Machine.execSerial s
  | .info => Sys2Proof.Machine.execInfo s
  | .build => Sys2Proof.Machine.execBuild s
  | .pwrgdRise => Sys2Proof.Machine.execPwrgdRise s
  | .pwrgdFall => Sys2Proof.Machine.execPwrgdFall s
  | .inputOutOfRange vin => Sys2Proof.Machine.execInputOutOfRange vin s
  | .resetNLow => Sys2Proof.Machine.execResetNLow s
  | .resetRelease => Sys2Proof.Machine.execResetRelease s
  | .watchdogExpiry core => Sys2Proof.Machine.execWatchdogExpiry core s
  | .headstockSramError => Sys2Proof.Machine.execHeadstockSramError s
  | .coreRailFault => Sys2Proof.Machine.execCoreRailFault s
  | .skeinUncorrectableError hank => Sys2Proof.Machine.execSkeinUncorrectableError hank s
  | .droopBegin lowest => Sys2Proof.Machine.execDroopBegin lowest s
  | .droopEnd vin => Sys2Proof.Machine.execDroopEnd vin s
  | .droopThrottleRelease => Sys2Proof.Machine.execDroopThrottleRelease s
  | .powerThrottleEngage watts => Sys2Proof.Machine.execPowerThrottleEngage watts s
  | .powerThrottleRelease watts => Sys2Proof.Machine.execPowerThrottleRelease watts s
  | .thermalThrottleEngage compute => Sys2Proof.Machine.execThermalThrottleEngage compute s
  | .thermalThrottleRelease compute => Sys2Proof.Machine.execThermalThrottleRelease compute s
  | .thermalWarning part celsius => Sys2Proof.Machine.execThermalWarning part celsius s
  | .thermalTrip part celsius => Sys2Proof.Machine.execThermalTrip part celsius s
  | .thermalTripRecovery compute bridge skein => Sys2Proof.Machine.execThermalTripRecovery compute bridge skein s
  | .rateLow perMicrosecond => Sys2Proof.Machine.execRateLow perMicrosecond s
  | .refLock => Sys2Proof.Machine.execRefLock s
  | .altLaneLock => Sys2Proof.Machine.execAltLaneLock s
  | .holdoverExpiry => Sys2Proof.Machine.execHoldoverExpiry s
  | .codewordTx port lane => Sys2Proof.Machine.execCodewordTx port lane s
  | .codewordRx port lane cw => Sys2Proof.Machine.execCodewordRx port lane cw s
  | .ack port fsn replay rtag => Sys2Proof.Machine.execAck port fsn replay rtag s
  | .credit port sublane count => Sys2Proof.Machine.execCredit port sublane count s
  | .time port value => Sys2Proof.Machine.execTime port value s
  | .flitTimeout port => Sys2Proof.Machine.execFlitTimeout port s
  | .ackTimeout port => Sys2Proof.Machine.execAckTimeout port s
  | .creditDeadline port => Sys2Proof.Machine.execCreditDeadline port s
  | .lockTimeout port => Sys2Proof.Machine.execLockTimeout port s
  | .measureTimeout port => Sys2Proof.Machine.execMeasureTimeout port s
  | .marginWindowEnd port => Sys2Proof.Machine.execMarginWindowEnd port s
  | .failedDwellEnd drone index => Sys2Proof.Machine.execFailedDwellEnd drone index s
  | .linkInit port p => Sys2Proof.Machine.execLinkInit port p s
  | .packetRx port p => Sys2Proof.Machine.execPacketRx port p s
  | .adaptWaitExpiry port sublane => Sys2Proof.Machine.execAdaptWaitExpiry port sublane s
  | .ageCheck port sublane index => Sys2Proof.Machine.execAgeCheck port sublane index s
  | .put p => Sys2Proof.Machine.execPut p s
  | .getReq p => Sys2Proof.Machine.execGetReq p s
  | .getData p => Sys2Proof.Machine.execGetData p s
  | .eAck p => Sys2Proof.Machine.execEAck p s
  | .eNack p => Sys2Proof.Machine.execENack p s
  | .resendTimeout dst seq => Sys2Proof.Machine.execResendTimeout dst seq s
  | .flowStateExpiry src => Sys2Proof.Machine.execFlowStateExpiry src s
  | .collUp p => Sys2Proof.Machine.execCollUp p s
  | .collDown p => Sys2Proof.Machine.execCollDown p s
  | .a2aUp p => Sys2Proof.Machine.execA2aUp p s
  | .a2aDown p => Sys2Proof.Machine.execA2aDown p s
  | .barrierArrive p => Sys2Proof.Machine.execBarrierArrive p s
  | .barrierRelease p => Sys2Proof.Machine.execBarrierRelease p s
  | .gcredit p => Sys2Proof.Machine.execGcredit p s
  | .tack p => Sys2Proof.Machine.execTack p s
  | .chunkAbort p => Sys2Proof.Machine.execChunkAbort p s
  | .cNack p => Sys2Proof.Machine.execCNack p s
  | .rowWaitPkt p => Sys2Proof.Machine.execRowWaitPkt p s
  | .castReady p => Sys2Proof.Machine.execCastReady p s
  | .castFail p => Sys2Proof.Machine.execCastFail p s
  | .castGo p => Sys2Proof.Machine.execCastGo p s
  | .castAbort p => Sys2Proof.Machine.execCastAbort p s
  | .castOnLimitExpiry group => Sys2Proof.Machine.execCastOnLimitExpiry group s
  | .stepSeal p => Sys2Proof.Machine.execStepSeal p s
  | .stepSealed p => Sys2Proof.Machine.execStepSealed p s
  | .stepSealRetry group => Sys2Proof.Machine.execStepSealRetry group s
  | .stitchDispatch => Sys2Proof.Machine.execStitchDispatch s
  | .stitchComplete front back => Sys2Proof.Machine.execStitchComplete front back s
  | .dwellExpiry group node seq chunk => Sys2Proof.Machine.execDwellExpiry group node seq chunk s
  | .chunkComplete group seq chunk => Sys2Proof.Machine.execChunkComplete group seq chunk s
  | .generationFlip group => Sys2Proof.Machine.execGenerationFlip group s
  | .snapshotCopy hank => Sys2Proof.Machine.execSnapshotCopy hank s
  | .bankRetire => Sys2Proof.Machine.execBankRetire s
  | .txnCommitTick => Sys2Proof.Machine.execTxnCommitTick s
  | .droneBeatTx lane => Sys2Proof.Machine.execDroneBeatTx lane s
  | .beat lane data => Sys2Proof.Machine.execBeat lane data s
  | .droneLaneLost lane => Sys2Proof.Machine.execDroneLaneLost lane s
  | .commaAlign lane => Sys2Proof.Machine.execCommaAlign lane s
  | .tmarkTx lane => Sys2Proof.Machine.execTmarkTx lane s
  | .tmark lane value crc => Sys2Proof.Machine.execTmark lane value crc s
  | .helloTx lane => Sys2Proof.Machine.execHelloTx lane s
  | .hello lane body => Sys2Proof.Machine.execHello lane body s
  | .delayReq lane reqId t1 => Sys2Proof.Machine.execDelayReq lane reqId t1 s
  | .delayResp lane reqId t1 t2 t3 => Sys2Proof.Machine.execDelayResp lane reqId t1 t2 t3 s
  | .moduleLost lane body => Sys2Proof.Machine.execModuleLost lane body s
  | .endpointLost lane body => Sys2Proof.Machine.execEndpointLost lane body s
  | .epPortLost lane body => Sys2Proof.Machine.execEpPortLost lane body s
  | .draining lane body => Sys2Proof.Machine.execDraining lane body s
  | .shardLost lane body => Sys2Proof.Machine.execShardLost lane body s
  | .risk lane body => Sys2Proof.Machine.execRisk lane body s
  | .leadTaken lane body => Sys2Proof.Machine.execLeadTaken lane body s
  | .returned lane body => Sys2Proof.Machine.execReturned lane body s
  | .course lane body => Sys2Proof.Machine.execCourse lane body s
  | .courseRepeat => Sys2Proof.Machine.execCourseRepeat s
  | .secureReq lane body => Sys2Proof.Machine.execSecureReq lane body s
  | .evacReq lane body => Sys2Proof.Machine.execEvacReq lane body s
  | .evacAck lane body => Sys2Proof.Machine.execEvacAck lane body s
  | .severTimeout => Sys2Proof.Machine.execSeverTimeout s
  | .drainQuiescent => Sys2Proof.Machine.execDrainQuiescent s
  | .riskUpdate celsius => Sys2Proof.Machine.execRiskUpdate celsius s
  | .sampleRecordWrite => Sys2Proof.Machine.execSampleRecordWrite s
  | .tackDeadline endpoint => Sys2Proof.Machine.execTackDeadline endpoint s
  | .vectorUnmask vector => Sys2Proof.Machine.execVectorUnmask vector s
  | .busMasterEnable field => Sys2Proof.Machine.execBusMasterEnable field s
  | .ringsEn on => Sys2Proof.Machine.execRingsEn on s
  | .delayReqTx lane => Sys2Proof.Machine.execDelayReqTx lane s
  | .lossOfLock bridge => Sys2Proof.Machine.execLossOfLock bridge s
  | .smbusWrite message => Sys2Proof.Machine.execSmbusWrite message s
  | .droneFrameError lane groups => Sys2Proof.Machine.execDroneFrameError lane groups s

end Sys2Proof.Machine
end

