-- ==== Sys2Proof/Machine/DataFaults.lean ====
section
/-!
DEFINITION. What a byte-parity error of a datapath and an uncorrectable word of the on-die buffer do (R33, R34, Table 1.6): a
packet is discarded as for a CRC-32C failure, a stitch ends with DROPPED_STITCH. When such an error is detected is a free value
(log entry 104).
-/
namespace Sys2Proof.Machine

/-- A packet discarded as for a CRC-32C failure, its buffer released. -/
def discardBad (port : Nat) (x : QPkt) (s : State) : State :=
  releaseBuf x (if port < 128 then countBad 0x05 port 8 x.pkt s
    else drop 128 8 (count { code := 0x05, port := some 128, src := srcAttr x.pkt, sub := sublane x.pkt } 1 s))

/-- Packets of one buffer of this module discarded. -/
def discardOwn (ps : List Packet) (s : State) : State :=
  forEach ps (fun p s => discardBad 128 { pkt := p, inPort := 128, enq := s.clock.now } s) s

/-- A queued packet discarded. -/
def discardQueued (port sub : Nat) (x : QPkt) (s : State) : State :=
  releaseRx port (discardBad port x (updQueue port sub (·.erase x) s))

/-- A delivered packet discarded. -/
def discardInbox (x : QPkt) (s : State) : State :=
  discardBad (min x.inPort 128) x { s with routing := { s.routing with inbox := s.routing.inbox.erase x } }

/-- Every queued packet that satisfies a test, with its port and sub-lane. -/
def queuedWith (s : State) (f : QPkt → Bool) : List (Nat × Nat × QPkt) :=
  s.ports.flatMap fun q => q.2.queues.flatMap fun k => (k.2.filter f).map (q.1, k.1, ·)

/-- A MAP or APPLY of a chunk at an instance. -/
def stitchOf (gid : Nat) (k : Nat × Option Nat) (seq c : Nat) (x : Stitch) : Bool :=
  x.kind != .reduce && x.group == gid && (x.node, x.shard) == k && x.seq == seq && x.chunk == c

/-- A chunk's MAP or APPLY waits on the needle bed, or between its phases. -/
def valueWaits (s : State) (g : Group) (op : Op) (k : Nat × Option Nat) (c : Nat) : Bool :=
  (s.bed.queue.any (stitchOf g.id k op.seq c)) ||
    (k.2 == some (rootShard g.record op c) && op.heldChunks.any (·.chunk == c))

/-- A chunk whose MAP or APPLY waits ends with DROPPED_STITCH: its value is lost, and the chunk fails. -/
def dropWaiting (gid : Nat) (k : Nat × Option Nat) (op : Op) (c : Nat) (s : State) : State :=
  let s := count { code := 0x11 } 1 { s with bed := { s.bed with queue := s.bed.queue.filter (!stitchOf gid k op.seq c ·) } }
  match (findGroup s gid).bind fun g => (instAt g k).map (g, ·) with
  | some (g, i) => failApply g op i c s
  | none => s

/-- A stitch whose slots or result lie in a poisoned buffer ends with DROPPED_STITCH. -/
def poisonCtx (gid : Nat) (k : Nat × Option Nat) (c : Ctx) (s : State) : State :=
  match (findGroup s gid).bind fun g => (findOp g c.seq).map (g, ·) with
  | none => s
  | some (g, op) =>
    match (runningStitch s).filter fun r => c.stage == .running && r.1.id == gid && instKey r.2.2.1 == k &&
        r.2.2.2.seq == c.seq && r.2.2.2.chunk == c.chunk with
    | some r => dropRunning 0 0 r s
    | none => if valueWaits s g op k c.chunk then dropWaiting gid k op c.chunk s else takeAbort gid k op c.chunk c.attempt none true (count { code := 0x11 } 1 s)

/-- A MAP whose chunk lies in a poisoned buffer ends with DROPPED_STITCH: its chunk fails. -/
def poisonMap (gid : Nat) (x : Stitch) (b : Nat) (s : State) : State :=
  match (runningStitch s).filter fun r => r.2.2.2 == x with
  | some r => dropRunning 0 0 r s
  | none =>
    let s := releaseHolder b (count { code := 0x11 } 1 { s with bed := { s.bed with queue := s.bed.queue.erase x } })
    match (findGroup s gid).bind fun g => (findOp g x.seq).bind fun o => (instAt g (x.node, x.shard)).map (g, o, ·) with
    | some (g, op, i) => failApply g op i x.chunk s
    | none => s

/-- A part of a chunk in a poisoned buffer is lost with the packets that brought it. -/
def poisonPart (gid : Nat) (k : Nat × Option Nat) (x : PartBuf) (b : Nat) (s : State) : State :=
  let s := forEach x.buf.parts (fun _ s => drop 128 8 (count { code := 0x05, port := some 128 } 1 s)) s
  releaseHolder b (updInst gid k (fun i => { i with bufs := i.bufs.erase x }) s)

/-- A transfer whose buffer is poisoned: its packets that wait are discarded, and none can be sent again. -/
def poisonTransfer (gid : Nat) (t : Transfer) (s : State) : State :=
  let mine (x : QPkt) : Bool := t.packets.any fun y => sentHeader x.pkt == sentHeader y
  let s := forEach (queuedWith s mine) (fun x s => discardQueued x.1 x.2.1 x.2.2 s) s
  updGroup gid (fun g => { g with transfers := g.transfers.map fun y => if y = t then { y with packets := [] } else y }) s

/-- A buffer of a group poisoned. -/
def poisonBuffer (g : Group) (b : Nat) (s : State) : State :=
  let ctxs := g.insts.flatMap fun i => (i.ctxs.filter fun c => c.bufs.contains b && c.stage != .done).map (instKey i, ·)
  let parts := g.insts.flatMap fun i => (i.bufs.filter (·.cells == some b)).map (instKey i, ·)
  let maps := (s.bed.queue ++ (liveStitch s).toList).filter fun x => x.group == g.id && x.buf == some b
  let keys := (g.heldBufs.filter (·.2 == b)).map (·.1)
  let lost (q : Via × Packet) : Bool := (heldKey q.2).any keys.contains
  let s := forEach ctxs (fun x s => poisonCtx g.id x.1 x.2 s) s
  let s := forEach maps (fun x s => poisonMap g.id x b s) s
  let s := forEach parts (fun x s => poisonPart g.id x.1 x.2 b s) s
  let s := discardOwn ((g.held.filter lost).map (·.2))
    (updGroup g.id (fun g => { g with held := g.held.filter (!lost ·) }) s)
  let s := forEach (g.transfers.filter (·.buf == some b)) (poisonTransfer g.id) (trimHeld g.id s)
  settled g.id s

/-- A cell of the on-die buffer poisoned: whatever it holds of a packet, a sample or a stitch is lost (Table 1.6). -/
def poisonCell (cell : Nat × Nat) (s : State) : State :=
  let mine (x : QPkt) : Bool := x.cell == some cell
  let s := forEach (queuedWith s mine) (fun x s => discardQueued x.1 x.2.1 x.2.2 s) s
  let s := forEach (s.routing.inbox.filter mine) discardInbox s
  let s := forEach (s.traffic.samples.filter fun x => cell == (0, x.cell)) (fun x s =>
    loseSample x.port (freeCell 0 x.cell false { s with traffic := { s.traffic with samples := s.traffic.samples.erase x } })) s
  match s.pools.buffers.find? fun b => b.2.cells.contains cell with
  | some b => match findGroup s b.2.group with
    | some g => poisonBuffer g b.1 s
    | none => s
  | none => s

/-- A data error takes effect where it strikes. -/
def strike (f : DataFault) (s : State) : State :=
  match f with
  | .cell pool index => poisonCell (pool, index) s
  | .queued port sub => match queueOf s port sub with
    | x :: _ => discardQueued port sub x s
    | [] => s
  | .inbox => match s.routing.inbox with
    | x :: _ => discardInbox x s
    | [] => s
  | .operand => match runningStitch s with
    | some r => dropRunning 0 0 r s
    | none => s

end Sys2Proof.Machine
end

