-- ==== Sys2Proof/Machine/Time.lean ====
section
/-!
DEFINITION. One fabric tick, which passes whenever no command waits (log entry 4): packets that a leaving module refused are
sent again when their 10 µs have passed (Table 7.12), handshakes are counted (R430, R431), fabric time advances (R9, R302),
held selectors of the performance counters take effect while dumps are disabled (R434), the record of a dump tick is taken (R436), packets that came to the head of their
queue are tested for age (R317), every drone lane sends a code group (R275), a STAGE and an attestation report go on (R420, R427), data errors do what R33 says, and corrected errors are counted (R36).
-/
namespace Sys2Proof.Machine

/-- Fine time after one tick: 64 fine units, or 32 while a slew is absorbed at half rate (R299, R302). -/
def tickClock (c : Clock) : Clock :=
  let half := min 32 c.slew
  { c with now := c.now + 1, fine := c.fine + (64 - half), slew := c.slew - half }

/-- Corrected skein errors counted (R36): SKEIN_CORR of Table 15.3, and input 0 of the health risk estimate (Table 11.8). -/
def correctErrors (hanks : List Nat) (s : State) : State :=
  { s with
    perf := hanks.foldl (fun p h => countIn { code := 0x22, hank := some h } 1 p) s.perf
    course := { s.course with inputs := s.course.inputs.set 0 (s.course.inputs.getD 0 0 + hanks.length) } }

/-- Corrected SECDED errors counted, and fed to the estimate by the input of corrected errors (R36; log entry 105). -/
def correctWords (n : Nat) (s : State) : State :=
  { s with perf := { s.perf with secded := s.perf.secded + n }
           course := { s.course with inputs := s.course.inputs.set 0 (s.course.inputs.getD 0 0 + n) } }

/-- The errors of a tick, while the module runs (FREE VALUES, log entries 79, 104, 105). -/
def tickErrors (s : State) : State :=
  if s.boot.life = .running then
    let s := forEach (Config.dataFaults s.clock.now) strike s
    correctWords (Config.correctedWords s.clock.now) (correctErrors ((Config.corrected s.clock.now).filter fun h =>
      decide (h / 65536 < s.config.skeins ∧ h % 65536 < hanksPerSkein)) s)
  else s

/-- Headstock cores that serve the watchdog in this tick (R20; FREE VALUE, log entry 109). -/
def serveWatchdog (s : State) : State :=
  let cores := Config.services s.clock.now
  if s.boot.life = .running then
    { s with boot := { s.boot with serviced := s.boot.serviced.mapIdx fun i t => if cores.contains i then s.clock.now else t } }
  else s

/-- One fabric tick. -/
def tick (s : State) : State :=
  let old := fabricTime s
  let s := forEach (s.groups.map (·.id)) resendLeaving s
  let s := signStep (attestStep (stageStep s))
  let s := serveWatchdog (driveLines (testHeads (tickHandshakes (tickRails s))))
  let s := { s with clock := tickClock s.clock, boot := { s.boot with justReset := false } }
  let s := tickRate old s
  tickErrors (if s.perf.active then takeRecord s else applySelectors s)

end Sys2Proof.Machine
end

