-- ==== Sys2Proof/WellFormed.lean ====
section
/-!
DEFINITION. Commands as the outside world can give them: a descriptor carries its row's opcode (Table 13.17), a packet
has its row's type and the length its header states (R211, R212), a codeword at most 15 corrected symbols (R203), and a
sub-lane, a hank and a register offset lie in their ranges (R11, Table 7.4, R175). Nothing in `exec` needs a
command to be well formed: an ill-formed one has a meaning too.
-/
namespace Sys2Proof
open Sys2Proof.Machine

/-- A packet of a control type is its 64-byte header; one of a data type has its low 32 header bytes, one to 32 payload
units as `len_units` says, and its trailer (R212). -/
def packetShape (p : Packet) : Bool :=
  if pIsCtl p then p.payload.isEmpty && p.trailer == 0
  else field p.hdr 32 32 == 0 && decide (1 ≤ pUnits p ∧ pUnits p ≤ 32) && p.payload.length == 256 * pUnits p

/-- A packet of one type (Table 7.11). -/
def packetWf (t : Nat) (p : Packet) : Bool := pType p == t && packetShape p

/-- A descriptor of one opcode (Table 13.17). -/
def descWf (op : Nat) (d : Desc) : Bool := dOpcode d == op

/-- A sub-lane of Table 7.4. -/
def sublaneWf (k : BitVec 4) : Bool := decide (k.toNat < 9)

/-- A hank ID: one of six skeins in bits 18:16, one of 36,864 hanks below (R175). -/
def hankWf (h : BitVec 19) : Bool := decide (h.toNat / 65536 < 6) && decide (h.toNat % 65536 < 36864)

/-- A half access is of 32 bits, aligned (R13). -/
def offsetWf (o : BitVec 26) : Bool := o.toNat % 4 == 0

/-- A written value fits its access. -/
def valueWf (w : AccessWidth) (v : BitVec 64) : Bool :=
  match w with
  | .b8 => decide (v.toNat < 2 ^ 8)
  | .b16 => decide (v.toNat < 2 ^ 16)
  | .b32 => decide (v.toNat < 2 ^ 32)
  | .b64 => true

/-- A command as the outside world can give it. -/
def Instr.wf : Instr → Bool
  | .nop _ (.read d) => descWf 0x00 d
  | .nop _ .failed => true
  | .programLoad _ d _ => descWf 0x01 d
  | .programClear _ d => descWf 0x02 d
  | .programQuery _ d => descWf 0x03 d
  | .castOn _ d _ => descWf 0x10 d
  | .bindOff _ d => descWf 0x11 d
  | .collective _ d _ => descWf 0x12 d
  | .groupPause _ d => descWf 0x13 d
  | .groupResume _ d => descWf 0x14 d
  | .groupSave _ d => descWf 0x15 d
  | .groupRestore _ d _ => descWf 0x16 d
  | .recast _ d _ => descWf 0x17 d
  | .stepRollback _ d => descWf 0x18 d
  | .shardResend _ d => descWf 0x19 d
  | .provenance _ d => descWf 0x1A d
  | .shardWrite _ d _ => descWf 0x20 d
  | .shardRead _ d => descWf 0x21 d
  | .securePoint _ d => descWf 0x22 d
  | .releaseSecure _ d => descWf 0x23 d
  | .stepRecordRead _ d => descWf 0x24 d
  | .courseSetup _ d => descWf 0x28 d
  | .takeover _ d => descWf 0x29 d
  | .evacuate _ d => descWf 0x2A d
  | .drain _ d => descWf 0x2B d
  | .txnBegin _ d => descWf 0x30 d
  | .txnWrite _ d _ => descWf 0x31 d
  | .txnCommit _ d => descWf 0x32 d
  | .txnFrog _ d => descWf 0x33 d
  | .settingRead _ d => descWf 0x34 d
  | .routeLoad _ d _ => descWf 0x38 d
  | .portTableLoad _ d _ => descWf 0x39 d
  | .droneTableLoad _ d _ => descWf 0x3A d
  | .pegLoad _ d _ => descWf 0x3B d
  | .portRestart _ d => descWf 0x3C d
  | .rowRead _ d => descWf 0x40 d
  | .rowWait _ d => descWf 0x41 d
  | .rowAdd _ d => descWf 0x42 d
  | .inject _ d _ => descWf 0x48 d
  | .moduleReset | .ifReset | .hostInterfaceReset _ => true
  | .sqEnable _ v => bit v.toNat 31
  | .sqDisable _ v => !bit v.toNat 31
  | .cqEnable _ v => bit v.toNat 63
  | .cqDisable _ v => !bit v.toNat 63
  | .sampleRingEnable _ | .sqTailDoorbell _ _ | .cqHeadDoorbell _ _ | .sampleHeadDoorbell _ => true
  | .irqModerationTimeout _ | .perfSelWrite _ _ _ | .perfDumpEnable _ | .perfDumpHeadWrite _ | .dumpTick => true
  | .stage v _ => bits v.toNat 3 0 == 1
  | .trial v => bits v.toNat 3 0 == 2
  | .commit v => bits v.toNat 3 0 == 3
  | .select v => bits v.toNat 3 0 == 4
  | .protect v _ => bits v.toNat 3 0 == 5
  | .attestGo v => bit v.toNat 0
  | .registerWrite _ w v => valueWf w v
  | .registerReadClear _ => true
  | .registerHalfAccess o _ _ => offsetWf o
  | .status | .vin _ | .iin _ | .pin _ | .tj _ _ _ | .boot | .serial | .info | .build => true
  | .pwrgdRise | .pwrgdFall | .inputOutOfRange _ | .resetNLow | .resetRelease | .watchdogExpiry _ => true
  | .headstockSramError | .coreRailFault => true
  | .skeinUncorrectableError h => hankWf h
  | .droopBegin _ | .droopEnd _ | .droopThrottleRelease | .powerThrottleEngage _ | .powerThrottleRelease _ => true
  | .thermalThrottleEngage _ | .thermalThrottleRelease _ | .thermalWarning _ _ | .thermalTrip _ _ => true
  | .thermalTripRecovery _ _ _ | .rateLow _ | .refLock | .altLaneLock | .holdoverExpiry => true
  | .codewordTx _ _ => true
  | .codewordRx _ _ cw => cw.symbols.all fun n => decide (n.toNat ≤ 15)
  | .ack _ _ _ _ => true
  | .credit _ k _ => sublaneWf k
  | .time _ _ | .flitTimeout _ | .ackTimeout _ | .creditDeadline _ | .lockTimeout _ | .measureTimeout _ => true
  | .marginWindowEnd _ => true
  | .failedDwellEnd drone i => !drone || decide (i.toNat < 32)
  | .linkInit _ p => packetWf 0x40 p
  | .packetRx _ p => packetShape p
  | .adaptWaitExpiry _ k => sublaneWf k
  | .ageCheck _ k _ => sublaneWf k
  | .put p => packetWf 0x01 p
  | .getReq p => packetWf 0x43 p
  | .getData p => packetWf 0x02 p
  | .eAck p => packetWf 0x41 p
  | .eNack p => packetWf 0x42 p
  | .resendTimeout dst _ => !bit dst.toNat 15 || bits dst.toNat 14 11 == 0
  | .flowStateExpiry src => !bit src.toNat 15 || bits src.toNat 14 11 == 0
  | .collUp p => packetWf 0x10 p
  | .collDown p => packetWf 0x11 p
  | .a2aUp p => packetWf 0x12 p
  | .a2aDown p => packetWf 0x13 p
  | .barrierArrive p => packetWf 0x4C p
  | .barrierRelease p => packetWf 0x4D p
  | .gcredit p => packetWf 0x48 p
  | .tack p => packetWf 0x49 p
  | .chunkAbort p => packetWf 0x4A p
  | .cNack p => packetWf 0x4B p
  | .rowWaitPkt p => packetWf 0x44 p
  | .castReady p => packetWf 0x50 p
  | .castFail p => packetWf 0x51 p
  | .castGo p => packetWf 0x52 p
  | .castAbort p => packetWf 0x53 p
  | .castOnLimitExpiry _ => true
  | .stepSeal p => packetWf 0x58 p
  | .stepSealed p => packetWf 0x59 p
  | .stepSealRetry _ | .stitchDispatch | .stitchComplete _ _ | .dwellExpiry _ _ _ _ | .chunkComplete _ _ _ => true
  | .generationFlip _ => true
  | .snapshotCopy h => hankWf h
  | .bankRetire | .txnCommitTick => true
  | .droneBeatTx _ | .beat _ _ | .droneLaneLost _ | .commaAlign _ | .tmarkTx _ | .tmark _ _ _ | .helloTx _ => true
  | .hello _ _ | .delayReq _ _ _ | .delayResp _ _ _ _ _ | .moduleLost _ _ | .endpointLost _ _ => true
  | .epPortLost _ _ | .draining _ _ | .shardLost _ _ | .risk _ _ | .leadTaken _ _ | .returned _ _ => true
  | .course _ _ | .secureReq _ _ | .evacReq _ _ | .evacAck _ _ | .delayReqTx _ | .droneFrameError _ _ => true
  | .courseRepeat | .severTimeout | .drainQuiescent | .riskUpdate _ | .sampleRecordWrite | .tackDeadline _ => true
  | .vectorUnmask _ | .busMasterEnable _ | .ringsEn _ | .lossOfLock _ | .smbusWrite _ => true

end Sys2Proof
end

