-- ==== Sys2Proof/Safety.lean ====
section
/-!
DEFINITION. The words in which statements are written: what an outcome answers, what a command leaves unchanged, when a
Salpor command is taken, and the invariants of the machine's state.
-/
namespace Sys2Proof.Machine

/-! ## Outcomes -/

/-- The outcome is a next state with a property. -/
def Answers (o : Host.Outcome State Fault Refusal) (P : State → Prop) : Prop := ∃ t, o = .next t ∧ P t

/-- The next state of an outcome, the given state where there is none: for tests. -/
def nextOr (s : State) : Host.Outcome State Fault Refusal → State
  | .next t => t
  | _ => s

/-! ## What a command leaves unchanged -/

/-- The parts of the state that a frame names: the fields of State, with PROT_STATUS `blocked` (R424) apart from the
rest of the boot registers, skein memory apart from the hanks, and the column slot and handshake counts of NB_SLOTS
(Table 15.2) apart from the other performance registers. -/
inductive Part where
  | flash
  | host
  | rows
  | slots
  | pools
  | skeinMem
  | hanks
  | groups
  | bed
  | ports
  | drones
  | clock
  | routing
  | traffic
  | flows
  | course
  | perf
  | slotCounts
  | boot
  | blocked
  | power
  | drops
  | out
  | pending
  deriving DecidableEq, Repr

/-- The part is the same in both states. -/
@[reducible] def Part.same (s t : State) : Part → Prop
  | .flash => t.flash = s.flash
  | .host => t.host = s.host
  | .rows => t.rows = s.rows
  | .slots => t.slots = s.slots
  | .pools => t.pools = s.pools
  | .skeinMem => t.skein.mem = s.skein.mem
  | .hanks => { t.skein with mem := s.skein.mem } = s.skein
  | .groups => t.groups = s.groups
  | .bed => t.bed = s.bed
  | .ports => t.ports = s.ports
  | .drones => t.drones = s.drones
  | .clock => t.clock = s.clock
  | .routing => t.routing = s.routing
  | .traffic => t.traffic = s.traffic
  | .flows => t.flows = s.flows
  | .course => t.course = s.course
  | .perf => { t.perf with
      retired := s.perf.retired, wasted := s.perf.wasted, front := s.perf.front, back := s.perf.back
      handshakes := s.perf.handshakes } = s.perf
  | .slotCounts => t.perf.retired = s.perf.retired ∧ t.perf.wasted = s.perf.wasted ∧ t.perf.front = s.perf.front ∧
      t.perf.back = s.perf.back ∧ t.perf.handshakes = s.perf.handshakes
  | .boot => { t.boot with blocked := s.boot.blocked } = s.boot
  | .blocked => t.boot.blocked = s.boot.blocked
  | .power => t.power = s.power
  | .drops => t.drops = s.drops
  | .out => t.out = s.out
  | .pending => t.pending = s.pending

/-- From `s` to `t` only the listed parts may have changed. -/
def ChangesOnly (parts : List Part) (s t : State) : Prop := ∀ p : Part, p ∉ parts → p.same s t

/-- Everything has its reset value (R14, R418) but the flash, what the module has driven and the waiting commands; `last_reset` and
the life of the module; and the pins, the state of the rails, SMB_ALERT_N and `therm_trip`: of the boot registers and of the power
state (PWR_CFG, the droop and the throttles among it) everything else. -/
def AtReset (t : State) : Prop := t = { State.initial t.flash with
  out := t.out, pending := t.pending
  boot := { ({} : Boot) with life := t.boot.life, lastReset := t.boot.lastReset, justReset := t.boot.justReset }
  power := { ({} : Power) with
    pwrgd := t.power.pwrgd, resetN := t.power.resetN, railsGood := t.power.railsGood, smbAlert := t.power.smbAlert
    thermTrip := t.power.thermTrip, smbAddr := t.power.smbAddr } }

/-! ## Salpor commands -/

/-- The descriptor `d` at the head of a ring can be taken (R394) and has the opcode of the command. -/
def Taken (s : State) (sq : BitVec 8) (d : Desc) (op : Nat) : Prop := canTake s sq.toNat d = true ∧ dOpcode d = op

/-- The state in which a taken command runs, and its token. -/
abbrev taking (s : State) (sq : BitVec 8) (d : Desc) : State := takeDesc sq.toNat d s
abbrev tokOf (s : State) (sq : BitVec 8) (d : Desc) : Tok := takenTok s sq.toNat d

/-! ## Invariants -/

/-- Skein memory in its canonical form: addresses rising, and no byte listed that reads 0. -/
abbrev MemWf (s : State) : Prop := tableWf 0 s.skein.mem = true

/-- The lists that stand for a fixed number of registers have their length: four pools and carve registers (Table 6.2). -/
def PoolsWf (s : State) : Prop := s.pools.pools.length = 4 ∧ s.pools.carve.length = 4

/-- R431: every column slot of every handshake is counted in one of the four categories, modulo 2⁴⁸. -/
def SlotsAddUp (s : State) : Prop :=
  s.perf.retired + s.perf.wasted + s.perf.front + s.perf.back = BitVec.ofNat 48 s.columns * s.perf.handshakes

/-- A run is safe when no step of it stops: no fault, and no command without a meaning. -/
def SafeStep (s : State) : Prop := Answers (step s) fun _ => True

end Sys2Proof.Machine
end

