-- ==== Sys2Proof/Certificates/Slice0/Obligations.lean ====
section
/-!
DEFINITION. The statements about the model, family by family in the order of the command table. `exec c s` answers a
next state for every command; each statement says which, under hypotheses on the state and the operands alone.
-/
open Sys2Proof Sys2Proof.Machine

/-! ## The machine -/

/-- A step runs the command at the front of the queue on the state with the queue's rest; an empty queue lets one fabric
tick pass (the model's own choice, log entry 4). No command stops: each answers a next state in every state. -/
def Obligations.StepRunsFrontCommand : Prop :=
  (∀ (c : Instr) (rest : List Instr) (s : State), s.pending = c :: rest → step s = exec c { s with pending := rest }) ∧
  (∀ s : State, s.pending = [] → step s = .next (tick s)) ∧
  ∀ (c : Instr) (s : State), Answers (exec c s) fun _ => True

/-! ## Salpor rings (R388 to R397, R404, R410) -/

/-- R394: the descriptor at the head of a ring is taken where firmware runs, host memory is open, the ring is enabled and active and
not empty, no earlier command of the ring is outstanding where `fence` is set, its completion ring is active, and that ring has an
entry that is neither unreleased nor reserved; the ring's turn, and a row read from a host window, are the model's reading (log
entry 57) and R424. Taking it moves the ring's head on, reserves one entry of its completion ring, and makes the command
outstanding; every other ring, and everything but the host interface and the counters of Table 15.6, is unchanged. -/
def Sys2Proof.Rules.takingRule : Prop :=
  (∀ (s : State) (n : Nat) (d : Desc),
    let q := getSq s n
    let c := getCq s (dCq d)
    s.boot.life = .running → s.host.bme = true → s.host.ringsEn = true → s.host.pcie.d3hot = false →
    q.enable = true → q.active = true → q.head ≠ q.tail → inHostWindow s (q.base.toNat + 64 * q.head.toNat) 64 = true →
    turnRing s = some n → (dFence d = true → ∀ x ∈ s.host.outstanding, x.sq.toNat ≠ n) →
    dCq d < 256 → c.active = true → cqUsed c + c.reserved + c.waiting.length + 1 < c.size.toNat → canTake s n d = true) ∧
  ∀ (s : State) (n : Nat) (d : Desc), canTake s n d = true →
    (∀ m, getSq (takeDesc n d s) m =
      if m = n then { getSq s n with head := sqNext (getSq s n), stalled := false, headWait := none } else getSq s m) ∧
    (∀ m, getCq (takeDesc n d s) m =
      if m = dCq d then { getCq s m with reserved := (getCq s m).reserved + 1 } else getCq s m) ∧
    (takeDesc n d s).host.outstanding = s.host.outstanding ++ [takenTok s n d] ∧
    (takeDesc n d s).host.nextTok = s.host.nextTok + 1 ∧ (takeDesc n d s).host.turn = n ∧
    (takeDesc n d s).host.turnLeft = (if s.host.turn = n ∧ s.host.turnLeft ≠ 0 then s.host.turnLeft
      else (getSq s n).weight.toNat) - 1 ∧
    ChangesOnly [.host, .perf] s (takeDesc n d s)

/-- R394: a ring is served for as long as its turn lasts, one descriptor for each unit of `weight`, while it has one to take;
then the next ring above it that has one, or the lowest (the model's reading of R394, log entry 57). -/
def Sys2Proof.Rules.turnRule : Prop :=
  ∀ (s : State) (n : Nat), turnRing s = some n →
    let ready (m : Nat) : Prop := m < 256 ∧ sqPending s m = true ∧ headBlocked s m = false
    ready n ∧
    (s.host.turnLeft ≠ 0 → ready s.host.turn → n = s.host.turn) ∧
    ((s.host.turnLeft = 0 ∨ ¬ ready s.host.turn) →
      (∀ m, ready m → s.host.turn < m → s.host.turn < n ∧ n ≤ m) ∧
      ((∀ m, ready m → m ≤ s.host.turn) → ∀ m, ready m → n ≤ m))

/-- R394, R397 and Table 13.15: a descriptor that is not taken. A ring with nothing to read, or whose turn it is not, is
unchanged; a head that waits for earlier commands is kept, and one that waits for its completion ring sets `stalled` too; a
descriptor that names a completion ring that is not enabled is discarded with NO_CQ; a ring whose descriptor cannot be read
stops with FETCH. That a waiting head is kept, and that a row out of its ring's turn is without effect, is the model's reading (log
entry 57). -/
def Sys2Proof.Rules.notTakenRule : Prop :=
  ∀ (s : State) (sq : BitVec 8) (d : Desc),
    let n := sq.toNat
    let inWindow := inHostWindow s ((getSq s n).base.toNat + 64 * (getSq s n).head.toNat) 64
    let stops (o : Host.Outcome State Fault Refusal) : Prop := Answers o fun t =>
      (getSq t n).err = 0x04 ∧ (getSq t n).active = false ∧ (getSq t n).head = (getSq s n).head ∧
      t.host.outstanding = s.host.outstanding
    (sqPending s n = false → exec (.nop sq (.read d)) s = .next s ∧ exec (.nop sq .failed) s = .next s) ∧
    (sqPending s n = true → inWindow = true → turnRing s ≠ some n →
      exec (.nop sq (.read d)) s = .next s ∧ exec (.nop sq .failed) s = .next s) ∧
    (sqPending s n = true → inWindow = false → stops (exec (.nop sq (.read d)) s)) ∧
    (sqPending s n = true → turnRing s = some n → stops (exec (.nop sq .failed) s)) ∧
    (sqPending s n = true → inWindow = true → turnRing s = some n →
      ((dFence d = true ∧ s.host.outstanding.any (·.sq.toNat == n) = true →
        exec (.nop sq (.read d)) s = .next (updSq n (fun q => { q with headWait := some (true, dCq d) }) s)) ∧
      (¬ (dFence d = true ∧ s.host.outstanding.any (·.sq.toNat == n) = true) → cqOpen s (dCq d) = true →
        cqHasRoom (getCq s (dCq d)) = false →
        exec (.nop sq (.read d)) s =
          .next (updSq n (fun q => { q with stalled := true, headWait := some (dFence d, dCq d) }) s)) ∧
      (¬ (dFence d = true ∧ s.host.outstanding.any (·.sq.toNat == n) = true) → cqOpen s (dCq d) = false →
        Answers (exec (.nop sq (.read d)) s) fun t =>
          (getSq t n).err = 0x06 ∧ (getSq t n).head = sqNext (getSq s n) ∧ t.host.outstanding = s.host.outstanding)))

/-- R388, R394, R397: which descriptors are taken, in which order, and what becomes of one that is not. The order of rings and what
happens to a head that waits are the model's reading (log entry 57). -/
def Obligations.TakingOrWaiting : Prop := Rules.takingRule ∧ Rules.turnRule ∧ Rules.notTakenRule

/-- R389, R394 to R397 and Table 13.19: the completion of an outstanding command. The entry goes to the tail of its completion ring
in two writes, bytes 8 to 63 first; bit 0 of byte 7 is the phase bit, which changes each time the tail comes round; the reservation
is given back, and the tail moves on; with host memory closed the entry waits (R388). The ring's vector is sent once `mod_count`
entries have been counted, or `mod_time` has passed since the first; `no_irq` leaves the entry uncounted; while a vector may not go
it becomes pending. A completion that was discarded writes nothing. -/
def Obligations.CompletionWritesItsEntry : Prop :=
  ∀ (s : State) (t : Tok) (status detail arg : Nat) (result : List Byte),
    s.host.outstanding.find? (·.id == t.id) = some t →
    let c := getCq s t.cq.toNat
    let entry := completionEntry t status detail arg result
    let e := setBits entry 56 1 (b2n !c.oddPass)
    let a := c.base.toNat + 64 * c.tail.toNat
    let w := hostWrite a ((leBytes 64 e.toNat).take 8) (hostWrite (a + 8) ((leBytes 64 e.toNat).drop 8) s)
    let last := c.tail.toNat + 1 == c.size.toNat
    let counted := c.sinceIrq + b2n !t.noIrq
    let start := if !t.noIrq && c.irqStart.isNone then some s.clock.now else c.irqStart
    let due : Bool := c.irqEn && counted != 0 && (decide (max c.modCount.toNat 1 ≤ counted) ||
      start.any fun x => decide (c.modTime.toNat * 1250 ≤ s.clock.now - x))
    let v := c.vector.toNat
    let u := complete t status detail arg result s
    u.host.outstanding = s.host.outstanding.filter (·.id != t.id) ∧ ChangesOnly [.host, .blocked, .out] s u ∧
    (t.dead = true → u.out = s.out ∧ u.host.cqs = s.host.cqs) ∧
    (t.dead = false → (getCq u t.cq.toNat).reserved = c.reserved - 1 ∧
      (hostOk s = false → u.out = s.out ∧
        (getCq u t.cq.toNat).waiting = c.waiting ++ [(entry, false, !t.noIrq)] ∧ (getCq u t.cq.toNat).tail = c.tail) ∧
      (hostOk s = true →
        u.out.hostWrites = w.out.hostWrites ∧ u.boot.blocked = w.boot.blocked ∧
        (leAt s.boot.prot 6 1 = 0 → u.out.hostWrites = s.out.hostWrites ++
          [(a + 8, (leBytes 64 e.toNat).drop 8), (a, (leBytes 64 e.toNat).take 8)]) ∧
        (getCq u t.cq.toNat).tail = (if last then 0 else c.tail + 1) ∧
        (getCq u t.cq.toNat).oddPass = (if last then !c.oddPass else c.oddPass) ∧
        (getCq u t.cq.toNat).sinceIrq = (if due then 0 else counted) ∧
        u.out.msix = (if due && vectorOpen s v then s.out.msix ++ [v] else s.out.msix) ∧
        (due = true → vectorOpen s v = false → (tget {} u.host.msix v : MsixVec).pending = true)))

/-- R392 and Table 13.15: SQ_ENABLE, CQ_ENABLE and SAMPLE_RING_ENABLE of a disabled ring. A valid size (a power of two from
16 to 65,536) and a non-zero base enable it with head and tail 0; otherwise `enable` stays 0 and `err` says why. An
enabled ring takes only the fields that a write may always set, and its base is not written. -/
def Sys2Proof.Rules.ringEnableRule : Prop :=
  (∀ (s : State) (ring : BitVec 8) (v : BitVec 32),
    let n := ring.toNat
    let size := BitVec.ofNat 17 v.toNat
    let weight : BitVec 4 := if bits v.toNat 27 24 = 0 then 1 else BitVec.ofNat 4 (bits v.toNat 27 24)
    hostUp s = true →
    ((getSq s n).enable = false → ringSizeOk size.toNat = true → (getSq s n).base ≠ 0 →
      exec (.sqEnable ring v) s = .next (updSq n (fun q => { q with
        weight := weight, size := size, enable := true, active := true, err := 0, head := 0, tail := 0
        stalled := false, headWait := none }) s)) ∧
    ((getSq s n).enable = false → ringSizeOk size.toNat = false →
      exec (.sqEnable ring v) s = .next (updSq n (fun q => { q with weight := weight, size := size, err := 1 }) s)) ∧
    ((getSq s n).enable = false → ringSizeOk size.toNat = true → (getSq s n).base = 0 →
      exec (.sqEnable ring v) s = .next (updSq n (fun q => { q with weight := weight, size := size, err := 2 }) s)) ∧
    ((getSq s n).enable = true → exec (.sqEnable ring v) s = .next (updSq n (fun q => { q with weight := weight }) s))) ∧
  (∀ (s : State) (ring : BitVec 8) (v : BitVec 64),
    let n := ring.toNat
    let size := BitVec.ofNat 17 v.toNat
    hostUp s = true →
    ((getCq s n).enable = false → ringSizeOk size.toNat = true → (getCq s n).base ≠ 0 →
      exec (.cqEnable ring v) s = .next (updCq n (fun c => { cqFields v.toNat c with
        size := size, enable := true, active := true, err := 0, head := 0, tail := 0, oddPass := false, reserved := 0
        waiting := [], sinceIrq := 0, irqStart := none }) s)) ∧
    ((getCq s n).enable = false → ringSizeOk size.toNat = false →
      exec (.cqEnable ring v) s =
        .next (cqModerate n (updCq n (fun c => { cqFields v.toNat c with size := size, err := 1 }) s))) ∧
    ((getCq s n).enable = false → ringSizeOk size.toNat = true → (getCq s n).base = 0 →
      exec (.cqEnable ring v) s =
        .next (cqModerate n (updCq n (fun c => { cqFields v.toNat c with size := size, err := 2 }) s))) ∧
    ((getCq s n).enable = true →
      exec (.cqEnable ring v) s = .next (cqModerate n (updCq n (cqFields v.toNat) s)))) ∧
  (∀ k, ringSizeOk k = true ↔ ∃ j, 4 ≤ j ∧ j ≤ 16 ∧ k = 2 ^ j) ∧
  (∀ (s : State) (ring : BitVec 8) (v : BitVec 64),
    let n := ring.toNat
    let base := BitVec.ofNat 64 (bits v.toNat 63 12 * 4096)
    hostUp s = true →
    exec (.registerWrite (.bar0 (BitVec.ofNat 26 (0x500000 + 32 * n))) .b64 v) s =
      .next (updSq n (fun q => if q.enable then q else { q with base := base }) s) ∧
    exec (.registerWrite (.bar0 (BitVec.ofNat 26 (0x502000 + 32 * n))) .b64 v) s =
      .next (updCq n (fun c => if c.enable then c else { c with base := base }) s) ∧
    (s.host.sample.enable = true → exec (.registerWrite (.bar0 0x504000) .b64 v) s = .next s) ∧
    (s.host.sample.enable = false → exec (.registerWrite (.bar0 0x504000) .b64 v) s =
      .next { s with host := { s.host with sample := { s.host.sample with base := base } } })) ∧
  (∀ (s : State) (v : BitVec 32), hostUp s = true → s.host.sample.enable = true →
    (bit v.toNat 31 = true → exec (.sampleRingEnable v) s = .next s) ∧
    (bit v.toNat 31 = false → exec (.sampleRingEnable v) s =
      .next { s with host := { s.host with sample := { s.host.sample with enable := false, active := false } } })) ∧
  ∀ (s : State) (v : BitVec 32), hostUp s = true → bit v.toNat 31 = true → s.host.sample.enable = false →
    let size := BitVec.ofNat 17 v.toNat
    let on := { s.host.sample with
      size := size, enable := true, active := true, err := 0, head := 0, tail := 0, oddPass := false }
    (ringSizeOk size.toNat = true → s.host.sample.base ≠ 0 →
      exec (.sampleRingEnable v) s = .next { s with host := { s.host with sample := on } }) ∧
    (ringSizeOk size.toNat = false →
      exec (.sampleRingEnable v) s =
        .next { s with host := { s.host with sample := { s.host.sample with size := size, err := 1 } } }) ∧
    (ringSizeOk size.toNat = true → s.host.sample.base = 0 →
      exec (.sampleRingEnable v) s =
        .next { s with host := { s.host with sample := { s.host.sample with size := size, err := 2 } } })

/-- R419, Table 14.5: while the module is in reset no access of the host is taken. -/
def Sys2Proof.Rules.inResetRule : Prop :=
  ∀ (s : State) (ring : BitVec 8) (v : BitVec 32) (w : BitVec 64) (a : BarAddr) (x : AccessWidth), hostUp s = false →
    exec (.sqEnable ring v) s = .next s ∧ exec (.cqEnable ring w) s = .next s ∧
    exec (.sqTailDoorbell ring v) s = .next s ∧ exec (.registerWrite a x w) s = .next s

/-- R397: SQ_DISABLE stops a ring, whose `active` stays while commands taken from it run; CQ_DISABLE stops a ring, discards
the completions reserved in it (their commands go on) and sets CQ_DISABLED for each. -/
def Sys2Proof.Rules.ringDisableRule : Prop :=
  (∀ (s : State) (ring : BitVec 8) (v : BitVec 32), hostUp s = true → (getSq s ring.toNat).enable = true →
    exec (.sqDisable ring v) s = .next (updSq ring.toNat (fun q => { q with
      weight := (if bits v.toNat 27 24 = 0 then 1 else BitVec.ofNat 4 (bits v.toNat 27 24)), enable := false
      active := q.active && s.host.outstanding.any (·.sq == ring) }) s)) ∧
  ∀ (s : State) (ring : BitVec 8) (v : BitVec 64), hostUp s = true → (getCq s ring.toNat).active = true →
    Answers (exec (.cqDisable ring v) s) fun t =>
      (getCq t ring.toNat).enable = false ∧ (getCq t ring.toNat).active = false ∧
      (getCq t ring.toNat).reserved = 0 ∧ (getCq t ring.toNat).waiting = [] ∧
      ((getCq s ring.toNat).enable = true → (getCq t ring.toNat).size = (getCq s ring.toNat).size) ∧
      t.host.outstanding = s.host.outstanding.map (fun x => if x.cq = ring then { x with dead := true } else x) ∧
      ((∃ x ∈ s.host.outstanding, x.cq = ring ∧ x.dead = false) → (getCq t ring.toNat).err = 0x08) ∧
      ChangesOnly [.host, .out, .blocked] s t

/-- R392, R397, R419: rings enabled and disabled, and accesses while the module is in reset. That a write to an enabled ring takes
the fields which may always be written is the model's reading (log entry 76). Completes: sqEnable, sqDisable, cqEnable, cqDisable, sampleRingEnable. -/
def Obligations.RingEnableAndDisable : Prop := Rules.ringEnableRule ∧ Rules.inResetRule ∧ Rules.ringDisableRule

/-- R393 and Table 13.15: doorbells. One of a ring that is not enabled does nothing; a tail index below `size`, or a head
index between the ring's head and its tail, is taken; any other is ignored and sets DOORBELL. In BAR2 the doorbell of SQ n
is at 64n, of CQ n at 0x4000 + 64n and of the sample ring at 0x8000; a write elsewhere is ignored, and every read answers 0.
Completes: sqTailDoorbell, cqHeadDoorbell, sampleHeadDoorbell. -/
def Obligations.DoorbellRules : Prop :=
  (∀ (s : State) (ring : BitVec 8) (v : BitVec 32), hostUp s = true →
    let n := ring.toNat
    ((getSq s n).enable = false → exec (.sqTailDoorbell ring v) s = .next s) ∧
    ((getSq s n).enable = true → v.toNat < (getSq s n).size.toNat →
      exec (.sqTailDoorbell ring v) s = .next (updSq n (fun q => { q with tail := BitVec.ofNat 16 v.toNat }) s)) ∧
    ((getSq s n).enable = true → (getSq s n).size.toNat ≤ v.toNat →
      Answers (exec (.sqTailDoorbell ring v) s) fun t =>
        getSq t n = { getSq s n with err := 5 } ∧ ChangesOnly [.host, .out, .blocked] s t) ∧
    ((getCq s n).enable = false → exec (.cqHeadDoorbell ring v) s = .next s) ∧
    ((getCq s n).enable = true →
      inWritten (getCq s n).head.toNat (getCq s n).tail.toNat (getCq s n).size.toNat v.toNat = true →
      exec (.cqHeadDoorbell ring v) s = .next (updCq n (fun c => { c with head := BitVec.ofNat 16 v.toNat }) s)) ∧
    ((getCq s n).enable = true →
      inWritten (getCq s n).head.toNat (getCq s n).tail.toNat (getCq s n).size.toNat v.toNat = false →
      Answers (exec (.cqHeadDoorbell ring v) s) fun t => (getCq t n).err = 5 ∧ (getCq t n).head = (getCq s n).head)) ∧
  (∀ (s : State) (v : BitVec 32), hostUp s = true →
    let r := s.host.sample
    (r.enable = false → exec (.sampleHeadDoorbell v) s = .next s) ∧
    (r.enable = true → inWritten r.head.toNat r.tail.toNat r.size.toNat v.toNat = true →
      exec (.sampleHeadDoorbell v) s =
        .next { s with host := { s.host with sample := { r with head := BitVec.ofNat 16 v.toNat } } }) ∧
    (r.enable = true → inWritten r.head.toNat r.tail.toNat r.size.toNat v.toNat = false →
      Answers (exec (.sampleHeadDoorbell v) s) fun t =>
        t.host.sample = { r with err := 5 } ∧ ChangesOnly [.host, .out, .blocked] s t)) ∧
  ∀ (s : State) (ring : BitVec 8) (v : BitVec 32) (o : BitVec 16) (w : AccessWidth), hostUp s = true →
    let at32 (o : BitVec 16) := exec (.registerWrite (.bar2 o) .b32 (v.setWidth 64)) s
    at32 (BitVec.ofNat 16 (64 * ring.toNat)) = exec (.sqTailDoorbell ring v) s ∧
    at32 (BitVec.ofNat 16 (0x4000 + 64 * ring.toNat)) = exec (.cqHeadDoorbell ring v) s ∧
    at32 0x8000 = exec (.sampleHeadDoorbell v) s ∧
    (o.toNat % 64 ≠ 0 ∨ 0x8000 < o.toNat → at32 o = .next s) ∧
    (w ≠ .b32 → exec (.registerWrite (.bar2 o) w (v.setWidth 64)) s = .next s) ∧
    Answers (exec (.registerReadClear { addr := .bar2 o, width := w }) s) fun t =>
      (t.out.reads.getLast?.map (·.2)) = some 0 ∧ ChangesOnly [.out] s t

/-- R390: each message that is pending and may go now is sent once, and waits no longer; no other vector changes. -/
def Sys2Proof.Rules.releases (s t : State) : Prop :=
  ∀ v, let m : MsixVec := tget {} s.host.msix v
    let goes := m.pending && vectorOpen t v
    tget {} t.host.msix v = { m with pending := m.pending && !goes } ∧
    t.out.msix.count v = s.out.msix.count v + b2n goes

/-- R390, R396: IRQ_MODERATION_TIMEOUT sends the ring's vector when `mod_time` has passed since the first entry counted, and
is without effect before; while a vector is masked, or the function is, its message waits; VECTOR_UNMASK sends the one
message that is pending, and MSI-X Enable with no function mask all that may go. -/
def Sys2Proof.Rules.interruptsRule : Prop :=
  (∀ (s : State) (ring : BitVec 8) (t0 : Nat),
    let n := ring.toNat
    let c := getCq s n
    c.irqEn = true → c.sinceIrq ≠ 0 → c.irqStart = some t0 →
    (c.modTime.toNat * 1250 ≤ s.clock.now - t0 → vectorOpen s c.vector.toNat = true →
      Answers (exec (.irqModerationTimeout ring) s) fun t =>
        t.out.msix = s.out.msix ++ [c.vector.toNat] ∧
        getCq t n = { c with sinceIrq := 0, irqStart := none } ∧ ChangesOnly [.host, .out] s t) ∧
    (c.modTime.toNat * 1250 ≤ s.clock.now - t0 → vectorOpen s c.vector.toNat = false →
      Answers (exec (.irqModerationTimeout ring) s) fun t =>
        (tget {} t.host.msix c.vector.toNat).pending = true ∧
        getCq t n = { c with sinceIrq := 0, irqStart := none } ∧ ChangesOnly [.host] s t) ∧
    (s.clock.now - t0 < c.modTime.toNat * 1250 → c.sinceIrq < c.modCount.toNat →
      exec (.irqModerationTimeout ring) s = .next s)) ∧
  (∀ (s : State) (v : BitVec 11), hostUp s = true →
    let goes := s.host.pcie.msixEnable && !s.host.pcie.msixMask && s.host.bme
    Answers (exec (.vectorUnmask v) s) fun t =>
      tget {} t.host.msix v.toNat =
        { masked := false, pending := (tget {} s.host.msix v.toNat).pending && !goes } ∧
      t.out.msix = s.out.msix ++ (if (tget {} s.host.msix v.toNat).pending && goes then [v.toNat] else []) ∧
      ChangesOnly [.host, .out] s t) ∧
  ∀ (s : State) (on mask : Bool), hostUp s = true →
    Answers (exec (.busMasterEnable (.msix on mask)) s) fun t =>
      t.host.pcie = { s.host.pcie with msixEnable := on, msixMask := mask } ∧ Rules.releases s t ∧
      ChangesOnly [.host, .out] s t

/-- The writes of entries that waited, from the ring's tail on: bytes 8 to 63 of each first, then bytes 0 to 7, with the phase bit of
the pass (R395). -/
def Sys2Proof.Rules.entryWrites : Cq → List (BitVec 512 × Bool × Bool) → List (Nat × List Byte)
  | _, [] => []
  | c, e :: es =>
    let bs := leBytes 64 (setBits e.1 56 1 (b2n !c.oddPass)).toNat
    let a := c.base.toNat + 64 * c.tail.toNat
    let last := c.tail.toNat + 1 == c.size.toNat
    (a + 8, bs.drop 8) :: (a, bs.take 8) :: entryWrites { c with
      tail := if last then 0 else c.tail + 1, oddPass := if last then !c.oddPass else c.oddPass } es

/-- R388, R395, R439: what is written once host memory is open: the entries of completions and events that waited, ring by ring and
in their order, then the dump record that waited, in two parts; every completion ring's list is empty then. A write of the record
that fails stops the dump ring. No protection block restricts host windows. -/
def Sys2Proof.Rules.served (s t : State) : Prop :=
  let entries := s.host.cqs.flatMap fun q => Rules.entryWrites (getCq s q.1) (getCq s q.1).waiting
  let a := s.perf.base.toNat + s.perf.slotSize.toNat * 4096 * s.perf.tail.toNat
  (∀ n, (getCq t n).waiting = []) ∧ t.perf.waitRec = none ∧ ChangesOnly [.host, .perf, .out, .blocked] s t ∧
  ((s.host.cqs.map (·.1)).Nodup → leAt s.boot.prot 6 1 = 0 →
    (s.perf.waitRec = none → t.out.hostWrites = s.out.hostWrites ++ entries) ∧
    ∀ bs, s.perf.waitRec = some bs →
      (Config.dumpWriteFails s.clock.now = false →
        t.out.hostWrites = s.out.hostWrites ++ entries ++ [(a + 8, bs.drop 8), (a, bs.take 8)] ∧
        t.perf.tail.toNat = (s.perf.tail.toNat + 1) % s.perf.size.toNat % 65536) ∧
      (Config.dumpWriteFails s.clock.now = true → t.perf.active = false ∧ t.perf.err = 4 ∧
        ∃ event, t.out.hostWrites = s.out.hostWrites ++ entries ++ event))

/-- R383, R388, Table 13.1: with `bme` and `rings_en` both 1, Bus Master Enable and RINGS_EN write everything that waited;
with either 0 they change only their bit. Samples that wait are written by SAMPLE_RECORD_WRITE (R410). The other fields of
configuration space are held as written, sizes outside Table 13.1 are not taken, and D3hot is a host interface reset: the standard's
configuration space (PRESUMED, log entry 10). -/
def Sys2Proof.Rules.hostMemoryRule : Prop :=
  (∀ (s : State) (on : Bool), hostUp s = true → (on && s.host.ringsEn) = false →
    (∀ q ∈ s.host.msix, q.2.pending = false) →
    exec (.busMasterEnable (.busMaster on)) s = .next { s with host := { s.host with bme := on } }) ∧
  (∀ (s : State) (on : Bool), hostUp s = true → (on && s.host.bme) = false →
    exec (.ringsEn on) s = .next { s with host := { s.host with ringsEn := on } }) ∧
  (∀ s : State, hostUp s = true → s.host.ringsEn = true → s.host.pcie.d3hot = false →
    Answers (exec (.busMasterEnable (.busMaster true)) s) fun t =>
      t.host.bme = true ∧ Rules.served s t) ∧
  (∀ s : State, hostUp s = true → s.host.bme = true → s.host.pcie.d3hot = false →
    Answers (exec (.ringsEn true) s) fun t =>
      t.host.ringsEn = true ∧ Rules.served s t) ∧
  ∀ (s : State) (k : BitVec 3) (a : BitVec 64) (e : BitVec 32), hostUp s = true →
    let put (p : Pcie) : Host.Outcome State Fault Refusal := .next { s with host := { s.host with pcie := p } }
    let p := s.host.pcie
    (k.toNat ≤ 2 → exec (.busMasterEnable (.maxPayload k)) s = put { p with maxPayload := k }) ∧
    (k.toNat ≤ 5 → exec (.busMasterEnable (.maxRead k)) s = put { p with maxRead := k }) ∧
    exec (.busMasterEnable (.bar0 a)) s = put { p with bar0 := BitVec.ofNat 64 (a.toNat / 2 ^ 26 * 2 ^ 26) } ∧
    exec (.busMasterEnable (.bar2 a)) s = put { p with bar2 := BitVec.ofNat 64 (a.toNat / 2 ^ 16 * 2 ^ 16) } ∧
    exec (.busMasterEnable (.aerClear e)) s = put { p with aer := p.aer &&& ~~~e } ∧
    (Answers (exec (.busMasterEnable (.power true)) s) fun t => t.host.pcie.d3hot = true ∧
      (p.d3hot = false → t.host.ringsEn = false ∧ t.host.msix = [])) ∧
    exec (.busMasterEnable (.power false)) s = put { p with d3hot := false }

/-- R383, R388, R390, R395, R396: interrupts, and what is written of what waited while host memory was closed; fields of
configuration space follow the standard (PRESUMED, log entry 10). Completes: irqModerationTimeout,
vectorUnmask, busMasterEnable, ringsEn. -/
def Obligations.HostSideIsServed : Prop := Rules.interruptsRule ∧ Rules.hostMemoryRule

/-- R389, R437: IF_RESET and HOST_INTERFACE_RESET disable every ring, clear heads, tails, reservations, `rings_en` and the
MSI-X table, discard what was not written and the completions of commands already taken, end a STAGE with HOST_READ, discard an
attestation report in progress, and leave ports, groups, shards, transactions, row counters and settings untouched. That Bus Master
Enable stays as it was is the model's reading (log entry 58), and so is that half-made 64-bit accesses end (log entry 115).
Completes: ifReset, hostInterfaceReset. -/
def Obligations.HostInterfaceResetRules : Prop :=
  ∀ (s : State) (c : Instr), (c = .ifReset ∧ hostUp s = true ∨ ∃ e, c = .hostInterfaceReset e) → Answers (exec c s) fun t =>
    t.host.ringsEn = false ∧ t.host.msix = [] ∧ t.host.bme = s.host.bme ∧ t.traffic.samples = [] ∧
    (∀ n, (getSq t n).enable = false ∧ (getSq t n).active = false ∧ (getSq t n).head = 0 ∧ (getSq t n).tail = 0) ∧
    (∀ n, (getCq t n).enable = false ∧ (getCq t n).active = false ∧ (getCq t n).head = 0 ∧ (getCq t n).tail = 0 ∧
      (getCq t n).reserved = 0 ∧ (getCq t n).waiting = []) ∧
    t.host.sample.enable = false ∧ t.host.sample.head = 0 ∧ t.host.sample.tail = 0 ∧
    t.perf.enable = false ∧ t.perf.head = 0 ∧ t.perf.tail = 0 ∧ t.perf.waitRec = none ∧
    t.host.outstanding = s.host.outstanding.map (fun x => { x with dead := true }) ∧
    t.boot.attBusy = false ∧ t.boot.staging = none ∧ t.host.writeHold = [] ∧
    (s.boot.staging ≠ none → t.boot.busy = false ∧ t.boot.result = 0x06 ∧ t.boot.lastOp = 1) ∧
    ChangesOnly [.host, .traffic, .perf, .pools, .boot, .blocked, .out] s t

/-! ## Row counters (R405, R406, R233) -/

/-- NOP (R399), ROW_READ (R405), PROGRAM_QUERY (R128) and SETTING_READ (R411): a taken command without reserved fields set
completes with OK and what it reads, and changes nothing else. Completes: nop, rowRead, programQuery, settingRead. -/
def Obligations.ReadCommandsComplete : Prop :=
  ∀ (s : State) (sq : BitVec 8) (d : Desc),
    (Taken s sq d 0x00 → dRsvdOk d [] = true → exec (.nop sq (.read d)) s = .next (ok (tokOf s sq d) 0 [] (taking s sq d))) ∧
    (Taken s sq d 0x40 → dRsvdOk d [(8, 2)] = true →
      exec (.rowRead sq d) s = .next (ok (tokOf s sq d) (rowValue s (field d 8 2)) [] (taking s sq d))) ∧
    (Taken s sq d 0x03 → dRsvdOk d [(8, 1)] = true → field d 8 1 < 64 →
      let q := getSlot s (field d 8 1)
      exec (.programQuery sq d) s = .next (ok (tokOf s sq d)
        (match q.image with
          | some i => i.digest.toNat % 2 ^ 64
          | none => 0)
        (leBytes 2 (if q.image.isNone then 0 else if q.binds = 0 then 1 else 2) ++ leBytes 6 q.binds ++
          leBytes 8 (match q.image with | some i => imgTag i | none => 0) ++
          leBytes 1 (match q.image with | some i => bits (imgFlags i) 1 1 | none => 0)) (taking s sq d))) ∧
    (Taken s sq d 0x34 → dRsvdOk d [(8, 4)] = true → settingMapped (field d 8 4) = true →
      exec (.settingRead sq d) s = .next (ok (tokOf s sq d) (readSetting s (field d 8 4)) [] (taking s sq d)))

/-- R405, R406: ROW_ADD adds to its counter modulo 2⁶⁴ and to no other, completes the waiters that it meets, and completes with
the new value. -/
def Sys2Proof.Rules.rowAddRule : Prop :=
  ∀ (s : State) (sq : BitVec 8) (d : Desc), Taken s sq d 0x42 → dRsvdOk d [(8, 2), (16, 8)] = true →
    exec (.rowAdd sq d) s = .next (ok (tokOf s sq d) ((rowValue s (field d 8 2) + field d 16 8) % 2 ^ 64) []
      (addRow (field d 8 2) (field d 16 8) (taking s sq d))) ∧
    Answers (exec (.rowAdd sq d) s) fun t =>
      (∀ m, rowValue t m =
        if m = field d 8 2 then (rowValue s m + field d 16 8) % 2 ^ 64 else rowValue s m) ∧
      (s.rows.hostW = [] → s.rows.epW = [] →
        t = ok (tokOf s sq d) ((rowValue s (field d 8 2) + field d 16 8) % 2 ^ 64) []
          (setRow (field d 8 2) (rowValue s (field d 8 2) + field d 16 8) (taking s sq d))) ∧
      t.groups = s.groups ∧ t.skein = s.skein ∧ t.slots = s.slots ∧ t.flash = s.flash ∧ t.course = s.course ∧
      t.pending = s.pending

/-- R406: ROW_WAIT completes at once with `met` = 1 and the value where the value is at or above the threshold; it waits
where the value is below and fewer than 4,096 host waiters are held; else it completes with FULL. -/
def Sys2Proof.Rules.rowWaitRule : Prop :=
  ∀ (s : State) (sq : BitVec 8) (d : Desc), Taken s sq d 0x41 → dRsvdOk d [(8, 2), (16, 8)] = true →
    let n := field d 8 2
    let thr := field d 16 8
    let u := taking s sq d
    (thr ≤ rowValue s n → exec (.rowWait sq d) s = .next (ok (tokOf s sq d) (rowValue s n) [1] u)) ∧
    (rowValue s n < thr → s.rows.hostW.length < 4096 →
      exec (.rowWait sq d) s = .next { u with rows := { s.rows with hostW := s.rows.hostW ++
        [{ tok := tokOf s sq d, row := BitVec.ofNat 16 n, threshold := BitVec.ofNat 64 thr }] } }) ∧
    (rowValue s n < thr → 4096 ≤ s.rows.hostW.length →
      exec (.rowWait sq d) s = .next (complete (tokOf s sq d) 1 9 0 [] u))

/-- R406, R233: every increment of a counter completes the host waiters that its new value has reached, oldest first, with OK, `met`
1 and that value, then sends ROW_NOTIFY with it to the endpoint waiters that it has reached; it keeps the others in order, and moves
no other counter's waiters. -/
def Sys2Proof.Rules.rowWakesRule : Prop :=
  ∀ (s : State) (n inc : Nat),
    let v := (rowValue s n + inc) % 2 ^ 64
    let reached (row : BitVec 16) (threshold : BitVec 64) : Bool := row.toNat == n && decide (threshold.toNat ≤ v)
    let left : State := { s with rows := { (setRow n v s).rows with
      hostW := s.rows.hostW.filter fun w => !reached w.row w.threshold
      epW := s.rows.epW.filter fun w => !reached w.row w.threshold } }
    let notify (w : EpWaiter) : Packet := ctlPacket 0x45 2 w.src.toNat (modAddr s.label)
      [(6, 1, 0), (8, 2, n), (12, 4, w.tag.toNat), (16, 8, v)]
    addRow n inc s = forEach (s.rows.epW.filter fun w => reached w.row w.threshold) (fun w => sendCtl (notify w))
      (forEach (s.rows.hostW.filter fun w => reached w.row w.threshold) (fun w => complete w.tok 0 0 v [1]) left) ∧
    (addRow n inc s).rows.hostW = s.rows.hostW.filter (fun w => !reached w.row w.threshold) ∧
    (addRow n inc s).rows.epW = s.rows.epW.filter (fun w => !reached w.row w.threshold) ∧
    (∀ w ∈ s.rows.hostW, reached w.row w.threshold = true → ∀ x ∈ (addRow n inc s).host.outstanding, x.id ≠ w.tok.id) ∧
    ∀ m, rowValue (addRow n inc s) m = if m = n then v else rowValue s m

/-- R405, R406: the row counters and their waiters. Completes: rowAdd, rowWait. -/
def Obligations.RowCounterRules : Prop := Rules.rowAddRule ∧ Rules.rowWaitRule ∧ Rules.rowWakesRule

/-- R233: an endpoint's ROW_WAIT on a counter of a group active or binding off here of which it is a member is answered at once by ROW_NOTIFY
with the value, or waits while fewer than 16,384 do; one on any other counter is answered NO_ACCESS, and one too many
WAIT_FULL. Completes: rowWaitPkt. -/
def Obligations.EndpointRowWait : Prop :=
  ∀ (s : State) (p : Packet),
    let row := field p.hdr 8 2
    let tag := field p.hdr 12 4
    let thr := field p.hdr 16 8
    let u := consume p s
    (mayNameRow s (pSrc p) row = true → thr ≤ rowValue s row →
      exec (.rowWaitPkt p) s = .next (rowNotify (pSrc p) row tag 0 (rowValue s row) u)) ∧
    (mayNameRow s (pSrc p) row = true → rowValue s row < thr → s.rows.epW.length < 16384 →
      exec (.rowWaitPkt p) s = .next { u with rows := { s.rows with epW := s.rows.epW ++
        [{ src := BitVec.ofNat 16 (pSrc p), row := BitVec.ofNat 16 row, tag := BitVec.ofNat 32 tag
           threshold := BitVec.ofNat 64 thr }] } }) ∧
    (mayNameRow s (pSrc p) row = true → rowValue s row < thr → 16384 ≤ s.rows.epW.length →
      exec (.rowWaitPkt p) s = .next (rowNotify (pSrc p) row tag 6 0 u)) ∧
    (mayNameRow s (pSrc p) row = false → exec (.rowWaitPkt p) s = .next (rowNotify (pSrc p) row tag 5 0 u))

/-! ## Program store (R97, R127, R128) -/

/-- R127, R128: PROGRAM_LOAD of an image that passes every check, or of a library program, replaces the image of a slot that
is not BOUND and completes with the first 8 bytes of its SHA-512 digest; PROGRAM_CLEAR empties such a slot. -/
def Sys2Proof.Rules.slotsChangeRule : Prop :=
  ∀ (s : State) (sq : BitVec 8) (d : Desc) (h : HostRead),
    let n := field d 8 1
    let u := taking s sq d
    let put (i : Image) : State := ok (tokOf s sq d) (i.digest.toNat % 2 ^ 64) [] (updSlot n (fun q => { q with image := some i }) u)
    (getSlot s n).binds = 0 →
    (Taken s sq d 0x01 → loadDescOk d = true → field d 9 1 = 1 →
      exec (.programLoad sq d h) s = .next (put (sealImage (libImage (field d 10 1))))) ∧
    (∀ bs, Taken s sq d 0x01 → loadDescOk d = true → field d 9 1 = 0 → hostRead s (field d 16 8) (field d 12 4) h = some bs →
      checkImage bs false = 0 →
      exec (.programLoad sq d h) s = .next (put (sealImage (imgOfBytes bs)))) ∧
    (Taken s sq d 0x02 → dRsvdOk d [(8, 1)] = true → n < 64 →
      exec (.programClear sq d) s = .next (ok (tokOf s sq d) 0 [] (updSlot n (fun q => { q with image := none }) u)))

/-- R128, R130: PROGRAM_LOAD and PROGRAM_CLEAR never change a BOUND slot, nor any slot but the one named. -/
def Sys2Proof.Rules.boundStaysRule : Prop :=
  ∀ (s t : State) (sq : BitVec 8) (d : Desc) (h : HostRead),
    (exec (.programLoad sq d h) s = .next t ∨ exec (.programClear sq d) s = .next t) →
    (∀ m, (getSlot s m).binds ≠ 0 ∨ m ≠ field d 8 1 → getSlot t m = getSlot s m) ∧
    ChangesOnly [.host, .perf, .out, .blocked, .slots] s t

/-- R127, R128, R130: the program store. Completes: programLoad, programClear. -/
def Obligations.ProgramSlotRules : Prop := Rules.slotsChangeRule ∧ Rules.boundStaysRule

/-! ## Transactions and route banks (R242, R259 to R268) -/

/-- R264: TXN_BEGIN opens an empty transaction where none is held; TXN_WRITE of records that pass every check appends them
and changes no setting. -/
def Sys2Proof.Rules.txnBuffersRule : Prop :=
  ∀ (s : State) (sq : BitVec 8) (d : Desc) (h : HostRead),
    let u := taking s sq d
    (Taken s sq d 0x30 → dRsvdOk d [] = true → s.routing.txn = none →
      exec (.txnBegin sq d) s =
        .next (ok (tokOf s sq d) 0 [] { u with routing := { s.routing with txn := some { records := [], due := none } } })) ∧
    (Taken s sq d 0x30 → dRsvdOk d [] = true → s.routing.txn ≠ none →
      exec (.txnBegin sq d) s = .next (complete (tokOf s sq d) 1 2 0 [] u)) ∧
    ∀ recs bs, Taken s sq d 0x31 → dRsvdOk d [(8, 2), (16, 8)] = true → s.routing.txn = some { records := recs, due := none } →
      field d 8 2 ≤ 4096 → hostRead s (field d 16 8) (16 * field d 8 2) h = some bs →
      recordError recs.length (chunksOf 16 bs) = none →
      exec (.txnWrite sq d h) s = .next (ok (tokOf s sq d) 0 [] { u with routing := { s.routing with
        txn := some
          { records := recs ++ (chunksOf 16 bs).map fun r => (BitVec.ofNat 32 (leAt r 0 4), BitVec.ofNat 64 (leAt r 8 8))
            due := none } } })

/-- Addresses whose records only store their value: no EPOCH_CTRL, BANK_ARM or REF_RELAY, and no entry of a DRAINING bank. -/
def plainRecord (s : State) (r : BitVec 32 × BitVec 64) : Prop :=
  r.1.toNat ≠ 0x20001 ∧ r.1.toNat ≠ 0x20002 ∧ r.1.toNat ≠ 0x51000 ∧
  (isRouteAddr r.1.toNat = true → bankState s (routeBank r.1.toNat) ≠ .draining)

/-- The last value that records write to an address. -/
def lastValue (recs : List (BitVec 32 × BitVec 64)) (a v : Nat) : Nat :=
  recs.foldl (fun v r => if r.1.toNat = a then r.2.toNat else v) v

/-- R259, R261, R266, Table 13.25: what one record in force does. An entry of a DRAINING bank refuses; EPOCH_CTRL keeps its value
without `switch`, which switches epochs; BANK_ARM acts bit by bit and stores nothing; REF_RELAY sets the reference lanes and stores
nothing; any other address holds its value. -/
def Sys2Proof.Rules.recordRule : Prop :=
  ∀ (s : State) (a v : Nat),
    (isRouteAddr a = true →
      (bankState s (routeBank a) = .draining → applyRecord a v s = .inl (0x07, a)) ∧
      (bankState s (routeBank a) ≠ .draining → applyRecord a v s = .inr (writeSetting a (BitVec.ofNat 64 v) s))) ∧
    (let held := writeSetting 0x20001 (BitVec.ofNat 64 (v - v % 2)) s
     (bit v 0 = false → applyRecord 0x20001 v s = .inr held) ∧
     (bit v 0 = true → applyRecord 0x20001 v s = ((switchEpoch held).map .inr).getD (.inl (0x08, 0x20001)))) ∧
    (let act (k : Nat) (r : (Nat × Nat) ⊕ State) : (Nat × Nat) ⊕ State :=
       r.elim .inl fun t => if bit v k then armBit k t else .inr t
     applyRecord 0x20002 v s = act 3 (act 2 (act 1 (act 0 (.inr s))))) ∧
    (∃ t, applyRecord 0x51000 v s = .inr t ∧ ChangesOnly [.clock, .host, .out, .blocked] s t ∧ t.clock.onAlt = false ∧
      bits t.clock.refCtrl.toNat 17 13 = bits v 4 0 ∧ bit t.clock.refCtrl.toNat 18 = bit v 5 ∧
      bits t.clock.refCtrl.toNat 23 19 = bits v 10 6 ∧
      ∀ k, k < 13 ∨ 24 ≤ k → t.clock.refCtrl.getLsbD k = s.clock.refCtrl.getLsbD k) ∧
    (a ≠ 0x20001 → a ≠ 0x20002 → a ≠ 0x51000 → isRouteAddr a = false → ∃ t, applyRecord a v s = .inr t ∧
      ∀ b, setting t b = if b = a then v % 2 ^ 64 else setting s b)

/-- R265, R266, R268: COMMIT is refused where no transaction is open, where one is pending already, and where its time is further
than 2⁴⁰ ticks ahead, when the transaction stays; one that fails a check, when it is accepted or at its tick, discards the
transaction with the check's detail (and for ESC_ORDER the address) and changes no setting. A commit in force has every record take
effect in record order, so a later record to one address overrides an earlier one and no other setting changes; a new epoch frees the
held packets that it routes; the transaction is over, and the COMMIT completes. A COMMIT with a later time waits for its tick, at which
TXN_COMMIT_TICK does the same; before it that does nothing. A DRAINING bank whose time has come retires first (R260). -/
def Sys2Proof.Rules.txnCommitsRule : Prop :=
  let failed (t0 : Tok) (e : Nat × Nat) (v : State) : State :=
    complete t0 1 e.1 (if e.1 = 0x06 then e.2 else 0) [] { v with routing := { v.routing with txn := none } }
  let commits (recs : List (BitVec 32 × BitVec 64)) (t0 : Tok) (v : State) (o : Host.Outcome State Fault Refusal) : Prop :=
    (∀ e, applyRecords recs (retireBank v) = .inl e → o = .next (failed t0 e (retireBank v))) ∧
    (∀ w, applyRecords recs (retireBank v) = .inr w →
      let done : State := { w with routing := { w.routing with txn := none } }
      o = .next (ok t0 0 [] (if newEpoch (retireBank v) w then retryHeld done else done))) ∧
    ((∀ r ∈ recs, plainRecord v r) → Answers o fun t =>
      t.routing.txn = none ∧ (∀ a, setting t a = lastValue recs a (setting v a)) ∧ ∀ x ∈ t.host.outstanding, x.id ≠ t0.id)
  (∀ (s : State) (sq : BitVec 8) (d : Desc), Taken s sq d 0x32 → dRsvdOk d [(16, 8)] = true →
    let u := taking s sq d
    let t0 := tokOf s sq d
    let time := field d 16 8
    (s.routing.txn = none → exec (.txnCommit sq d) s = .next (complete t0 1 1 0 [] u)) ∧
    (∀ recs p, s.routing.txn = some { records := recs, due := some p } →
      exec (.txnCommit sq d) s = .next (complete t0 1 0x0A 0 [] u)) ∧
    ∀ recs, s.routing.txn = some { records := recs, due := none } →
      (fabricTime s + 2 ^ 40 < time → exec (.txnCommit sq d) s = .next (complete t0 1 9 0 [] u)) ∧
      (time ≤ fabricTime s + 2 ^ 40 →
        (∀ e, commitChecks recs u = some e → exec (.txnCommit sq d) s = .next (failed t0 e u)) ∧
        (commitChecks recs u = none → time ≤ fabricTime s → commits recs t0 u (exec (.txnCommit sq d) s)) ∧
        (commitChecks recs u = none → fabricTime s < time →
          exec (.txnCommit sq d) s = .next { u with routing := { s.routing with
            txn := some { records := recs, due := some (BitVec.ofNat 64 time, t0) } } }))) ∧
  ∀ (s : State) (recs : List (BitVec 32 × BitVec 64)) (time : BitVec 64) (t0 : Tok),
    s.routing.txn = some { records := recs, due := some (time, t0) } →
    (time.toNat ≤ fabricTime s → commits recs t0 s (exec .txnCommitTick s)) ∧
    (fabricTime s < time.toNat → exec .txnCommitTick s = .next s)

/-- R267: FROG discards an open transaction; a pending one only before its commit time, when the COMMIT that waits completes
with FROGGED before it; where none is held, or the one held has taken effect, it completes with NO_TXN.
A module reset discards any transaction. -/
def Sys2Proof.Rules.frogRule : Prop :=
  (∀ (s : State) (sq : BitVec 8) (d : Desc), Taken s sq d 0x33 → dRsvdOk d [] = true →
    let u := { taking s sq d with routing := { s.routing with txn := none } }
    (s.routing.txn = none → exec (.txnFrog sq d) s = .next (complete (tokOf s sq d) 1 1 0 [] (taking s sq d))) ∧
    (∀ recs, s.routing.txn = some { records := recs, due := none } →
      exec (.txnFrog sq d) s = .next (ok (tokOf s sq d) 0 [] u)) ∧
    (∀ recs time c, s.routing.txn = some { records := recs, due := some (time, c) } → fabricTime s < time.toNat →
      exec (.txnFrog sq d) s = .next (ok (tokOf s sq d) 0 [] (complete c 1 0x0B 0 [] u))) ∧
    (∀ recs time c, s.routing.txn = some { records := recs, due := some (time, c) } → time.toNat ≤ fabricTime s →
      exec (.txnFrog sq d) s = .next (complete (tokOf s sq d) 1 1 0 [] (taking s sq d)))) ∧
  ∀ (s : State) (code : Nat), (moduleReset code s).routing.txn = none

/-- R259, R261, R264 to R268: transactions, whole or not at all. Completes: txnBegin, txnWrite, txnCommit, txnCommitTick, txnFrog. -/
def Obligations.TransactionsCommitWhole : Prop :=
  Rules.txnBuffersRule ∧ Rules.recordRule ∧ Rules.txnCommitsRule ∧ Rules.frogRule

/-- R245, R261 and Table 8.7: one bit of BANK_ARM. `arm` takes a RETIRED bank to LOADED where every valid entry of it meets R245, and
is refused with ESC_ORDER and a failing entry's address where one does not; `disarm` takes a LOADED bank to RETIRED; in another state
of the bank either is refused with BANK_BUSY. -/
def Sys2Proof.Rules.armRule : Prop :=
  ∀ (s : State) (b : Bool),
    let arm := if b then 1 else 0
    (bankState s b ≠ .retired → armBit arm s = .inl (0x07, 0x20002)) ∧
    (bankState s b = .retired → badEntry s b = none → armBit arm s = .inr (setBank b .loaded s)) ∧
    (∀ a, bankState s b = .retired → badEntry s b = some a → armBit arm s = .inl (0x06, a)) ∧
    (bankState s b ≠ .loaded → armBit (arm + 2) s = .inl (0x07, 0x20002)) ∧
    (bankState s b = .loaded → armBit (arm + 2) s = .inr (setBank b .retired s)) ∧
    (badEntry s b = none ↔ ∀ q ∈ s.routing.settings, isRouteAddr q.1 = true → routeBank q.1 = b → bit q.2.toNat 63 = true →
      escOk s q.1 q.2.toNat = true) ∧
    (∀ a, badEntry s b = some a → ∃ v, (a, v) ∈ s.routing.settings ∧ isRouteAddr a = true ∧ routeBank a = b ∧
      bit v.toNat 63 = true ∧ escOk s a v.toNat = false) ∧
    ∀ st c, bankState (setBank b st s) c = if c = b then st else bankState s c

/-- R245: a valid entry meets the rule where its candidates name ports in use, its destination lies in the fabric, and its escape
port is a module port of the dimension that R244 names, or, within the module's own course, a dimension-0 port or the
endpoint's own; the module's own entry needs none. -/
def Sys2Proof.Rules.entryRule : Prop :=
  ∀ (s : State) (a v : Nat),
    let d := s.routing.dim.toNat
    let i := a % 0x10000
    let esc := getPort s (bits v 6 0)
    let t := i - 0x8000
    let home := bits v 62 52
    let inDim (k : Option Nat) : Prop := ∃ n, k = some n ∧ peEnable esc = true ∧ peModule esc = true ∧ peDim esc = n
    escOk s a v = true ↔
      (∀ k, k < 4 → let c := bits v (8 * k + 15) (8 * k + 8); bit c 7 = true → peEnable (getPort s (c % 128)) = true) ∧
      (0x8000 ≤ i → t < 2 ^ d ∧ (t ≠ s.label → inDim (escapeDim s.label t d))) ∧
      (i < 0x8000 → home < 2 ^ d ∧
        (home / 2 ≠ s.label / 2 → inDim (escapeDim (2 * (s.label / 2)) (2 * (home / 2)) d)) ∧
        (home / 2 = s.label / 2 → inDim (some 0) ∨ peEnable esc = true ∧ peModule esc = false ∧ pePeer esc = i))

/-- R259, R260: an epoch switch makes the incoming bank CURRENT, the former CURRENT bank, if any, DRAINING, and the incoming
bank's number the epoch; with a bank CURRENT the other must be LOADED, and with none exactly one bank; else, and while a bank is
DRAINING, it fails. BANK_RETIRE retires the DRAINING bank once no packet of its epoch is resident and `drain_min` has passed, or
`drain_max` has. -/
def Sys2Proof.Rules.epochsRule : Prop :=
  (∀ (s : State) (v : Nat) (b : Bool), bit v 0 = true → bankState s b = .current → bankState s (!b) = .loaded →
    ∃ t, applyRecord 0x20001 v s = .inr t ∧ bankState t (!b) = .current ∧ bankState t b = .draining ∧
      t.routing.epoch = (!b) ∧ t.routing.drainAt = s.clock.now) ∧
  (∀ (s : State) (v : Nat) (b : Bool), bit v 0 = true → bankState s b = .loaded → bankState s (!b) = .retired →
    ∃ t, applyRecord 0x20001 v s = .inr t ∧ bankState t b = .current ∧ bankState t (!b) = .retired ∧ t.routing.epoch = b) ∧
  (∀ (s : State) (v : Nat), bit v 0 = true →
    (∃ b, bankState s b = .draining) ∨ (∃ b, bankState s b = .current ∧ bankState s (!b) ≠ .loaded) ∨
      (∀ b, bankState s b = .loaded) ∨ (∀ b, bankState s b = .retired) →
    applyRecord 0x20001 v s = .inl (0x08, 0x20001)) ∧
  ∀ (s : State) (b : Bool), drainingBank s = some b →
    let e := setting s 0x20001
    ((drainCount s = 0 ∧ bits e 39 8 ≤ since s s.routing.drainAt) ∨ bits e 63 40 * 1250 ≤ since s s.routing.drainAt →
      exec .bankRetire s = .next (setBank b .retired s)) ∧
    (¬ ((drainCount s = 0 ∧ bits e 39 8 ≤ since s s.routing.drainAt) ∨ bits e 63 40 * 1250 ≤ since s s.routing.drainAt) →
      exec .bankRetire s = .next s)

/-- R261: ROUTE_LOAD of an image whose entries are in range into a RETIRED bank gives every entry of the bank its value in the
image and changes no other setting; into another bank it is refused with BANK_BUSY. -/
def Sys2Proof.Rules.routeLoadRule : Prop :=
  ∀ (s : State) (sq : BitVec 8) (d : Desc) (h : HostRead) (bs : List Byte) (b : Bool),
    Taken s sq d 0x38 → dRsvdOk d [(8, 1), (16, 8)] = true → field d 8 1 = b2n b →
    (bankState s b = .retired → hostRead s (field d 16 8) 278528 h = some bs →
      (∀ i, i < 34816 → settingOk (imageAddr b i) (leAt bs (8 * i) 8) = true) →
      Answers (exec (.routeLoad sq d h) s) fun t =>
        (∀ i, i < 34816 → setting t (imageAddr b i) = leAt bs (8 * i) 8) ∧
        (∀ a, (a < imageAddr b 0 ∨ imageAddr b 34816 ≤ a) → setting t a = setting s a) ∧
        (∀ c, bankState t c = bankState s c)) ∧
    (bankState s b ≠ .retired → exec (.routeLoad sq d h) s = .next (complete (tokOf s sq d) 1 7 0 [] (taking s sq d)))

/-- R245, R259 to R261: route banks, their arming and disarming, and epochs. Completes: bankRetire, routeLoad. -/
def Obligations.RouteBanksAndEpochs : Prop := Rules.armRule ∧ Rules.entryRule ∧ Rules.epochsRule ∧ Rules.routeLoadRule

/-! ## Boot, firmware update and attestation (chapter 14) -/

/-- R419: RESET_RELEASE of a powered module whose boot control record names no trial. Where the preferred slot verifies, its
image runs: `fw_ready`, `prot_locked`, 256 FIRMWARE hanks and the five library programs are there. Where only the other
slot verifies, that one runs and `fell_back` is set. Where neither does, the module is in reset-hold and asserts
SMB_ALERT_N. Completes: resetRelease. -/
def Obligations.BootStartsAVerifiedSlot : Prop :=
  ∀ s : State,
    let c := (bootControl s.flash).1
    let good (b : Bool) : Prop := verifyImage s.flash c.floor.toNat (flashSlot s.flash b) = 0
    let runs (b fell : Bool) (t : State) : Prop :=
      t.boot.life = .running ∧ t.boot.stage = 2 ∧ t.boot.slot = b ∧ t.boot.fellBack = fell ∧ t.boot.trial = false ∧
      t.boot.build = BitVec.ofNat 32 (imgFwBuild (flashSlot s.flash b)) ∧ t.boot.prot = (protInForce s.flash).1 ∧
      t.boot.protLocked = true ∧ t.host.fwReady = true ∧
      (∀ j, j < 256 → hankState t (firmwareHank s.config.skeins j) = .firmware) ∧
      (∀ k, k < 5 → ∃ i, (getSlot t k).image = some i ∧ i.words = (libImage k).words) ∧ t.flash = s.flash
    s.boot.life = .inReset → s.power.pwrgd = true → (c.trialSlot = 0xFF ∨ c.trialTries = false) →
    (good c.preferred → Answers (exec .resetRelease s) (runs c.preferred false)) ∧
    (¬ good c.preferred → good (!c.preferred) → Answers (exec .resetRelease s) (runs (!c.preferred) true)) ∧
    (¬ good c.preferred → ¬ good (!c.preferred) → Answers (exec .resetRelease s) fun t =>
      t.boot.life = .resetHold ∧ t.boot.stage = 3 ∧ t.power.smbAlert = true ∧ t.host.fwReady = s.host.fwReady)

/-- R420, R414 and Table 14.6: STAGE reads the image from host memory and is busy; PROTECT of an accepted block writes the
copy not in force; a write while `busy` sets `overrun` alone; in reset-hold the operations other than STAGE and SELECT end
with BAD_HEADER; and with neither firmware nor boot ROM running none does anything. -/
def Sys2Proof.Rules.stageProtectRule : Prop :=
  ∀ (s : State) (v : BitVec 64) (h : HostRead) (bs : List Byte),
    let u := fwFields v.toNat s
    let slot := bit v.toNat 8
    (s.boot.busy = false → (s.boot.life = .running ∧ s.boot.slot ≠ slot ∨ s.boot.life = .resetHold) → hostOk s = true →
      hostRead s s.boot.fwAddr.toNat (bits v.toNat 55 32) h = some bs → bits v.toNat 55 32 = 256 + imgBodyLen bs →
      exec (.stage v h) s = .next { u with boot := { u.boot with
        busy := true, lastOp := 1, staging := some { slot := slot, bytes := bs, phase := .verify } } }) ∧
    (s.boot.busy = false → s.boot.life = .running → s.boot.slot = slot →
      exec (.stage v h) s = .next (fwResult 1 8 u) ∧ exec (.trial v) s = .next (fwResult 2 8 u) ∧
      exec (.select v) s = .next (fwResult 4 8 u)) ∧
    (s.boot.busy = false → s.boot.life = .running → hostOk s = true → hostRead s s.boot.fwAddr.toNat 4096 h = some bs →
      protChecks s.flash.identity.serial bs = true → s.boot.protSrc = 1 → protGen s.boot.prot < protGen bs →
      protSigner bs < leAt s.boot.prot 8 1 → protSigned bs (protKey s.boot.prot (protSigner bs)) = true →
      exec (.protect v h) s = .next (fwResult 5 0 { u with flash := { s.flash with prot1 := bs } })) ∧
    (s.boot.busy = true → hostUp s = true →
      exec (.stage v h) s = .next { s with boot := { s.boot with overrun := true } }) ∧
    (s.boot.busy = false → s.boot.life = .resetHold →
      exec (.trial v) s = .next (fwResult 2 2 u) ∧ exec (.commit v) s = .next (fwResult 3 2 u) ∧
      exec (.protect v h) s = .next (fwResult 5 2 u)) ∧
    (hostUp s = false →
      exec (.stage v h) s = .next s ∧ exec (.trial v) s = .next s ∧ exec (.commit v) s = .next s ∧
      exec (.select v) s = .next s ∧ exec (.protect v h) s = .next s)

/-- R420 and Table 14.6: the parts of a STAGE, one in each tick (the model's own choice, log entry 8). The image is verified,
its slot erased and written, and what was written verified again; a failed verification or a failing flash ends it with its
result. While the flash does not fail, an image that verifies is the slot's after the fourth part, with the result OK. -/
def Sys2Proof.Rules.stageRunsRule : Prop :=
  ∀ (s : State) (g : Staging), s.boot.staging = some g →
    let floor := (bootControl s.flash).1.floor.toNat
    let slotIs (bs : List Byte) : Flash := if g.slot then { s.flash with slotB := bs } else { s.flash with slotA := bs }
    let code := verifyImage s.flash floor g.bytes
    let ends (r : Nat) (t : State) : Prop :=
      t.boot.busy = false ∧ t.boot.staging = none ∧ t.boot.result = BitVec.ofNat 8 r ∧ t.boot.lastOp = 1
    ChangesOnly [.flash, .boot] s (stageStep s) ∧
    (g.phase = .verify → (stageStep s).flash = s.flash ∧ (code ≠ 0 → ends code (stageStep s))) ∧
    (g.phase = .erase → (stageStep s).flash = slotIs []) ∧
    (g.phase = .write → if Config.flashFails s.clock.now then (stageStep s).flash = s.flash ∧ ends 7 (stageStep s)
      else (stageStep s).flash = slotIs g.bytes) ∧
    (g.phase = .check → if Config.flashFails s.clock.now then (stageStep s).flash = slotIs [] ∧ ends 7 (stageStep s)
      else (stageStep s).flash = s.flash) ∧
    (g.phase = .verify → code = 0 →
      let t := stageStep (stageStep (stageStep (stageStep s)))
      if Config.flashFails s.clock.now then t.flash = slotIs [] ∧ ends 7 t else t.flash = slotIs g.bytes ∧ ends 0 t)

/-- R415 and Table 14.6: TRIAL, SELECT and COMMIT write a new boot control record with its CRC-32C, in force from then on, and
no image. -/
def Sys2Proof.Rules.bootControlsRule : Prop :=
  ∀ (s : State) (v : BitVec 64),
    let c := (bootControl s.flash).1
    let slot := bit v.toNat 8
    let inForce (r : BootControl) (t : State) : Prop :=
      (bootControl t.flash).1 = sealControl { r with generation := c.generation + 1 } ∧ t.boot.result = 0 ∧
      t.flash.slotA = s.flash.slotA ∧ t.flash.slotB = s.flash.slotB ∧ t.flash.identity = s.flash.identity ∧
      ChangesOnly [.flash, .boot] s t
    s.boot.busy = false → s.boot.life = .running → c.generation ≠ BitVec.allOnes 32 →
    (s.boot.slot ≠ slot → verifyImage s.flash c.floor.toNat (flashSlot s.flash slot) = 0 →
      Answers (exec (.trial v) s) (inForce { c with trialSlot := if slot then 1 else 0, trialTries := true }) ∧
      Answers (exec (.select v) s) (inForce { c with preferred := slot, trialSlot := 0xFF, trialTries := false })) ∧
    (s.boot.trial = true → (bit v.toNat 63 = true → c.floor ≤ s.boot.security) →
      Answers (exec (.commit v) s) (inForce { c with
        preferred := s.boot.slot, trialSlot := 0xFF, trialTries := false
        floor := if bit v.toNat 63 then s.boot.security else c.floor }))

/-- Table 14.10: the first 192 bytes of an attestation report and its signature. -/
def Sys2Proof.Rules.isReport (s : State) (bs : List Byte) : Prop :=
  let i := s.flash.identity
  let b := s.boot
  let at' (o n : Nat) : List Byte := (bs.drop o).take n
  bs.length = 256 ∧ at' 0 2 = [1, 0] ∧ at' 2 1 = [BitVec.ofNat 8 (b2n b.slot)] ∧ at' 3 1 = leBytes 1 i.config.code ∧
  at' 4 1 = [BitVec.ofNat 8 (b2n i.gradeH)] ∧ at' 5 1 = [0x11] ∧
  at' 6 2 = [BitVec.ofNat 8 (b2n b.trial + 2 * b2n b.fellBack), 0] ∧ at' 8 8 = leBytes 8 i.serial.toNat ∧
  at' 16 4 = leBytes 4 b.build.toNat ∧ at' 20 4 = leBytes 4 b.security.toNat ∧
  at' 24 8 = leBytes 8 (if s.clock.timeValid then fabricTime s else 0) ∧ at' 32 32 = leBytes 32 b.nonce.toNat ∧
  at' 64 64 = leBytes 64 b.digest.toNat ∧
  at' 128 64 = (if b.prot = [] then List.replicate 64 0 else sha512 b.prot) ∧
  at' 192 64 = edSign i.seed (bs.take 192)

/-- R427, R426: ATTEST_GO starts a report over the nonce, and the next tick fills ATTEST_REPORT as Table 14.10 has it and sets
`done`; without a valid identity it sets `att_err` and signs nothing; where no firmware runs, or a report is in progress, it does
nothing, and a write of ATTEST_NONCE neither. That a report takes one tick is the
model's choice (log entry 8). -/
def Sys2Proof.Rules.attestRule : Prop :=
  (∀ (s : State) (v : BitVec 32),
    (bit v.toNat 0 = false → exec (.attestGo v) s = .next s) ∧
    (bit v.toNat 0 = true →
      (s.boot.life = .running → s.boot.attBusy = false → s.boot.idValid = true →
        exec (.attestGo v) s = .next { s with boot := { s.boot with attBusy := true, attDone := false, attErr := false } }) ∧
      (s.boot.life = .running → s.boot.attBusy = false → s.boot.idValid = false →
        exec (.attestGo v) s = .next { s with boot := { s.boot with attDone := false, attErr := true } }) ∧
      (s.boot.life ≠ .running ∨ s.boot.attBusy = true → exec (.attestGo v) s = .next s))) ∧
  (∀ s : State, s.pending = [] →
    (s.boot.attBusy = true → Answers (step s) fun t =>
      Rules.isReport s t.boot.report ∧ t.boot.attBusy = false ∧ t.boot.attDone = true ∧ t.boot.nonce = s.boot.nonce) ∧
    (s.boot.attBusy = false → Answers (step s) fun t =>
      t.boot.report = s.boot.report ∧ t.boot.attBusy = false ∧ t.boot.attDone = s.boot.attDone)) ∧
  ∀ (s : State) (k : Nat) (w : BitVec 64), k < 8 → hostUp s = true →
    let o := BitVec.ofNat 26 (0x700200 + 4 * k)
    (s.boot.attBusy = true → exec (.registerWrite (.bar0 o) .b32 w) s = .next s) ∧
    (s.boot.attBusy = false → Answers (exec (.registerWrite (.bar0 o) .b32 w) s) fun t =>
      ChangesOnly [.boot] s t ∧ ∀ j, t.boot.nonce.getLsbD j =
        if 32 * k ≤ j ∧ j < 32 * k + 32 then w.getLsbD (j - 32 * k) else s.boot.nonce.getLsbD j)

/-- R414, R415, R420, R423, R426, R427: what firmware update writes in flash, and attestation. Completes: stage, trial, commit, select,
protect, attestGo. -/
def Obligations.FlashUpdateRules : Prop :=
  Rules.stageProtectRule ∧ Rules.stageRunsRule ∧ Rules.bootControlsRule ∧ Rules.attestRule

/-! ## Resets, power and the management port (chapter 16) -/

/-- R418, R443, R444 and Table 14.3: each cause of a reset takes everything but the flash and the pins to its reset value, the boot
registers and PWR_CFG, the droop and the throttles among it, and is kept in `last_reset`; of two causes in one tick the lower code
stands. That the pins, what has been driven, the waiting commands and `therm_trip` are kept is the model's reading (log entry 59). The
flash stays as it is but for the slot that a STAGE was filling (R420), which is left erased (the model's choice, log entry 8). The
watchdog waits 10 ms for each core (R20). -/
def Sys2Proof.Rules.resetCausesRule : Prop :=
  (∀ s : State, (s.boot.staging = none → resetFlash s = s.flash) ∧
    ∀ g, s.boot.staging = some g → resetFlash s = if g.slot then { s.flash with slotB := [] } else { s.flash with slotA := [] }) ∧
  (∀ (s : State) (k : BitVec 2), serviceMissed s k.toNat = false → exec (.watchdogExpiry k) s = .next s) ∧
  ∀ (s : State) (c : Instr) (code : BitVec 8),
    s.boot.life = .running →
    (c = .moduleReset ∧ code = 3 ∨ (∃ k, c = .watchdogExpiry k ∧ serviceMissed s k.toNat = true) ∧ code = 4 ∨
      c = .headstockSramError ∧ code = 5 ∨ c = .resetNLow ∧ code = 2 ∨ c = .coreRailFault ∧ code = 7 ∨ c = .pwrgdFall ∧ code = 1 ∨
      (∃ vin : BitVec 16, c = .inputOutOfRange vin ∧ (vin.toNat < 4000 ∨ 5800 < vin.toNat)) ∧ code = 1) →
    Answers (exec c s) fun t =>
      AtReset t ∧ t.flash = resetFlash s ∧ t.out = s.out ∧ t.pending = s.pending ∧ t.boot.life ≠ .running ∧
      t.boot.life ≠ .resetHold ∧ t.power.thermTrip = s.power.thermTrip ∧ t.power.smbAddr = s.power.smbAddr ∧
      t.power.pwrgd = (s.power.pwrgd && c != .pwrgdFall) ∧ t.power.resetN = (s.power.resetN && c != .resetNLow) ∧
      (s.boot.justReset = false → t.boot.lastReset = code) ∧
      (s.boot.justReset = true → t.boot.lastReset = if s.boot.lastReset < code then s.boot.lastReset else code)

/-- R443, R444, R449 and Table 16.2: PWRGD_FALL turns every rail off, with SMB_ALERT_N at high impedance; after PWRGD_RISE the module
awaits reset release with cause 1 and no `therm_trip`, and its rails come up: they are in regulation 8 ms later; a low RESET_N during
that time, or while the rails are off, only delays reset release. -/
def Sys2Proof.Rules.powerPinsRule : Prop :=
  ∀ s : State,
    (Answers (exec .pwrgdFall s) fun t => t.boot.life = .off ∧ t.power.pwrgd = false ∧ t.power.railsGood = false ∧
      t.power.smbAlert = false) ∧
    (s.boot.life = .off → Answers (exec .pwrgdRise s) fun t =>
      AtReset t ∧ t.boot.life = .inReset ∧ t.boot.lastReset = 1 ∧ t.power.pwrgd = true ∧ t.power.railsGood = false ∧
      t.power.thermTrip = false ∧ t.power.smbAlert = false ∧ t.flash = resetFlash s ∧ t.pending = s.pending) ∧
    (s.boot.life ≠ .off → s.power.pwrgd = true → exec .pwrgdRise s = .next s) ∧
    (s.boot.life = .off ∨ s.boot.life = .inReset ∧ s.power.railsGood = false →
      exec .resetNLow s = .next { s with power := { s.power with resetN := false } }) ∧
    (s.boot.life ≠ .tripped → s.boot.life ≠ .off → Answers (exec .resetNLow s) fun t =>
      t.boot.life = .inReset ∧ t.power.resetN = false) ∧
    (s.pending = [] → s.boot.life = .inReset → s.power.pwrgd = true → s.power.railsGood = false → Answers (step s) fun t =>
      t.boot.life = .inReset ∧ t.power.railsGood = decide (10000000 ≤ s.clock.now) ∧ t.clock.now = s.clock.now + 1)

/-- R418, R443, R444, R449: resets and the power pins. Completes: moduleReset, watchdogExpiry, headstockSramError,
resetNLow, coreRailFault, pwrgdFall, inputOutOfRange, pwrgdRise. -/
def Obligations.ResetCauses : Prop := Rules.resetCausesRule ∧ Rules.powerPinsRule

/-- R445, R446: a droop is counted once, at its beginning, sets input 4 of the health risk estimate, engages the droop
throttle and posts its events; it ends above `droop_cv` + 0.5 V, and 100 µs later the throttle releases. -/
def Sys2Proof.Rules.droopsRule : Prop :=
  ∀ (s : State) (x : BitVec 16),
    let begun : State := { s with
      power := { s.power with droops := satInc s.power.droops, drooping := true, droopThr := true }
      course := { s.course with inputs := s.course.inputs.set 4 (s.course.inputs.getD 4 0 + 1) } }
    (s.power.drooping = false → x.toNat < s.power.droopCv.toNat → exec (.droopBegin x) s =
      .next (powerEvent 1 x.toNat (if s.power.droopThr then begun else powerEvent 2 4 begun))) ∧
    (s.power.drooping = true ∨ s.power.droopCv.toNat ≤ x.toNat → exec (.droopBegin x) s = .next s) ∧
    (s.power.drooping = true → s.power.droopCv.toNat + 50 < x.toNat →
      exec (.droopEnd x) s =
        .next { s with power := { s.power with drooping := false, droopEndAt := s.clock.now } }) ∧
    (x.toNat ≤ s.power.droopCv.toNat + 50 → exec (.droopEnd x) s = .next s) ∧
    (s.power.droopThr = true → s.power.drooping = false → 125000 ≤ s.clock.now - s.power.droopEndAt →
      exec .droopThrottleRelease s = .next (powerEvent 3 4 { s with power := { s.power with droopThr := false } })) ∧
    (s.clock.now - s.power.droopEndAt < 125000 → exec .droopThrottleRelease s = .next s)

/-- R446, R25, R22: the power throttle engages above the maximum of Table 0.1 and releases below it, the thermal throttle above
`tj_throttle` and 3 K below it; a rate below 1.2 G handshakes/s for 1 ms is reported, and is input 5 of the health risk
estimate; in the operating range the rate lies between 1.2 and 2.2 G handshakes/s, whatever its free value. -/
def Sys2Proof.Rules.throttlesRule : Prop :=
  ∀ (s : State) (w : BitVec 16) (t : BitVec 8) (r : BitVec 32),
    (s.power.powerThr = false → s.config.maxPower < w.toNat → exec (.powerThrottleEngage w) s =
      .next (powerEvent 2 1 { s with power := { s.power with powerThr := true } })) ∧
    (s.power.powerThr = true → w.toNat < s.config.maxPower → exec (.powerThrottleRelease w) s =
      .next (powerEvent 3 1 { s with power := { s.power with powerThr := false } })) ∧
    (s.power.thermThr = false → s.power.tjThrottle.toNat < t.toNat → exec (.thermalThrottleEngage t) s =
      .next (powerEvent 2 2 { s with power := { s.power with thermThr := true } })) ∧
    (s.power.thermThr = true → t.toNat + 3 ≤ s.power.tjThrottle.toNat → exec (.thermalThrottleRelease t) s =
      .next (powerEvent 3 2 { s with power := { s.power with thermThr := false } })) ∧
    (1000 ≤ s.perf.lowFor → r = s.perf.rateLast → exec (.rateLow r) s = .next (postEvent 6 r.toNat 0 [] { s with
      perf := { s.perf with lowFor := 0 }, course := { s.course with inputs := s.course.inputs.set 5 1 } })) ∧
    (s.perf.lowFor < 1000 ∨ r ≠ s.perf.rateLast → exec (.rateLow r) s = .next s) ∧
    (coreInRange s = true → 96 ≤ handshakeRate s ∧ handshakeRate s ≤ 176) ∧
    (s.power.railsGood = false → handshakeRate s = 0)

/-- R447, R449 and Table 16.3: a warning limit posts its POWER event and asserts SMB_ALERT_N, unless the rails are off; a trip limit resets the module with
cause 7 and holds it until every junction is 20 K below its trip limit, when it restarts from reset release. -/
def Sys2Proof.Rules.junctionRule : Prop :=
  ∀ (s : State) (part : Junction) (x a b c : BitVec 8),
    let warn := match part with | .compute => 105 | .bridge => 100 | .skein => 90
    let trip := match part with | .skein => 100 | _ => 110
    let no := match part with | .compute => 0 | .bridge => 1 | .skein => 2
    (warn ≤ x.toNat → s.boot.life ≠ .off → exec (.thermalWarning part x) s =
      .next (powerEvent 4 no { s with power := { s.power with smbAlert := true } })) ∧
    (x.toNat < warn ∨ s.boot.life = .off → exec (.thermalWarning part x) s = .next s) ∧
    (x.toNat < trip ∨ s.boot.life = .off → exec (.thermalTrip part x) s = .next s) ∧
    (trip ≤ x.toNat → s.boot.life ≠ .off → Answers (exec (.thermalTrip part x) s) fun t =>
      AtReset t ∧ t.boot.life = .tripped ∧ t.power.thermTrip = true ∧ t.power.smbAlert = true ∧
      (s.boot.justReset = false → t.boot.lastReset = 7) ∧ t.flash = resetFlash s) ∧
    (s.boot.life = .tripped → a.toNat ≤ 90 → b.toNat ≤ 90 → c.toNat ≤ 80 → s.power.pwrgd = true →
      Answers (exec (.thermalTripRecovery a b c) s) fun t =>
        t.power.railsGood = true ∧ t.power.thermTrip = s.power.thermTrip ∧
        (s.power.resetN = false → t.boot.life = .inReset) ∧
        (s.power.resetN = true → t.boot.life = .running ∨ t.boot.life = .resetHold)) ∧
    (90 < a.toNat ∨ 90 < b.toNat ∨ 80 < c.toNat → exec (.thermalTripRecovery a b c) s = .next s)

/-- R25, R445 to R447: droops, throttles, the rate, and the limits of the junctions. Completes: droopBegin, droopEnd,
droopThrottleRelease, powerThrottleEngage, powerThrottleRelease, thermalThrottleEngage, thermalThrottleRelease, rateLow,
thermalWarning, thermalTrip, thermalTripRecovery. -/
def Obligations.PowerAndThermalLimits : Prop := Rules.droopsRule ∧ Rules.throttlesRule ∧ Rules.junctionRule

/-- R451, R449 and Table 16.11: while PWRGD is high each management read answers its bytes, with their Packet Error Code, and STATUS
releases SMB_ALERT_N; a write to the port's address, 0x58 + SMB_ADDR[1:0], other than the command code of a read is NACKed (an empty
answer), and one to another address is not answered. While PWRGD is low nothing is. That a reading is the sensor's is the model's
choice (log entry 9), and the Packet Error Code is the standard's (PRESUMED, log entry 117). Completes: status, vin, iin, pin, tj,
boot, serial, info, build, smbusWrite. -/
def Obligations.ManagementReadsAnswer : Prop :=
  (∀ (s : State) (x : BitVec 16) (a b c : BitVec 8), s.power.pwrgd = true →
    let me := BitVec.ofNat 8 (2 * (0x58 + s.power.smbAddr.toNat))
    let reply (code : Byte) (count bs : List Byte) (u : State) : State := { u with out := { u.out with
      mgmt := u.out.mgmt ++ [bs], mgmtPec := u.out.mgmtPec ++ [crc8 ([me, code, me + 1] ++ count ++ bs)] } }
    let status := b2n s.power.railsGood +
      2 * b2n (s.boot.life == .inReset || s.boot.life == .tripped || s.boot.life == .off) +
      4 * b2n (s.boot.life == .resetHold) + 8 * b2n s.power.thermTrip +
      16 * b2n (s.power.droopThr || s.power.thermThr || s.power.powerThr)
    exec .status s =
      .next (reply 0x01 [] [BitVec.ofNat 8 status] { s with power := { s.power with smbAlert := false } }) ∧
    exec (.vin x) s = .next (reply 0x02 [] (leBytes 2 x.toNat) { s with power := { s.power with vin := x } }) ∧
    exec (.iin x) s = .next (reply 0x03 [] (leBytes 2 x.toNat) { s with power := { s.power with iin := x } }) ∧
    exec (.pin x) s = .next (reply 0x04 [] (leBytes 2 x.toNat) { s with power := { s.power with pin := x } }) ∧
    exec (.tj a b c) s =
      .next (reply 0x05 [3] [a, b, c] { s with power := { s.power with tjCompute := a, tjBridge := b, tjSkein := c } }) ∧
    exec .boot s = .next (reply 0x06 [4] [s.boot.stage.setWidth 8, s.boot.lastReset, s.boot.resultA, s.boot.resultB] s) ∧
    exec .serial s = .next (reply 0x07 [8] (leBytes 8 s.flash.identity.serial.toNat) s) ∧
    exec .info s = .next (reply 0x08 [8] (leBytes 8 (moduleInfo s)) s) ∧
    (s.boot.life = .running → exec .build s = .next (reply 0x09 [4] (leBytes 4 s.boot.build.toNat) s)) ∧
    (s.boot.life ≠ .running → exec .build s = .next (reply 0x09 [4] (leBytes 4 0) s)) ∧
    ∀ m : SmbusWrite,
      let mine : Prop := m.address.toNat = 0x58 + s.power.smbAddr.toNat
      let ofRead : Prop := 1 ≤ m.command.toNat ∧ m.command.toNat ≤ 9 ∧ m.data = []
      (mine → ¬ ofRead →
        exec (.smbusWrite m) s = .next { s with out := { s.out with mgmt := s.out.mgmt ++ [[]] } }) ∧
      (mine → ofRead → exec (.smbusWrite m) s = .next s) ∧ (¬ mine → exec (.smbusWrite m) s = .next s)) ∧
  ∀ (s : State) (m : SmbusWrite), s.power.pwrgd = false → ∀ c ∈ [Instr.status, .boot, .serial, .info, .build, .smbusWrite m],
    Answers (exec c s) fun t => t.out = s.out

/-! ## Performance counters and samples (chapter 15, R410) -/

/-- R434, R437: a write of PERF_SEL_n or PERF_ADDR_n with a permitted value is held, any other is ignored with `sel_err`;
PERF_DUMP_CTRL `enable` starts the dump ring where its fields are valid, and is refused with the code of Table 15.9
where one is not: that an interval out of range is 0x01, and which code several faults get, is the model's choice (log entry 112). A
ring that is enabled takes no new fields; without `enable` it stops. PERF_DUMP_HEAD takes its index. Completes: perfSelWrite, perfDumpEnable, perfDumpHeadWrite. -/
def Obligations.PerformanceRegisters : Prop :=
  ∀ (s : State) (n : BitVec 6) (v : BitVec 64), hostUp s = true →
    (selOk v.toNat = true → exec (.perfSelWrite n false v) s =
      .next { s with perf := { s.perf with heldSel := tins n.toNat v (tdel s.perf.heldSel n.toNat) } }) ∧
    (selOk v.toNat = false → exec (.perfSelWrite n false v) s = .next { s with perf := { s.perf with selErr := true } }) ∧
    (addrOk v.toNat = true → exec (.perfSelWrite n true v) s =
      .next { s with perf := { s.perf with heldAddr := tins n.toNat v (tdel s.perf.heldAddr n.toNat) } }) ∧
    (addrOk v.toNat = false → exec (.perfSelWrite n true v) s = .next { s with perf := { s.perf with selErr := true } }) ∧
    exec (.perfDumpHeadWrite v) s = .next { s with perf := { s.perf with head := BitVec.ofNat 16 v.toNat } } ∧
    (bit v.toNat 63 = true → s.perf.enable = false →
      let p := { s.perf with
        sections := BitVec.ofNat 7 (bits v.toNat 54 48 ||| 1), slotSize := BitVec.ofNat 6 (bits v.toNat 45 40)
        interval := BitVec.ofNat 20 (bits v.toNat 39 20), size := BitVec.ofNat 17 v.toNat }
      (ringSizeOk p.size.toNat = true → p.base ≠ 0 → 1 ≤ p.slotSize.toNat → p.slotSize.toNat ≤ 32 →
        recordLen p.sections.toNat ≤ p.slotSize.toNat * 4096 → 1 ≤ p.interval.toNat → p.interval.toNat ≤ 1000000 →
        exec (.perfDumpEnable v) s = .next { s with perf := { p with
          enable := true, active := true, err := 0, head := 0, tail := 0, dumpSeq := 0, missedRec := 0
          capture := none, waitRec := none
          lastDump := if s.clock.timeValid then BitVec.ofNat 64 (fabricTime s) else BitVec.allOnes 64 } }) ∧
      (ringSizeOk p.size.toNat = false →
        exec (.perfDumpEnable v) s = .next { s with perf := { p with err := 1 } }) ∧
      (ringSizeOk p.size.toNat = true → p.base = 0 →
        exec (.perfDumpEnable v) s = .next { s with perf := { p with err := 2 } }) ∧
      (ringSizeOk p.size.toNat = true → p.base ≠ 0 →
        p.slotSize = 0 ∨ 32 < p.slotSize.toNat ∨ p.slotSize.toNat * 4096 < recordLen p.sections.toNat →
        exec (.perfDumpEnable v) s = .next { s with perf := { p with err := 7 } }) ∧
      (ringSizeOk p.size.toNat = true → p.base ≠ 0 → 1 ≤ p.slotSize.toNat → p.slotSize.toNat ≤ 32 →
        recordLen p.sections.toNat ≤ p.slotSize.toNat * 4096 → p.interval = 0 ∨ 1000000 < p.interval.toNat →
        exec (.perfDumpEnable v) s = .next { s with perf := { p with err := 1 } })) ∧
    (bit v.toNat 63 = true → s.perf.enable = true → exec (.perfDumpEnable v) s = .next s) ∧
    (bit v.toNat 63 = false → s.perf.enable = true → exec (.perfDumpEnable v) s = .next { s with perf := { s.perf with
      enable := false, active := false, capture := none, waitRec := none } })

/-- R435 to R439: at a dump tick the record, taken as the tick began, goes into slot `tail`, bytes from 8 on first, and `tail`
advances; a write that fails stops the ring with its RING_ERROR event, whose ring number for it the manual does not give (a free value,
log entry 7). A tick is skipped where its slot is not released or the last record is not yet
written: it writes nothing and increments `missed` in PERF_DUMP_STATUS and in the next record. While host memory is closed the
record waits (the model's choice, log entry 112). Any other tick changes nothing. -/
def Sys2Proof.Rules.dumpsRule : Prop :=
  ∀ s : State,
    let bs := s.perf.capture.getD (dumpRecord (atDump s))
    let a := s.perf.base.toNat + s.perf.slotSize.toNat * 4096 * s.perf.tail.toNat
    let w := hostWrite a (bs.take 8) (hostWrite (a + 8) (bs.drop 8) s)
    (isDumpTick s = true → hostOk s = true → dumpRoom s = true → s.perf.waitRec = none →
      Answers (exec .dumpTick s) fun t =>
        (if Config.dumpWriteFails s.clock.now then
          (∃ v, v.out = s.out ∧ v.host.cqs = s.host.cqs ∧ t.out = (postEvent 0x0D Config.dumpRingName 4 (leBytes 4 0) v).out) ∧
          t.perf.active = false ∧ t.perf.err = 4 ∧ t.perf.tail = s.perf.tail
        else
          t.out = w.out ∧ t.boot.blocked = w.boot.blocked ∧
          (leAt s.boot.prot 6 1 = 0 → t.out.hostWrites = s.out.hostWrites ++ [(a + 8, bs.drop 8), (a, bs.take 8)]) ∧
          t.perf.tail.toNat = (s.perf.tail.toNat + 1) % s.perf.size.toNat % 65536 ∧ t.perf.active = s.perf.active) ∧
        t.perf.missedRec = 0 ∧ t.perf.missed = s.perf.missed ∧ t.perf.dumpSeq = s.perf.dumpSeq + 1) ∧
    (isDumpTick s = true → (s.perf.waitRec.isNone && dumpRoom s) = false → Answers (exec .dumpTick s) fun t =>
      t.out = s.out ∧ t.perf.missed = satInc s.perf.missed ∧ t.perf.missedRec = satInc s.perf.missedRec ∧
      t.perf.tail = s.perf.tail ∧ t.perf.dumpSeq = s.perf.dumpSeq + 1) ∧
    (isDumpTick s = true → hostOk s = false → dumpRoom s = true → s.perf.waitRec = none → Answers (exec .dumpTick s) fun t =>
      t.out = s.out ∧ t.perf.waitRec = some bs ∧ t.perf.tail = s.perf.tail ∧ t.perf.missed = s.perf.missed) ∧
    (isDumpTick s = false → exec .dumpTick s = .next s)

/-- R434, R436: as a dump tick begins its record is taken and the held selectors come into force with their counters cleared; the
slots, handshakes and needle bed stay as they are. -/
def Sys2Proof.Rules.captureRule : Prop :=
  ∀ s : State,
    (isDumpTick s = true →
      (takeRecord s).perf.capture = some (dumpRecord (atDump s)) ∧ isDumpTick (takeRecord s) = true ∧
      (takeRecord s).perf.heldSel = [] ∧ (takeRecord s).perf.heldAddr = [] ∧
      ∀ n v, s.perf.heldSel = [(n, v)] → s.perf.heldAddr = [] →
        (tget 0 (takeRecord s).perf.sel n : BitVec 64) = v ∧ (tget 0 (takeRecord s).perf.cnt n : BitVec 48) = 0) ∧
    (isDumpTick s = false → (takeRecord s).perf.capture = none) ∧
    ChangesOnly [.perf, .ports] s (takeRecord s)

/-- R320, R410: SAMPLE_RECORD_WRITE puts the oldest waiting sample into the slot at `tail`: bytes 0 to 254 first, then byte 255
with the phase bit; a full ring loses the sample, counted; with host memory closed it waits (R388). -/
def Sys2Proof.Rules.samplesRule : Prop :=
  ∀ (s : State) (x : Sample), nextSample s.traffic.samples = some x →
    let r := s.host.sample
    let a := r.base.toNat + 256 * r.tail.toNat
    let bs := slice x.bytes 0 20 ++ leBytes 4 (getPort s x.port).smpLost.toNat ++ slice (x.bytes.drop 24) 0 168 ++ leBytes 63 0
    let w := hostWrite (a + 255) [BitVec.ofNat 8 (b2n !r.oddPass)] (hostWrite a bs s)
    let last := r.tail.toNat + 1 == r.size.toNat
    (sampleRoom s = true → (getPool s 0).used.contains x.cell = true →
      Answers (exec .sampleRecordWrite s) fun t =>
        t.out = w.out ∧ t.boot.blocked = w.boot.blocked ∧
        (leAt s.boot.prot 6 1 = 0 →
          t.out.hostWrites = s.out.hostWrites ++ [(a, bs), (a + 255, [BitVec.ofNat 8 (b2n !r.oddPass)])]) ∧
        t.host.sample = { r with
          tail := if last then 0 else r.tail + 1, oddPass := if last then !r.oddPass else r.oddPass } ∧
        t.traffic.samples = s.traffic.samples.erase x ∧
        (getPort t x.port).smpLost = 0 ∧ ChangesOnly [.host, .out, .blocked, .traffic, .ports, .pools] s t) ∧
    (hostOk s = true → sampleRoom s = false → (getPool s 0).used.contains x.cell = true →
      Answers (exec .sampleRecordWrite s) fun t =>
        t.traffic.samplesLost = s.traffic.samplesLost + 1 ∧ t.traffic.samples = s.traffic.samples.erase x ∧
        (getPort t x.port).smpLost = satInc (getPort s x.port).smpLost ∧ t.out = s.out) ∧
    (hostOk s = false → exec .sampleRecordWrite s = .next s)

/-- R410, R434 to R439: what is written into the dump ring and the sample ring. Completes: dumpTick, sampleRecordWrite. -/
def Obligations.DumpsAndSamplesAreWritten : Prop := Rules.dumpsRule ∧ Rules.captureRule ∧ Rules.samplesRule

/-! ## Registers (R10 to R14, R386) -/

/-- R12, R13, R386 and the maps: a write of an address that holds no register is ignored and a read of it answers 0; so do
accesses of 8 and 16 bits, and misaligned ones; a read of HOST_STATUS or REF_STATUS answers the register and clears its RC
fields; a write of a ring's base is ignored while the ring is enabled, of PWR_CFG with a field out of range or after the first
fabric port has left DISABLED, and of FABRIC_ID after the first has been brought up; before that FABRIC_ID is taken, brings up the
enabled ports that it lets (R237, R239), and reports a refusal; of a 64-bit register the low half written is held, and takes effect
with the high half, and a read of the low half latches the high half for the next read of that; a read of the high half alone is
live. A 64-bit access over two 32-bit registers is one of each (the
model's reading, log entry 54). Completes: registerWrite, registerReadClear, registerHalfAccess. -/
def Obligations.RegisterAccessRules : Prop :=
  ∀ (s : State) (o : BitVec 26) (v : BitVec 64) (x y : BitVec 32), hostUp s = true →
    let read (o : BitVec 26) (w : AccessWidth) := exec (.registerReadClear { addr := .bar0 o, width := w }) s
    let write (o : BitVec 26) (w : AccessWidth) := exec (.registerWrite (.bar0 o) w v) s
    let none (n : Nat) : Prop := isNarrow n = false ∧ isWide n = false ∧ (n < 4 ∨ isWide (n - 4) = false)
    let zero (o : BitVec 26) : Host.Outcome State Fault Refusal :=
      .next { s with out := { s.out with reads := s.out.reads ++ [(o.toNat, 0)] } }
    (o.toNat % 4 = 0 → none o.toNat →
      write o .b32 = .next s ∧ exec (.registerHalfAccess o true x) s = .next s ∧ read o .b32 = zero o) ∧
    (∀ w : AccessWidth, (w = .b8 ∨ w = .b16 ∨ w = .b32 ∧ o.toNat % 4 ≠ 0 ∨ w = .b64 ∧ o.toNat % 8 ≠ 0) →
      write o w = .next s ∧ read o w = zero o) ∧
    (o.toNat % 8 = 0 → isWide o.toNat = false →
      write o .b64 = .next (write32 (o.toNat + 4) (v.toNat / 2 ^ 32) (write32 o.toNat (v.toNat % 2 ^ 32) s)) ∧
      (isNarrow o.toNat = true → isNarrow (o.toNat + 4) = true → Answers (read o .b64) fun t =>
        t.out.reads = s.out.reads ++
          [(o.toNat, BitVec.ofNat 64 (readReg o.toNat s + 2 ^ 32 * readReg (o.toNat + 4) s))])) ∧
    read 0x28 .b32 = .next { s with
      out := { s.out with reads := s.out.reads ++ [(0x28, BitVec.ofNat 64 (hostStatus s))] }
      host := { s.host with eventLost := 0 } } ∧
    read 0x300004 .b32 = .next { s with
      out := { s.out with reads := s.out.reads ++ [(0x300004, BitVec.ofNat 64 (refStatus s))] }
      clock := { s.clock with refLosses := 0, timeSteps := 0 } } ∧
    (s.routing.idFixed = true → write 0x200000 .b32 = .next s) ∧
    (s.routing.idFixed = false →
      let dim := BitVec.ofNat 4 (bits v.toNat 19 16)
      let label := BitVec.ofNat 11 (bits v.toNat 10 0)
      let u := { s with routing := { s.routing with dim := dim, label := label } }
      let kept (p : Nat) : Prop := p < 128 ∧ peEnable (getPort s p) = true ∧ (getPort s p).state = .disabled
      let valid : Prop := 1 ≤ dim.toNat ∧ dim.toNat ≤ 11 ∧ label.toNat < 2 ^ dim.toNat
      ((∀ p, ¬ kept p) → write 0x200000 .b32 = .next u) ∧
      ((∃ p, kept p) → ¬ valid → write 0x200000 .b32 = .next (postEvent 0x0008 (dim.toNat * 65536 + label.toNat) 0 [] u)) ∧
      (valid → Answers (write 0x200000 .b32) fun t => t.routing.dim = dim ∧ t.routing.label = label ∧
        ∀ p, kept p → portRangeOk u (getPort s p).entry = true →
          (∀ i, i < peWidth (getPort s p) → pegMain s (pegIndex (getPort s p) i) ≠ 0) →
          (getPort t p).state ≠ .disabled ∧ t.routing.idFixed = true)) ∧
    (70 ≤ bits v.toNat 23 16 → bits v.toNat 23 16 ≤ 100 → 4100 ≤ bits v.toNat 15 0 → bits v.toNat 15 0 ≤ 5000 →
      s.clock.portsLeft = false →
      write 0x800000 .b32 = .next { s with power := { s.power with
        tjThrottle := BitVec.ofNat 8 (bits v.toNat 23 16), droopCv := BitVec.ofNat 16 (bits v.toNat 15 0) } }) ∧
    (bits v.toNat 23 16 < 70 ∨ 100 < bits v.toNat 23 16 ∨ bits v.toNat 15 0 < 4100 ∨ 5000 < bits v.toNat 15 0 ∨
      s.clock.portsLeft = true → write 0x800000 .b32 = .next s) ∧
    write 0x500000 .b64 = .next (updSq 0 (fun q =>
      if q.enable then q else { q with base := BitVec.ofNat 64 (bits v.toNat 63 12 * 4096) }) s) ∧
    (o.toNat % 4 = 0 → isNarrow o.toNat = false → isWide o.toNat = true → isNarrow (o.toNat + 4) = false →
      isWide (o.toNat + 4) = false → o.toNat + 4 < 2 ^ 26 →
      let high := readReg o.toNat s / 2 ^ 32
      (Answers (read o .b32) fun t => t.out.reads = s.out.reads ++ [(o.toNat, BitVec.ofNat 64 (readReg o.toNat s % 2 ^ 32))] ∧
        t.host.readLatch.find? (·.1 == o.toNat) = some (o.toNat, BitVec.ofNat 32 high)) ∧
      (∀ z, s.host.readLatch.find? (·.1 == o.toNat) = some (o.toNat, z) →
        read (o + 4) .b32 = .next { s with
          host := { s.host with readLatch := tdel s.host.readLatch o.toNat }
          out := { s.out with reads := s.out.reads ++ [(o.toNat + 4, BitVec.ofNat 64 z.toNat)] } }) ∧
      ((∀ q ∈ s.host.readLatch, q.1 ≠ o.toNat) → Answers (read (o + 4) .b32) fun t =>
        t.out.reads = s.out.reads ++ [(o.toNat + 4, BitVec.ofNat 64 high)]) ∧
      let u := { s with host := { s.host with writeHold := tins o.toNat x (tdel s.host.writeHold o.toNat) } }
      exec (.registerHalfAccess o true x) s = .next u ∧
      exec (.registerHalfAccess (o + 4) true y) u = .next (writeWide o.toNat (y.toNat * 2 ^ 32 + x.toNat)
        { s with host := { s.host with writeHold := tdel s.host.writeHold o.toNat } }))

/-! ## Fabric ports (chapters 7 and 9) -/

/-- R205, R209, R227, R294: a port that is UP and misses a deadline goes back to codeword lock: FLIT_TIMEOUT after 1,250 ticks
without a flit in order, ACK_TIMEOUT and CREDIT_DEADLINE after 5 µs + 2d, TACK_DEADLINE likewise. Its bit in the port-down
vector is set. Before the deadline nothing changes. -/
def Sys2Proof.Rules.deadlinesRule : Prop :=
  ∀ (s : State) (p : BitVec 7),
    let q := getPort s p.toNat
    let late := 6250 + 2 * q.delay.toNat
    let lost (t : State) : Prop :=
      (getPort t p.toNat).state = .lock ∧ portDown t p.toNat = true ∧ (getPort t p.toNat).restarts = satInc q.restarts ∧
      t.flash = s.flash ∧ t.pending = s.pending
    q.state = .up →
    (q.goCount.isSome = true → 1250 ≤ s.clock.now - q.lastFlit → Answers (exec (.flitTimeout p) s) lost) ∧
    (s.clock.now - q.lastFlit < 1250 → exec (.flitTimeout p) s = .next s) ∧
    ((∃ f ∈ q.retry, late < s.clock.now - f.2.1) → Answers (exec (.ackTimeout p) s) lost) ∧
    ((∀ f ∈ q.retry, s.clock.now - f.2.1 ≤ late) → exec (.ackTimeout p) s = .next s) ∧
    (peModule q = false → (∃ c ∈ q.creditAt, late < s.clock.now - c.2.2) → Answers (exec (.creditDeadline p) s) lost) ∧
    ((∀ c ∈ q.creditAt, s.clock.now - c.2.2 ≤ late) → exec (.creditDeadline p) s = .next s) ∧
    ∀ e : BitVec 15, epPort s e.toNat = some p.toNat →
      ((∃ g ∈ s.groups, ∃ x ∈ g.transfers, ∃ t1, x.sent = true ∧ x.dst = e.toNat ∧ x.dir ≠ 0 ∧
          x.sentAt = some t1 ∧ late < s.clock.now - t1 ∧ notLeft q x = false) →
        Answers (exec (.tackDeadline e) s) lost) ∧
      ((∀ g ∈ s.groups, ∀ x ∈ g.transfers, ∀ t1, x.dst = e.toNat → x.sentAt = some t1 → s.clock.now - t1 ≤ late) →
        exec (.tackDeadline e) s = .next s)

/-- R289 to R293: LOCK_TIMEOUT and MEASURE_TIMEOUT fail a port with their codes; at MARGIN_WINDOW_END a lane beyond its limits
fails the port with code 3 (the lowest-numbered of several lanes is the first one, log entry 119), and a port within them goes on to INIT, or to HELLO while a module neighbour's hello is not
accepted; after `retry_ms` in FAILED a port or drone lane returns to LOCK. -/
def Sys2Proof.Rules.bringUpRule : Prop :=
  ∀ (s : State) (p : BitVec 7),
    let n := p.toNat
    let q := getPort s n
    let failed (code : Nat) : State := postEvent 3 n code []
      (updPort n (fun q => { freshLink q with state := .failed, since := s.clock.now }) s)
    (q.state = .lock → portLock q = false → 12500000 ≤ s.clock.now - q.since →
      exec (.lockTimeout p) s = .next (failed 1)) ∧
    (q.state = .measure → isMeasurer s q = true → q.samples.length < 16 → 1250000 ≤ s.clock.now - q.measureAt →
      exec (.measureTimeout p) s = .next (failed 2)) ∧
    (q.state = .margin → bits s.clock.laneCtrl.toNat 31 16 * 1250 ≤ s.clock.now - q.since →
      (∀ j js, marginFails q = j :: js → ∃ u, exec (.marginWindowEnd p) s = .next (postEvent 3 n 3 [] u) ∧
        (getPort u n).state = .failed ∧ (getPort u n).failLane = BitVec.ofNat 4 j ∧ ChangesOnly [.ports] s u) ∧
      (marginFails q = [] → peModule q = true → helloAccepted s (pePeer q) = false →
        Answers (exec (.marginWindowEnd p) s) fun t => (getPort t n).state = .hello) ∧
      (marginFails q = [] → peModule q = false → q.peerInit = none →
        Answers (exec (.marginWindowEnd p) s) fun t =>
          (getPort t n).state = .init ∧ (getPort t n).initSent = false ∧ ChangesOnly [.ports] s t)) ∧
    (q.state = .margin → s.clock.now - q.since < bits s.clock.laneCtrl.toNat 31 16 * 1250 →
      exec (.marginWindowEnd p) s = .next s) ∧
    (q.state = .init → peModule q = false → (∃ c ∈ q.creditAt, 6250 + 2 * q.delay.toNat < s.clock.now - c.2.2) →
      Answers (exec (.creditDeadline p) s) fun t => (getPort t n).state = .lock) ∧
    (let wait := bits s.clock.laneCtrl.toNat 15 8 * 1250000
     (q.state = .failed → wait ≤ s.clock.now - q.since → refReady s (peBridge q) = true →
      Answers (exec (.failedDwellEnd false p) s) fun t =>
        (getPort t n).state = .lock ∧ (getPort t n).entry = q.nextEntry ∧ ChangesOnly [.ports, .routing] s t) ∧
     ((getDrone s n).state = .failed → wait ≤ s.clock.now - (getDrone s n).since →
      Answers (exec (.failedDwellEnd true p) s) fun t =>
        (getDrone t n).state = .lock ∧ ChangesOnly [.drones, .routing] s t))

/-- R204, R209, R290 to R294: deadlines and bring-up timers of a port. Completes: flitTimeout, ackTimeout, creditDeadline,
tackDeadline, lockTimeout, measureTimeout, marginWindowEnd, failedDwellEnd. -/
def Obligations.PortTimersMoveAPort : Prop := Rules.deadlinesRule ∧ Rules.bringUpRule

/-- R207, R210, R236, R293: a LINK_INIT that passes every check of Table 9.14 sets the peer's credits; the port is UP once its
own has been sent and its receive buffers find their cells (log entry 41, DESIGN CHOICE: how many); one that fails a check
quarantines the port with that cause; one whose CRC-32C fails, or that is malformed, is dropped and counted before R207 judges it
(log entry 83, DEDUCED). The port has no ingress sampler. -/
def Sys2Proof.Rules.linkInitRule : Prop :=
  ∀ (s : State) (p : BitVec 7) (x : Packet),
    let n := p.toNat
    let q := getPort s n
    let mal := malformed x (!peModule q) 3 32
    bit (setting s (0x3A000 + n)) 63 = false →
    let dropped (cause : Nat) (t : State) : Prop :=
      tget 0 t.drops (64 * n + cause) = tget 0 s.drops (64 * n + cause) + 1 ∧ (getPort t n).state = q.state ∧
      (getPort t n).peerInit = q.peerInit ∧ ChangesOnly [.ports, .perf, .drops] s t
    let limits (t : State) : Prop :=
      (∀ k, k < 8 → let c := creditOf (getPort t n) (k + 1)
        let given := BitVec.ofNat 12 (field x.hdr (12 + 2 * k) 2)
        c.init = given ∧ c.limit = given ∧ c.sent = 0) ∧
      (getPort t n).peerInit = some x
    (crcOk x = false → Answers (exec (.linkInit p x) s) (dropped 8)) ∧
    (crcOk x = true → mal ≠ 0 → Answers (exec (.linkInit p x) s) (dropped mal)) ∧
    (crcOk x = true → mal = 0 → q.state = .init →
      (linkInitCause s q x = 0 → q.initSent = false →
        Answers (exec (.linkInit p x) s) fun t => limits t ∧ (getPort t n).state = .init) ∧
      (linkInitCause s q x = 0 → q.initSent = true →
        (reserveCells rxCells (applyCarve (if allIdle q.cells then s else detachRx n s))).isSome = true →
        Answers (exec (.linkInit p x) s) fun t => limits t ∧ (getPort t n).state = .up ∧ portDown t n = false) ∧
      (linkInitCause s q x ≠ 0 → Answers (exec (.linkInit p x) s) fun t =>
        (getPort t n).state = .quarantined ∧ (getPort t n).qCause = BitVec.ofNat 8 (linkInitCause s q x)))

/-- R197, R271: the header is in message bits 19:0 and bit i of flit byte b in bit 20 + 8b + i; each bit on the line is the
message bit with the line's bits 39 and 58 places before it, the last 58 bits of the lane's codeword before going first; and
descrambling gives the message bits again. -/
def Sys2Proof.Rules.scramblerRule : Prop :=
  (∀ m : Message, m.flit.length = 640 →
    (∀ i, i < 20 → m.bits.getLsbD i = m.header.getLsbD i) ∧
    (∀ b i, b < 640 → i < 8 → m.bits.getLsbD (20 + 8 * b + i) = (m.flit.getD b 0).getLsbD i) ∧
    Message.ofBits m.bits = m) ∧
  ∀ (prev : BitVec 58) (m : BitVec 5140),
    let line := scramble prev m
    (∀ i, i < 5140 →
      let before (k : Nat) : Bool := if k ≤ i then line.getLsbD (i - k) else prev.getLsbD (58 + i - k)
      line.getLsbD i = ((m.getLsbD i ^^ before 39) ^^ before 58)) ∧
    descramble prev line = m

/-- A codeword with this header and flit has been driven on a lane, its message bits scrambled after those before (R197, R271). -/
def Sys2Proof.Rules.drove (s t : State) (n lane : Nat) (header : BitVec 20) (flit : List Byte) : Prop :=
  let line := scramble (tget 0 (getPort s n).txLine lane) { header := header, flit := flit : Message }.bits
  t.out.codewords = s.out.codewords ++ [{ port := n, lane := lane, header := header, flit := flit, line := line }] ∧
  tget 0 (getPort t n).txLine lane = lineEnd line

/-- R199 to R204, R207, R290, R306: what a lane sends. In LOCK the lock block with a SEQ header; once `go` is sent, flits: a replay
asked for is opened on lane 0 with a SEQ header and the flit after the one named; with nothing in its queues, or with its retry store
full, a new flit carries zeros, under an ACK header where one is due and a SEQ header where nothing is; a packet of VL0 that may start is next in the stream, its
credit used, its queue moved on, and the flit is held until acknowledged. -/
def Sys2Proof.Rules.flitsSentRule : Prop :=
  ∀ (s : State) (p : BitVec 7) (lane : BitVec 4),
    let n := p.toNat
    let j := lane.toNat
    let q := getPort s n
    let now := s.clock.now
    let new (header : BitVec 20) (flit : List Byte) (held : Option (List Byte)) (t : State) : Prop :=
      Rules.drove s t n j header flit ∧ (getPort t n).txFsn = q.txFsn + 1 ∧
      (getPort t n).retry = q.retry ++ [(q.txFsn, now, held)]
    (peWidth q ≤ j ∨ s.clock.locked = false ∨ bridgeDrives s (peBridge q) = false ∨
      q.state ∉ [LaneState.lock, .measure, .margin, .init, .up, .hello, .quarantined] → exec (.codewordTx p lane) s = .next s) ∧
    (j < peWidth q → s.clock.locked = true → bridgeDrives s (peBridge q) = true →
      (q.state = .lock → q.goSent = false → Answers (exec (.codewordTx p lane) s) fun t => ∃ flags : BitVec 2,
        Rules.drove s t n j 0xC0000 (lockBlock { q with txFlags := flags } j) ∧ ChangesOnly [.ports, .out] s t) ∧
      (∀ f g t0 held, q.state = .up → q.goSent = true → j = 0 → q.replayFrom = some f → q.retry = [(g, t0, held)] →
        0 < (g - f).toNat → (g - f).toNat ≤ 2047 → Answers (exec (.codewordTx p lane) s) fun t =>
          Rules.drove s t n j (BitVec.ofNat 20 (0xC0000 + 64 * g.toNat)) (held.getD (List.replicate 640 0)) ∧
          (getPort t n).retry = q.retry ∧ (getPort t n).txFsn = q.txFsn) ∧
      (q.state = .up → q.goSent = true → q.replayFrom = none → q.replay = [] → q.retry.length < 2047 → q.txBytes = [] →
        q.sending = [] →
        ((∀ k, queueOf s n k = []) ∨ 128 * peWidth q ≤ (q.retry.filter fun f => f.2.2.isSome).length → Answers (exec (.codewordTx p lane) s) fun t => ∃ header : BitVec 20,
          new header (List.replicate 640 0) none t ∧
          (j ≠ 0 → q.ackDue = true →
            header = BitVec.ofNat 20 (64 * (q.rxFsn - 1).toNat + 32 * b2n q.rxLoss + 8 * q.rxTag.toNat)) ∧
          (j ≠ 0 → q.ackDue = false → q.sinceAck < 15 → (∀ c ∈ q.credits, c.2.dueAt = none) →
            header = BitVec.ofNat 20 (0xC0000 + 64 * q.txFsn.toNat))) ∧
        ∀ y : QPkt, q.retry.length < 128 * peWidth q → (∀ k, queueOf s n k = if k = 0 then [y] else []) → (∀ h, y.headAt = some h → h < now) →
          eligible s n (leaveTime s n j 0) 0 = true → Answers (exec (.codewordTx p lane) s) fun t => ∃ header : BitVec 20,
            let flit := padTo 640 ((packetBytes y.pkt).take 640)
            new header flit (some flit) t ∧ queueOf t n 0 = [] ∧
            (creditOf (getPort t n) 0).sent = (creditOf q 0).sent + 1 ∧
            (getPort t n).counts.pktTx = q.counts.pktTx + 1 ∧ (getPort t n).txBytes = (packetBytes y.pkt).drop 640 ∧
            ((packetBytes y.pkt).length ≤ 640 → ∃ z : QPkt, z.pkt = y.pkt ∧ z.cell = y.cell ∧
              (getPort t n).unacked = q.unacked ++ [(q.txFsn, z)])))

/-- R199 to R204, R290, R292: what a lane receives. A codeword waits for those of the lanes before it (R290). A flit in order is
accepted, a lost one asks for a replay in UP and fails the port in MARGIN, which for an uncorrectable codeword is the model's reading
(log entry 107). ACK frees the flits up to its FSN and the cells of the packets that end in them, once; one with another replay tag
owes a replay. What is received is descrambled; an uncorrectable codeword leaves the descrambler with its bits as they came (the
model's choice, log entry 89). -/
def Sys2Proof.Rules.flitsHeardRule : Prop :=
  ∀ (s : State) (p : BitVec 7) (lane : BitVec 4),
    let n := p.toNat
    let q := getPort s n
    let l : LaneLock := tget {} q.locks lane.toNat
    let told (c : Codeword) : Message := Message.ofBits (descramble (tget 0 q.rxLine lane.toNat) c.message)
    (∀ cw, peWidth q ≤ lane.toNat → exec (.codewordRx p lane cw) s = .next s) ∧
    (∀ k, lane.toNat < peWidth q → lane ≠ 0 → q.state = .up → q.goCount = some k → k ≤ l.count →
      (∀ c : Codeword, q.rxLane ≠ lane.toNat → tget [] q.deskew q.rxLane = [] → Answers (exec (.codewordRx p lane c) s) fun t =>
        tget [] (getPort t n).deskew lane.toNat = tget [] q.deskew lane.toNat ++ [c.symbols.map fun _ => told c] ∧
        (getPort t n).rxFsn = q.rxFsn ∧ (getPort t n).rxLoss = q.rxLoss) ∧
      (q.rxLane = lane.toNat → q.deskew = [] → q.rxLoss = false →
        (∀ c : Codeword, c.symbols = none → Answers (exec (.codewordRx p lane c) s) fun t =>
          (getPort t n).rxLoss = true ∧ (getPort t n).rxTag = q.rxTag + 1 ∧ (getPort t n).ackDue = true ∧
          (getPort t n).rxFsn = q.rxFsn ∧ tget 0 (getPort t n).rxLine lane.toNat = lineEnd c.message ∧
          (getPort t n).rxLane = (lane.toNat + 1) % peWidth q ∧ ChangesOnly [.ports] s t) ∧
        ∀ c : Codeword, c.symbols ≠ none → told c = { header := BitVec.ofNat 20 (0xC0000 + 64 * q.rxFsn.toNat)
                                                      flit := List.replicate 640 0 } → q.rxBytes = [] →
          Answers (exec (.codewordRx p lane c) s) fun t =>
            (getPort t n).rxFsn = q.rxFsn + 1 ∧ (getPort t n).rxQueue = q.rxQueue ∧ (getPort t n).rxBytes = [] ∧
            (getPort t n).lastFlit = s.clock.now)) ∧
    (∀ k (c : Codeword), lane.toNat < peWidth q → lane ≠ 0 → q.state = .margin → q.goCount = some k → k ≤ l.count →
      q.rxLoss = false → c.symbols = none → marginFails q = [] → q.rxLane = lane.toNat → q.deskew = [] →
      Answers (exec (.codewordRx p lane c) s) fun t =>
        (getPort t n).state = .failed ∧ (getPort t n).failLane = lane) ∧
    ∀ (fsn : BitVec 12) (tag : BitVec 2), q.goSent = true → q.state = .up →
      (q.lastAck = none → Answers (exec (.ack p fsn false tag) s) fun t =>
        (getPort t n).retry = q.retry.filter (fun f => !(f.1 == fsn || precedes f.1 fsn)) ∧
        (getPort t n).unacked = q.unacked.filter (fun f => !(f.1 == fsn || precedes f.1 fsn)) ∧
        (getPort t n).lastAck = some fsn ∧ (getPort t n).replayFrom = q.replayFrom ∧
        ∀ y pool c, q.unacked = [(fsn, y)] → y.cell = some (pool, c) → pool < 4 → PoolsWf s →
          (getPool s pool).used.contains c = true →
          (getPool t pool).used = (getPool s pool).used.filter (· != c) ∧ (getPool t pool).stack = c :: (getPool s pool).stack) ∧
      (∀ last, q.lastAck = some last → precedes fsn last = true → Answers (exec (.ack p fsn false tag) s) fun t =>
        (getPort t n).retry = q.retry ∧ (getPort t n).unacked = q.unacked ∧ (getPort t n).lastAck = some last) ∧
      (q.lastRtag ≠ some tag → Answers (exec (.ack p fsn true tag) s) fun t =>
        (getPort t n).replayFrom = some fsn ∧ (getPort t n).lastRtag = some tag ∧
        (getPort t n).counts.replays = q.counts.replays + 1) ∧
      (q.lastRtag = some tag → Answers (exec (.ack p fsn true tag) s) fun t => (getPort t n).replayFrom = q.replayFrom)

/-- R197, R199 to R204, R271, R290, R292: codewords and flits. Completes: codewordTx, codewordRx, ack. -/
def Obligations.CodewordsCarryFlits : Prop := Rules.scramblerRule ∧ Rules.flitsSentRule ∧ Rules.flitsHeardRule

/-- R207: credits of a sub-lane. They start at 16 for VL0 at codeword lock, and at the peer's LINK_INIT otherwise; a CREDIT moves
the limit unless its count is older; a packet may start while limit − sent is 1 to 2,047; sending adds one. Completes:
credit. -/
def Obligations.CreditsFollowR207 : Prop :=
  (∀ q : Port, creditOf (freshLink q) 0 = { init := 16, limit := 16 } ∧ ∀ k, 0 < k → creditOf (freshLink q) k = {}) ∧
  (∀ (s : State) (p : BitVec 7) (k : BitVec 4) (n : BitVec 12), k.toNat < 9 → (getPort s p.toNat).state = .up →
    let c := creditOf (getPort s p.toNat) k.toNat
    let new := c.init + n
    Answers (exec (.credit p k n) s) fun t =>
      creditOf (getPort t p.toNat) k.toNat = { c with
        limit := if (new.toNat + 4096 - c.limit.toNat) % 4096 < 2048 then new else c.limit } ∧
      (∀ j, j ≠ k.toNat → creditOf (getPort t p.toNat) j = creditOf (getPort s p.toNat) j) ∧ ChangesOnly [.ports] s t) ∧
  (∀ (s : State) (port sub : Nat) (x : Packet), isDim0 s port = false →
    creditLets s port sub x =
      decide (1 ≤ ((creditOf (getPort s port) sub).limit - (creditOf (getPort s port) sub).sent).toNat ∧
        ((creditOf (getPort s port) sub).limit - (creditOf (getPort s port) sub).sent).toNat ≤ 2047)) ∧
  ∀ (q : Port) (sub : Nat), creditOf (useCredit sub q) sub = { creditOf q sub with sent := (creditOf q sub).sent + 1 }

/-- R234, R291: a time update received by the measurer in MEASURE is one sample, its arrival less the echoed time, and the
sixteenth, when none is further than 2 ticks from the ninth, gives d and MARGIN; at the echoer it is owed an echo; in UP
it changes nothing but the reception state. -/
def Sys2Proof.Rules.timeUpdatesRule : Prop :=
  ∀ (s : State) (p : BitVec 7) (v : BitVec 64) (a : Nat),
    let n := p.toNat
    let q := getPort s n
    q.rxTime = some (a, 4) →
    (isMeasurer s q = true → q.state = .measure → q.samples.length < 15 → exec (.time p v) s =
      .next (updPort n (fun q => { q with rxTime := none, samples := q.samples ++ [a - v.toNat] }) s)) ∧
    (isMeasurer s q = true → q.state = .measure → q.samples.length = 15 →
      (ninth (q.samples ++ [a - v.toNat]) 2).2 = true → (ninth (q.samples ++ [a - v.toNat]) 2).1 ≤ 1500 →
      Answers (exec (.time p v) s) fun t =>
        (getPort t n).state = .margin ∧ ChangesOnly [.ports] s t ∧
        (getPort t n).delay = BitVec.ofNat 10 (((ninth (q.samples ++ [a - v.toNat]) 2).1 + 1) / 2)) ∧
    (isMeasurer s q = false → q.state = .measure → exec (.time p v) s =
      .next (updPort n (fun q => { q with rxTime := none, echo := some (v.toNat, a) }) s)) ∧
    (q.state = .up → exec (.time p v) s = .next (updPort n (fun q => { q with rxTime := none }) s))

/-- R210, R234, R235: LINK_INIT, and the time updates that measure a port's delay. Completes: linkInit, time. -/
def Obligations.LinksInitAndMeasure : Prop := Rules.linkInitRule ∧ Rules.timeUpdatesRule

/-- R29, R208, R213, R236: on a port that is not UP everything but LINK_INIT is dropped; a packet whose CRC-32C fails,
or that is malformed, is dropped and counted by port and cause, and its credit returns; one that had begun to leave by cut-through
is finished with a wrong CRC-32C, the complement of the right one (the model's reading, log entry 95). -/
def Sys2Proof.Rules.badPacketsRule : Prop :=
  (∀ (s : State) (p : BitVec 7) (x : Packet),
    let n := p.toNat
    let q := getPort s n
    let mal := malformed x (!peModule q) q.level.toNat 32
    let gone (cause : Nat) (t : State) : Prop :=
      tget 0 t.drops (64 * n + cause) = tget 0 s.drops (64 * n + cause) + 1 ∧ t.routing = s.routing ∧
      (∀ k, sublane x = some k → (creditOf (getPort t n) k).freed = (creditOf q k).freed + 1) ∧
      (getPort t n).counts.pktRx = q.counts.pktRx + 1 ∧ ChangesOnly [.ports, .perf, .drops] s t
    pType x ≠ 0x40 → bit (setting s (0x3A000 + n)) 63 = false →
    (q.state ≠ .up → Answers (exec (.packetRx p x) s) (gone 20)) ∧
    (q.state = .up → crcOk x = false → mal ≠ 0 ∨ pIsCtl x = true → Answers (exec (.packetRx p x) s) (gone 8)) ∧
    (q.state = .up → crcOk x = false → mal = 0 → Answers (exec (.packetRx p x) s) fun t =>
      if cutBegun s n x then t = takePacket n true (spoilCrc x) (countBad 5 n 8 x (countArrival n x (takeRx n x s).2))
      else gone 8 t) ∧
    (q.state = .up → crcOk x = true → mal ≠ 0 → Answers (exec (.packetRx p x) s) (gone mal))) ∧
  ∀ x : Packet, pIsCtl x = false →
    crcOk (spoilCrc x) = false ∧ (spoilCrc x).hdr = x.hdr ∧ (spoilCrc x).payload = x.payload

/-- R248: of the valid candidates whose port is not down and whose adaptive queue of the packet's VL holds fewer than `adapt_thresh`
packets, the one with the fewest is chosen, the lowest index first. -/
def Sys2Proof.Rules.candidateRule : Prop :=
  ∀ (s : State) (e vl : Nat),
    let cand (i : Nat) : Nat := bits e (8 * i + 15) (8 * i + 8)
    let depth (i : Nat) : Nat := (queueOf s (cand i % 128) ((subsOf vl).headD 0)).length
    let good (i : Nat) : Prop := i < 4 ∧ bit (cand i) 7 = true ∧ portDown s (cand i % 128) = false ∧
      depth i < bits (setting s 0x20000) 39 32
    ((∀ i, ¬ good i) → chooseCandidate s e vl = none) ∧
    ∀ i, good i → (∀ j, good j → depth i < depth j ∨ depth i = depth j ∧ i ≤ j) → chooseCandidate s e vl = some (cand i % 128)

/-- R252: a lookup whose escape port is lost takes the lowest live parallel port; else, for a module port of dimension 1 or more or
the destination's own port, and a packet that came by no dimension-0 port, the lowest live dimension-0 port; else it is held. -/
def Sys2Proof.Rules.detourRule : Prop :=
  ∀ (s : State) (dst inPort p : Nat),
    let e := getPort s p
    let parallel (q : Nat) : Prop := q < 128 ∧ portDown s q = false ∧ peModule e = true ∧ isModPort s q = true ∧ q ≠ p ∧
      pePeer (getPort s q) = pePeer e
    let dim0 (q : Nat) : Prop := q < 128 ∧ portDown s q = false ∧ isDim0 s q = true
    let may : Prop := isDim0 s inPort = false ∧
      (peModule e = true ∧ 1 ≤ peDim e ∨ peModule e = false ∧ dst < 0x8000 ∧ pePeer e = dst)
    (∀ q, parallel q → (∀ r, r < q → ¬ parallel r) → detour s dst inPort p = some q) ∧
    ((∀ q, ¬ parallel q) →
      (may → ∀ q, dim0 q → (∀ r, r < q → ¬ dim0 r) → detour s dst inPort p = some q) ∧
      (¬ may ∨ (∀ q, ¬ dim0 q) → detour s dst inPort p = none))

/-- R243, R247, R258: the lookup of a packet. An injected one is refused while no bank is CURRENT, and else looked up with the current
epoch and `esc` 0. In a RETIRED bank a packet is stale; a stale control packet but GET_REQ and BARRIER_ARRIVE is stamped anew.
One for this module is delivered; one without an entry is refused with NO_ROUTE; one of an adaptive class with `esc` 0 takes a
candidate's adaptive sub-lane; any other the escape port, or its detour, on the escape sub-lane with `esc` set where its VL
has one, and is held where there is neither. While no bank is CURRENT a stale control packet stays stale (the model's choice,
log entry 100). -/
def Sys2Proof.Rules.lookupRule : Prop :=
  ∀ (s : State) (x : Packet) (inPort : Nat) (escOnly : Bool),
    let look (x : Packet) : Packet × Decision := lookup s x inPort false escOnly
    let b := pEpoch x
    let e := routeEntry s b (pDst x)
    let esc := bits e 6 0
    let vl := pVl x
    let adapts : Bool := classAdaptive s vl && !pEsc x && !escOnly
    let marked := stamp x (adaptiveVl vl) b
    (curValid s = false → lookup s x inPort true escOnly = (x, .refuse 4)) ∧
    (curValid s = true → bankState s s.routing.epoch ≠ .retired →
      lookup s x inPort true escOnly = look (stamp x false s.routing.epoch)) ∧
    (bankState s b = .retired →
      (pIsCtl x = false ∨ pType x = 0x43 ∨ pType x = 0x4C ∨ curValid s = false → look x = (x, .stale)) ∧
      (pIsCtl x = true → pType x ≠ 0x43 → pType x ≠ 0x4C → curValid s = true → bankState s s.routing.epoch ≠ .retired →
        look x = look (stamp x (pEsc x) s.routing.epoch))) ∧
    (bankState s b ≠ .retired →
      (forMe s (pDst x) = true → look x = (x, .here)) ∧
      (forMe s (pDst x) = false → bit e 63 = false → look x = (x, .refuse 4)) ∧
      (forMe s (pDst x) = false → bit e 63 = true →
        (∀ p, adapts = true → chooseCandidate s e vl = some p → look x = (x, .out p ((subsOf vl).headD 0))) ∧
        (adapts = false ∨ chooseCandidate s e vl = none →
          (portDown s esc = false → look x = (marked, .out esc ((subsOf vl).getLastD 0))) ∧
          (∀ p, portDown s esc = true → detour s (pDst x) inPort esc = some p →
            look x = (marked, .out p ((subsOf vl).getLastD 0))) ∧
          (portDown s esc = true → detour s (pDst x) inPort esc = none →
            look x = (x, .hold esc ((subsOf vl).getLastD 0))))))

/-- R243, R249, R254, R256, R258, R315 to R317: a good packet takes a buffer of its port and goes where its lookup says: to the
headstock's queue, to the tail of an output queue, there held where it has no port, or, refused or stale, it is counted; a control
packet without a port is flushed. AGE_CHECK discards a packet beyond its VL's limit; a head that may start in the same tick is
tested as the tick ends; one that has begun to leave stays. ADAPT_WAIT_EXPIRY takes the head of an adaptive queue that has stood
`adapt_wait` ticks without a credit to the tail of the escape queue, counted. The port has no ingress sampler; a metered output is
for R312. -/
def Sys2Proof.Rules.packetsMoveRule : Prop :=
  ∀ (s : State) (p : BitVec 7) (x : Packet),
    let n := p.toNat
    let q := getPort s n
    let found := lookup s x n (!peModule q) false
    let pool := rxPool ((sublane x).getD 0)
    let joined (t : State) (o k : Nat) (held : Bool) (cell : Option (Nat × Nat)) (y : Packet) : Prop :=
      (queueOf t o k).map (·.pkt) = (queueOf s o k).map (·.pkt) ++ [y] ∧
      ∃ z ∈ queueOf t o k, z.pkt = y ∧ z.inPort = n ∧ z.cell = cell ∧ z.held = held
    (q.state = .up → pType x ≠ 0x40 → crcOk x = true → malformed x (!peModule q) q.level.toNat 32 = 0 →
      bit (setting s (0x3A000 + n)) 63 = false → ∀ c v, allocReserved pool s = some (c, v) →
        (∀ y, found = (y, .here) → isIdleType (pType y) = false →
          pIsCtl y = false ∨ (s.routing.inbox.filter fun z => pIsCtl z.pkt).length < 16384 →
          Answers (exec (.packetRx p x) s) fun t => t.pools = v.pools ∧
            ∃ z, t.routing.inbox = s.routing.inbox ++ [z] ∧ z.pkt = y ∧ z.inPort = n ∧ z.cell = some (pool, c)) ∧
        (∀ y o k, found = (y, .out o k) → meterOf s o y = none → Answers (exec (.packetRx p x) s) fun t =>
          t.pools = v.pools ∧ joined t o k false (some (pool, c)) y) ∧
        (∀ y o k, found = (y, .hold o k) → pIsCtl y = false → meterOf s o y = none →
          Answers (exec (.packetRx p x) s) fun t => t.pools = v.pools ∧ joined t o k true (some (pool, c)) y) ∧
        (∀ y o k, found = (y, .hold o k) → pIsCtl y = true → Answers (exec (.packetRx p x) s) fun t =>
          tget 0 t.drops (64 * o + 12) = tget 0 s.drops (64 * o + 12) + 1) ∧
        (∀ y code, found = (y, .refuse code) → Answers (exec (.packetRx p x) s) fun t =>
          tget 0 t.drops (64 * n + 10) = tget 0 s.drops (64 * n + 10) + 1) ∧
        (∀ y, found = (y, .stale) → Answers (exec (.packetRx p x) s) fun t =>
          tget 0 t.drops (64 * n + 11) = tget 0 s.drops (64 * n + 11) + 1)) ∧
    (∀ (k : BitVec 4) (i : BitVec 16) (y : QPkt), (queueOf s n k.toNat)[i.toNat]? = some y →
      (isAged s y.pkt = false ∨ y.cut = true → exec (.ageCheck p k i) s = .next s) ∧
      (isAged s y.pkt = true → y.cut = false → i = 0 → startsNow s n k.toNat = true →
        exec (.ageCheck p k i) s = .next (updQueue n k.toNat (fun l => l.set 0 { y with test := true }) s)) ∧
      (isAged s y.pkt = true → y.cut = false → i ≠ 0 ∨ startsNow s n k.toNat = false →
        Answers (exec (.ageCheck p k i) s) fun t =>
          ((queueOf s n k.toNat).map (·.pkt)).eraseIdx i.toNat <+: (queueOf t n k.toNat).map (·.pkt) ∧
          tget 0 t.drops (64 * n + 13) = tget 0 s.drops (64 * n + 13) + 1)) ∧
    ∀ (k : BitVec 4) (y : QPkt) (ys : List QPkt) (t0 : Nat), queueOf s n k.toNat = y :: ys → y.headAt = some t0 →
      (k = 1 ∨ k = 3 ∨ k = 7) → creditLets s n k.toNat y.pkt = false →
      (s.clock.now - t0 < bits (setting s 0x20000) 31 16 → exec (.adaptWaitExpiry p k) s = .next s) ∧
      (bits (setting s 0x20000) 31 16 ≤ s.clock.now - t0 → s.routing.fallback.length = 3 → pVl y.pkt = vlOf k.toNat →
        Answers (exec (.adaptWaitExpiry p k) s) fun t =>
          let i := if k = 7 then 2 else if k = 3 then 1 else 0
          t.routing.fallback.getD i 0 = s.routing.fallback.getD i 0 + 1 ∧
          ys.map (·.pkt) <+: (queueOf t n k.toNat).map (·.pkt) ∧
          ∀ z o j, lookup s y.pkt y.inPort false true = (z, .out o j) → meterOf s o z = none → j = k.toNat + 1 ∧
            (queueOf t o j).map (·.pkt) = (queueOf s o j).map (·.pkt) ++ [z])

/-- R208, R213, R236, R243, R247 to R249, R252, R256, R258, R316: packets that arrive, their lookup, and packets that wait.
Completes: packetRx, ageCheck, adaptWaitExpiry. -/
def Obligations.PacketsAreCheckedAndMoved : Prop :=
  Rules.badPacketsRule ∧ Rules.candidateRule ∧ Rules.detourRule ∧ Rules.lookupRule ∧ Rules.packetsMoveRule

/-! ## Egress: gates, order of packets, meters (chapter 10) -/

/-- The gate of VL v at offset o of a fret list's cycle (the pseudocode of R308). -/
def Sys2Proof.Rules.openAt : List (Nat × Nat) → Nat → Nat → Bool
  | [], _, _ => true
  | e :: es, v, o => if o < e.2 then bit e.1 v else openAt es v (o - e.2)

/-- R308: the gate of VL v of a port is open at fabric time t. -/
def Sys2Proof.Rules.gateOpen (s : State) (p v t : Nat) : Prop :=
  let es := fretList s p
  let base := setting s (0x30200 + p)
  isGated s p = false ∨ t < base ∨ Rules.openAt es v ((t - base) % (es.map (·.2)).sum) = true

/-- R309: a packet that needs `need` ticks fits where its gate is open in each of them, and may not start where it is closed; it may
overrun the gate only where no open run of the cycle is long enough, and then only at the first tick of one. -/
def Sys2Proof.Rules.gatesRule : Prop :=
  ∀ (s : State) (p v need t : Nat), 1 ≤ need →
    let base := setting s (0x30200 + p)
    (gateOf s p v need t = .fits ↔ ∀ i, i < need → Rules.gateOpen s p v (t + i)) ∧
    (¬ Rules.gateOpen s p v t → gateOf s p v need t = .shut) ∧
    (gateOf s p v need t = .overrun → base ≤ t ∧ (∀ x, base ≤ x → ¬ ∀ i, i < need → Rules.gateOpen s p v (x + i)) ∧
      (base < t → ¬ Rules.gateOpen s p v (t - 1)))

/-- R206, R216, R257, R306, R307: the head of a queue is eligible where its port is UP, it is not held, a second has passed since
reset, its credit is there and its gate lets it start. VL0 leaves first; of the other VLs the one whose turn it is, once its deficit
covers its packet, which is taken off; of two sub-lanes of a VL the one not taken last. What leaves is eligible, and while
something is and every quantum is at least 1, something leaves. -/
def Sys2Proof.Rules.nextPacketRule : Prop :=
  ∀ (s : State) (p t : Nat),
    let q := getPort s p
    let next := nextPacket p t s
    (∀ k, eligible s p t k = true ↔ ∃ x xs, queueOf s p k = x :: xs ∧ q.state = .up ∧ x.held = false ∧
      1250000000 ≤ s.clock.now ∧ creditLets s p k x.pkt = true ∧ packetGate s p k t x.pkt ≠ .shut) ∧
    (eligible s p t 0 = true → next = (s, some 0)) ∧
    (∀ v, pickSub s p t v = none ↔ ∀ k ∈ subsOf v, eligible s p t k = false) ∧
    (∀ v k, pickSub s p t v = some k → k ∈ subsOf v ∧ eligible s p t k = true ∧
      ((∀ j ∈ subsOf v, eligible s p t j = true) → 1 < (subsOf v).length → k ≠ tget 0 q.lastSub v)) ∧
    (∀ k, next.2 = some k → eligible s p t k = true) ∧
    ((∀ k, eligible s p t k = false) → next = (s, none)) ∧
    (∀ v k x xs, eligible s p t 0 = false → 1 ≤ v → v ≤ 5 → q.turn = v → pickSub s p t v = some k → queueOf s p k = x :: xs →
      let quantum := bits (setting s (0x30000 + p)) (8 * v - 1) (8 * v - 8)
      let d : BitVec 32 := tget 0 q.deficit v + (if tget false q.granted v then 0 else BitVec.ofNat 32 (256 * quantum))
      packetSize x.pkt ≤ d.toNat → next.2 = some k ∧
        tget 0 (getPort next.1 p).deficit v = d - BitVec.ofNat 32 (packetSize x.pkt) ∧
        tget false (getPort next.1 p).granted v = true ∧ (getPort next.1 p).turn = v) ∧
    ((∃ k, k < 9 ∧ eligible s p t k = true) → 1 ≤ q.turn → q.turn ≤ 5 →
      (∀ v, 1 ≤ v → v ≤ 5 → 1 ≤ bits (setting s (0x30000 + p)) (8 * v - 1) (8 * v - 8)) →
      (∀ v, (tget 0 q.deficit v : BitVec 32).toNat < 2 ^ 31) → (∀ k x, x ∈ queueOf s p k → packetSize x.pkt ≤ 8232) →
      ∃ k, next.2 = some k)

/-- R312 to R314: a packet is metered where it joins a VL5 queue of a port with `meter_en`, comes from an endpoint, and that endpoint's
METER_MAP entry is valid and names an enabled meter. The colours and buckets are those of RFC 2697 and RFC 2698 as R313 has them,
while no value leaves its 64 bits. Green joins; yellow joins while fewer than `yellow_max` VL5 packets are queued at the port, and else
is discarded, as red is. The commit of a meter's setting fills its buckets. -/
def Sys2Proof.Rules.metersRule : Prop :=
  (∀ (s : State) (o : Nat) (x : Packet) (n : Nat),
    let map := setting s (0x40000 + pSrc x)
    meterOf s o x = some n ↔ pVl x = 5 ∧ bit (setting s (0x30000 + o)) 52 = true ∧ pSrcMod x = false ∧ bit map 15 = true ∧
      n = bits map 9 0 ∧ bit (setting s (0x38000 + n)) 63 = true) ∧
  (∀ (a b : Nat) (m : Meter) (t cost : Nat),
    let cir := bits a 19 0
    let pir := bits a 39 20
    let capC := bits b 23 0 * 1250
    let capE := bits b 47 24 * 1250
    let n := t - m.last
    m.last ≤ t → t < 2 ^ 64 → m.tc ≤ capC → m.te ≤ capE → n * cir + capE < 2 ^ 64 → n * pir + capE < 2 ^ 64 →
    n * cir + capC < 2 ^ 64 →
    (cir = 0 ∨ bit a 62 = true ∧ pir = 0 → meterColour a b m t cost = (.red, m)) ∧
    (cir ≠ 0 → bit a 62 = false →
      let add := min (n * cir) (capC - m.tc)
      let tc := m.tc + add
      let te := min (m.te + n * cir - add) capE
      meterColour a b m t cost =
        if cost ≤ tc then (.green, { m with last := t, tc := tc - cost, te := te })
        else if cost ≤ te then (.yellow, { m with last := t, tc := tc, te := te - cost })
        else (.red, { m with last := t, tc := tc, te := te })) ∧
    (cir ≠ 0 → bit a 62 = true → pir ≠ 0 →
      let tp := min (m.te + n * pir) capE
      let tc := min (m.tc + n * cir) capC
      meterColour a b m t cost =
        if tp < cost then (.red, { m with last := t, tc := tc, te := tp })
        else if tc < cost then (.yellow, { m with last := t, tc := tc, te := tp - cost })
        else (.green, { m with last := t, tc := tc - cost, te := tp - cost }))) ∧
  (∀ (s : State) (o k : Nat) (y : QPkt),
    let t := enqueue o k y s
    let joins : Prop := (queueOf t o k).map (·.pkt) = (queueOf s o k).map (·.pkt) ++ [y.pkt] ∧ t.drops = s.drops
    let lost : Prop := (∀ p j, queueOf t p j = queueOf s p j) ∧
      tget 0 t.drops (64 * o + 14) = tget 0 s.drops (64 * o + 14) + 1
    (meterOf s o y.pkt = none → joins) ∧
    ∀ n, meterOf s o y.pkt = some n →
      let m : Meter := tget {} s.traffic.meters n
      let m' : Meter := tget {} t.traffic.meters n
      let size := BitVec.ofNat 48 (packetSize y.pkt)
      let room : Prop := (queueOf s o 7).length + (queueOf s o 8).length < bits (setting s (0x30000 + o)) 51 40
      match (meterColour (setting s (0x38000 + n)) (setting s (0x38400 + n)) m (fabricTime s) (packetSize y.pkt * 1250)).1 with
      | .green => joins ∧ m'.green = m.green + 1 ∧ m'.greenB = m.greenB + size
      | .yellow => m'.yellow = m.yellow + 1 ∧ m'.yellowB = m.yellowB + size ∧ (room → joins ∧ m'.discards = m.discards) ∧
          (¬ room → lost ∧ m'.discards = m.discards + 1)
      | .red => lost ∧ m'.red = m.red + 1 ∧ m'.redB = m.redB + size) ∧
  ∀ (s : State) (n v : Nat), n < 1024 → ∀ a, a = 0x38000 + n ∨ a = 0x38400 + n → ∃ t, applyRecord a v s = .inr t ∧
    let b := setting t (0x38400 + n)
    let m : Meter := tget {} t.traffic.meters n
    m.tc = bits b 23 0 * 1250 ∧ m.te = bits b 47 24 * 1250 ∧ m.last = fabricTime s ∧
    setting t a = v % 2 ^ 64 ∧ ∀ k, k ≠ n → tget {} t.traffic.meters k = tget {} s.traffic.meters k

/-- R206, R216, R257, R306 to R309, R312 to R314: which packet leaves a port next, when its gate lets it, and what a meter makes of
one that joins a queue. -/
def Obligations.EgressIsScheduled : Prop := Rules.gatesRule ∧ Rules.nextPacketRule ∧ Rules.metersRule

/-! ## Drone lanes, reference and fabric time (chapter 9) -/

/-- A lane keeps to the COMMA limit: what is under way ends within 254 code groups of the last COMMA. -/
def Sys2Proof.Rules.commaSoon (d : Drone) : Prop :=
  (∀ f ∈ d.txSets, (∃ b, f = .beat b) ∨ ∃ v k, f = .tmark v k) ∧
  (d.sinceComma + d.txSet.length ≤ 253 ∨ d.sinceComma ≤ 254 ∧ d.txSet = [] ∧ d.txFrame = none ∧ d.txRest ≠ [])

/-- R275 to R280: the line of a drone lane. What a command gives a lane to send is noted once, and the lane's other registers
stay. Every code group decodes to what was encoded and follows the running disparity; an ordinary frame as it is sent passes the
checks of its receiver; COMMA comes within 256 code groups; an ordered set carries the moment at which it begins; an urgent frame
that is ready starts at the next code group, before whatever waits, and the frame it cuts off is sent again whole after it; once
begun it is not abandoned. A lane that may send puts one code group on its pins in a tick. The tables of the code are the family's
(PRESUMED, log entry 108). -/
def Sys2Proof.Rules.lineRule : Prop :=
  (∀ (s : State) (n : Nat) (f : DroneOut),
    (droneSend n f s).out.drone = s.out.drone ++ [(n, f)] ∧ ChangesOnly [.drones, .out] s (droneSend n f s) ∧
    ∀ m, getDrone (droneSend n f s) m = if m = n then giveLine f (getDrone s n) else getDrone s m) ∧
  (∀ (rd : Bool) (c : CodeGroup), (∃ b, c = .data b) ∨ (∃ b ∈ kCodes, c = .k b) →
    let g := encodeGroup rd c
    let w := ones 10 g.1.toNat
    decodeGroup rd g.1 = some c ∧ 4 ≤ w ∧ w ≤ 6 ∧ (rd = false → 5 ≤ w) ∧ (rd = true → w ≤ 5) ∧
    g.2 = if w = 5 then rd else !rd) ∧
  (∀ (t : Nat) (body : List Byte), ftypeKnown t = true → body.length ≤ 250 →
    frameBytesFault ((((frameGroups kSof t body).drop 1).dropLast).map CodeGroup.byte) = none) ∧
  (∀ (s : State) (d : Drone), Rules.commaSoon d → Rules.commaSoon (sendGroup s d)) ∧
  (∀ (s : State) (d : Drone), d.txSet = [] → d.txUrgent = [] → d.sinceComma < 244 →
    let r := lineNext s d
    (∀ b fs, d.txSets = .beat b :: fs → r.1 = .k kBeat ∧ r.2 = { d with
      txSets := fs, txSet := [.data b], beatAt := some s.clock.now }) ∧
    (∀ v k fs, d.txSets = .tmark v k :: fs →
      let v := BitVec.ofNat 64 (fabricTime s)
      r.1 = .k kTmark ∧ r.2 = { d with
        txSets := fs, txSet := (leBytes 8 v.toNat ++ [tmarkCrc v]).map .data, tmarkAt := some s.clock.now })) ∧
  (∀ (s : State) (d : Drone), d.txSet = [] →
    let r := lineNext s d
    (∀ ft body fs, (d.txRest = [] ∨ d.txFrame.isSome = true) → d.txUrgent = .urgent ft body :: fs →
      r.1 = .k kSou ∧ r.2 = { d with
        txUrgent := fs, txFrame := none, txFrames := d.txFrame.toList ++ d.txFrames
        txRest := (frameGroups kSou ft.toNat (leBytes 24 body.toNat)).drop 1 }) ∧
    (∀ c cs, d.txFrame = none → d.txRest = c :: cs →
      r.1 = c ∧ r.2 = { d with txRest := cs } ∨ r.2.txFrame = none ∧ r.2.txRest = c :: cs)) ∧
  ∀ (s : State) (m : Nat), getDrone (driveLines s) m =
    if laneSends s m then sendGroup s (getDrone s m) else { getDrone s m with pins := none }

/-- R277, R281, R295, R279, R348: a BEAT is sent with the next beat number and DRAINING in its `state`, 150 code groups after the
last one's start at the earliest; a valid one is noted, and enters DRAINING in the fault table, one with a reserved bit is not;
640 ticks without one, which run from comma alignment on a lane that has had none (log entry 103, DESIGN CHOICE), return the lane
to LOCK; four aligned commas take it to HELLO, and let a relay that had lost its reference drive again where it is the upstream or
the alternate lane (R285; log entry 43, DEDUCED); a frame error is counted. -/
def Sys2Proof.Rules.beatsRule : Prop :=
  ∀ (s : State) (m : BitVec 5) (b : Byte) (groups : List (BitVec 10)),
    let n := m.toNat
    let d := getDrone s n
    (laneSends s n = true → (∀ b, .beat b ∉ d.txSets) → (∀ t0, d.beatAt = some t0 → 150 ≤ s.clock.now - t0) →
      exec (.droneBeatTx m) s = .next (updDrone n (fun d => { d with beatNo := d.beatNo + 1 })
        (droneSend n (.beat (BitVec.ofNat 8 (64 * b2n s.course.draining + d.beatNo.toNat))) s))) ∧
    ((∃ b, .beat b ∈ d.txSets) ∨ (∃ t0, d.beatAt = some t0 ∧ s.clock.now - t0 < 150) ∨ laneSends s n = false →
      exec (.droneBeatTx m) s = .next s) ∧
    (d.state = .up → bits b.toNat 7 6 = 0 → exec (.beat m b) s =
      .next (updDrone n (fun d => { d with lastBeat := some s.clock.now, peerState := 0 }) s)) ∧
    (d.state = .up → bits b.toNat 7 6 = 1 → faultOf s (dePeer d) = .up → exec (.beat m b) s =
      .next (setFault (dePeer d) .draining
        (updDrone n (fun d => { d with lastBeat := some s.clock.now, peerState := 1 }) s))) ∧
    (2 ≤ bits b.toNat 7 6 → exec (.beat m b) s = .next s) ∧
    (∀ t0, d.state = .up → d.lastBeat = some t0 → 640 ≤ s.clock.now - t0 →
      Answers (exec (.droneLaneLost m) s) fun t => (getDrone t n).state = .lock ∧ (getDrone t n).lastBeat = none) ∧
    (∀ t0, d.lastBeat = some t0 → s.clock.now - t0 < 640 → exec (.droneLaneLost m) s = .next s) ∧
    (d.state = .lock → Answers (exec (.commaAlign m) s) fun t =>
      getDrone t n = { d with state := .hello, since := s.clock.now, lastBeat := some s.clock.now } ∧
      t.clock.lost = (s.clock.lost &&
        !(isRelay s && (n == upLane s || bit s.clock.refCtrl.toNat 18 && n == altLane s))) ∧
      ChangesOnly [.drones, .clock] s t) ∧
    (d.state ≠ .lock → exec (.commaAlign m) s = .next s) ∧
    (∀ e, frameFault groups = some e → d.state ≠ .disabled → exec (.droneFrameError m groups) s =
      .next (updDrone n (fun d => { d with
        frameErrs := d.frameErrs + 1, codeErr := if e = .code then satInc d.codeErr else d.codeErr }) s)) ∧
    (frameFault groups = none → exec (.droneFrameError m groups) s = .next s)

/-- R295 to R297: HELLO is sent when due and answers with the module's own hello; one that passes every check of Table 9.14 is
accepted, with the lower of the two levels, and takes a lane in HELLO to MEASURE; the first one fixes the neighbour's level; one
that fails quarantines the lane with the cause. -/
def Sys2Proof.Rules.hellosRule : Prop :=
  ∀ (s : State) (m : BitVec 5) (b : BitVec 224),
    let n := m.toNat
    let d := getDrone s n
    (laneHears s n = true → droneDrives s n = true → d.helloAt = none →
      exec (.helloTx m) s = .next (updDrone n (fun d => { d with helloAt := some s.clock.now })
        (droneSend n (.hello (helloBody s n)) s))) ∧
    (d.state = .hello → helloCause s n b = 0 → Answers (exec (.hello m b) s) fun t =>
      (getDrone t n).state = .measure ∧ (getDrone t n).accepted = some b ∧
      (getDrone t n).level = BitVec.ofNat 2 (min (deMaxLevel d) (helloField b 13 1)) ∧
      (getDrone t n).measureAt = s.clock.now ∧ tget 0 t.course.levels (dePeer d) = helloField b 13 1) ∧
    (d.state = .up → helloCause s n b = 0 → Answers (exec (.hello m b) s) fun t =>
      (getDrone t n).state = .up ∧ (getDrone t n).accepted = some b) ∧
    (laneHears s n = true → helloCause s n b ≠ 0 → Answers (exec (.hello m b) s) fun t =>
      (getDrone t n).state = .quarantined ∧ (getDrone t n).qCause = BitVec.ofNat 8 (helloCause s n b) ∧
      (getDrone t n).accepted = none) ∧
    (laneHears s n = false → exec (.hello m b) s = .next s)

/-- R300: a DELAY_REQ is answered at once with the arrival and departure by the module's own fine time; DELAY_REQ_TX sends the
next request of a lane that measures; the response is one sample, rounded down (log entry 50, DEDUCED), and the sixteenth, when none is further than 64 fine
units from the ninth, gives the lane's delay and takes MEASURE to UP. -/
def Sys2Proof.Rules.laneDelayRule : Prop :=
  ∀ (s : State) (m : BitVec 5) (r : BitVec 32) (t1 t2 t3 : BitVec 64),
    let n := m.toNat
    let d := getDrone s n
    let now := BitVec.ofNat 64 s.clock.fine
    let x := ((now - t1) - (t3 - t2)).toNat / 2
    (laneHears s n = true → droneDrives s n = true → exec (.delayReq m r t1) s =
      .next (droneSend n (.delayResp r t1 now now) s)) ∧
    (laneMeasures s n = true → droneDrives s n = true → s.clock.now - d.measureAt < 1250000 → d.reqAt = none →
      exec (.delayReqTx m) s = .next (updDrone n (fun d => { d with
        reqId := d.reqId + 1, reqAt := some s.clock.now, waiting := true }) (droneSend n (.delayReq d.reqId now) s))) ∧
    (laneMeasures s n = true → d.waiting = true → r + 1 = d.reqId → d.samples.length < 15 →
      exec (.delayResp m r t1 t2 t3) s =
        .next (updDrone n (fun d => { d with samples := d.samples ++ [x], waiting := false }) s)) ∧
    (laneMeasures s n = true → d.state = .measure → d.waiting = true → r + 1 = d.reqId → d.samples.length = 15 →
      (ninth (d.samples ++ [x]) 64).2 = true → (ninth (d.samples ++ [x]) 64).1 ≤ 48000 →
      Answers (exec (.delayResp m r t1 t2 t3) s) fun t =>
        (getDrone t n).state = .up ∧ (getDrone t n).measured = true ∧
        (getDrone t n).delayFine = BitVec.ofNat 16 (ninth (d.samples ++ [x]) 64).1) ∧
    (d.waiting = false → exec (.delayResp m r t1 t2 t3) s = .next s)

/-- R275 to R281, R295 to R297, R300: drone lanes, their line, their hellos and their delay. Completes: droneBeatTx, beat,
droneLaneLost, commaAlign, droneFrameError, helloTx, hello, delayReq, delayReqTx, delayResp. -/
def Obligations.DroneLanesComeUp : Prop := Rules.lineRule ∧ Rules.beatsRule ∧ Rules.hellosRule ∧ Rules.laneDelayRule

/-- R278, R302, R304: TMARK_TX sends fabric time on an UP lane, 1,024 ticks after the last TMARK's start at the earliest; a relay
follows the TMARKs of its upstream: it takes its time from the first, when the ports that waited for it go to LOCK, moves by one
fine unit for a small error, and steps forward for a large one; a step is counted and posted as TIME_STEP. A phase ahead of the
mark is slowed and never set back (log entry 81, DEDUCED). On another lane the fourth mark in turn that is more than 8 ns off is
TIME_SKEW. -/
def Sys2Proof.Rules.fabricTimeRule : Prop :=
  ∀ (s : State) (m : BitVec 5) (v : BitVec 64),
    let n := m.toNat
    let d := getDrone s n
    let c := s.clock
    let target := v.toNat * 64 + d.delayFine.toNat
    let step (fine slew : Nat) : Prop := ∃ u, exec (.tmark m v (tmarkCrc v)) s = .next (postEvent 7 5 n [] u) ∧
      u.clock = { c with fine := fine, slew := slew, timeSteps := satInc c.timeSteps } ∧
      ChangesOnly [.clock, .perf, .ports] s u
    (d.state = .up → c.timeValid = true → droneDrives s n = true → (∀ f ∈ d.txSets, ∃ b, f = .beat b) →
      (∀ t0, d.tmarkAt = some t0 → 1024 ≤ c.now - t0) →
      exec (.tmarkTx m) s = .next (droneSend n
        (.tmark (BitVec.ofNat 64 (fabricTime s)) (tmarkCrc (BitVec.ofNat 64 (fabricTime s)))) s)) ∧
    ((∃ v k, .tmark v k ∈ d.txSets) ∨ (∃ t0, d.tmarkAt = some t0 ∧ c.now - t0 < 1024) ∨ d.state ≠ .up ∨ c.timeValid = false →
      exec (.tmarkTx m) s = .next s) ∧
    (d.state = .up → isUpstream s n = true → c.holdover = false → c.locked = true → c.timeValid = true →
      (c.fine < target → target ≤ c.fine + 64 → Answers (exec (.tmark m v (tmarkCrc v)) s) fun t =>
        t.clock = { c with fine := c.fine + 1 } ∧ ChangesOnly [.clock, .perf, .ports] s t) ∧
      (target = c.fine → exec (.tmark m v (tmarkCrc v)) s = .next s) ∧
      (target < c.fine → c.fine ≤ target + 64 →
        exec (.tmark m v (tmarkCrc v)) s = .next { s with clock := { c with slew := 1 } }) ∧
      (c.fine + 64 < target → step target 0) ∧
      (target + 64 < c.fine → step c.fine (c.fine - target))) ∧
    (d.state = .up → isUpstream s n = true → c.holdover = false → c.locked = true → c.timeValid = false →
      Answers (exec (.tmark m v (tmarkCrc v)) s) fun t => t.clock.timeValid = true ∧ t.clock.fine = target ∧
        ∀ p, p < 128 → (getPort s p).state = .waitRef → bridgeDrives s (peBridge (getPort s p)) = true →
          (getPort t p).state = .lock) ∧
    (d.state = .up → isUpstream s n = false → c.timeValid = true →
      let off := 640 < ((target : Int) - c.fine).natAbs
      let u := updDrone n (fun d => { d with skew := if off then d.skew + 1 else 0 }) s
      exec (.tmark m v (tmarkCrc v)) s = .next (if off ∧ d.skew = 3 then postEvent 7 6 n [] u else u)) ∧
    (∀ k, k ≠ tmarkCrc v → exec (.tmark m v k) s = .next s) ∧
    (isUpstream s n = true → c.holdover = true → exec (.tmark m v (tmarkCrc v)) s = .next s)

/-- R284, R285, R300, R19: REF_LOCK of a source sets `locked` and loads FTIME_INIT once; REF_LOCK of a relay whose upstream offers
the reference ends a loss, a holdover and a bridge's loss of lock (log entry 43, DEDUCED), and every lane measures its delay anew;
ALT_LANE_LOCK ends a holdover on the alternative lane; HOLDOVER_EXPIRY after 1 ms makes a relay with `become_source` the source,
and otherwise loses the reference, when every port in use waits for it: every one but those DISABLED or QUARANTINED, which keep
their state (log entry 83, DEDUCED); LOSS_OF_LOCK makes the ports of that bridge wait and its drone lanes fall silent, and is
counted for the headstock. -/
def Sys2Proof.Rules.referenceRule : Prop :=
  ∀ s : State,
    let c := s.clock
    let inUse (p : Nat) : Prop := (getPort s p).state ≠ .disabled ∧ (getPort s p).state ≠ .quarantined
    (s.boot.life = .running → refSource s = 1 ∨ refSource s = 2 → c.locked = false → Answers (exec .refLock s) fun t =>
      t.clock.locked = true ∧ t.clock.timeValid = true ∧ t.clock.relayDelay = 0 ∧
      t.clock.fine = if c.timeValid then c.fine else c.ftimeInit.toNat * 64) ∧
    (s.boot.life = .running → refSource s = 0 → offersRef s (upstream s) = true →
      c.locked = false ∨ c.holdover = true ∨ c.bridgeLost ≠ [] → Answers (exec .refLock s) fun t =>
        t.clock = { c with locked := true, lost := false, holdover := false, bridgeLost := [] } ∧
        ∀ m, (getDrone s m).state = .up ∨ (getDrone s m).state = .measure →
          getDrone t m = { getDrone s m with
            measured := false, samples := [], tries := 0, waiting := false, measureAt := c.now }) ∧
    (s.boot.life ≠ .running ∨ refSource s = 0 ∧ offersRef s (upstream s) = false →
      exec .refLock s = .next s) ∧
    (c.holdover = true → bit c.refCtrl.toNat 18 = true → (getDrone s (altLane s)).state = .up → offersRef s (altLane s) = true →
      Answers (exec .altLaneLock s) fun t => t.clock.holdover = false ∧ t.clock.onAlt = true) ∧
    (c.holdover = true → 1250000 ≤ c.now - c.holdoverAt → bit c.refCtrl.toNat 12 = true →
      Answers (exec .holdoverExpiry s) fun t =>
        t.clock.holdover = false ∧ refSource t = 1 ∧ t.clock.relayDelay = 0 ∧ t.clock.locked = c.locked) ∧
    (c.holdover = true → 1250000 ≤ c.now - c.holdoverAt → bit c.refCtrl.toNat 12 = false →
      Answers (exec .holdoverExpiry s) fun t =>
        t.clock.lost = true ∧ t.clock.locked = false ∧ ∀ p, p < 128 → inUse p → (getPort t p).state = .waitRef) ∧
    (c.holdover = true → c.now - c.holdoverAt < 1250000 → exec .holdoverExpiry s = .next s) ∧
    ∀ b : BitVec 2,
      (b.toNat < s.config.bridges → c.bridgeLost.contains b.toNat = false → Answers (exec (.lossOfLock b) s) fun t =>
        t.clock.bridgeLost = b.toNat :: c.bridgeLost ∧ t.clock.lockLosses = c.lockLosses + 1 ∧
        (∀ p, p < 128 → inUse p → peEnable (getPort s p) = true → peBridge (getPort s p) = b.toNat →
          (getPort t p).state = .waitRef) ∧
        ∀ m, droneBridge m = b.toNat → droneDrives t m = false) ∧
      (s.config.bridges ≤ b.toNat ∨ c.bridgeLost.contains b.toNat = true → exec (.lossOfLock b) s = .next s)

/-- R278, R284, R285, R300, R302, R304: the reference clock and fabric time. Completes: tmarkTx, tmark, refLock, altLaneLock,
holdoverExpiry, lossOfLock. -/
def Obligations.TimeFollowsTheReference : Prop := Rules.fabricTimeRule ∧ Rules.referenceRule

/-- R273, R239, R289, R413: PORT_TABLE_LOAD. A table that cannot be read, that breaks R10, that breaks a range or has a clash, or that
changes the lanes, kind or dimension of a port in use is refused with the detail of that check, and changes no port. One that is
taken: a DISABLED port takes its entry, and comes up where it is enabled, its lanes have peg entries and FABRIC_ID lets it; a port
in use that stays enabled goes on as it is, with its new entry for its next LOCK; one that is not enabled any more is DISABLED at
once (log entry 83, DEDUCED). An entry's ranges hold whether or not it is enabled (log entry 44, DEDUCED). -/
def Sys2Proof.Rules.portTableRule : Prop :=
  ∀ (s : State) (sq : BitVec 8) (d : Desc) (h : HostRead), Taken s sq d 0x39 → dRsvdOk d [(16, 8)] = true →
    let u := taking s sq d
    let t0 := tokOf s sq d
    let refused (detail : Nat) : Prop := exec (.portTableLoad sq d h) s = .next (complete t0 1 detail 0 [] u)
    (hostRead u (field d 16 8) 4096 h = none →
      exec (.portTableLoad sq d h) s = .next (complete t0 1 5 0 [] (noteRead (field d 16 8) 4096 h u))) ∧
    ∀ bs, hostRead u (field d 16 8) 4096 h = some bs →
      let es := (chunksOf 32 bs).map fun b => BitVec.ofNat 256 (leNat b)
      let moved : Prop := ∃ p, p < 128 ∧ (getPort u p).state ≠ .disabled ∧
        portShape (getPort u p).nextEntry ≠ portShape (es.getD p 0)
      let fits : Prop := (∀ e ∈ es, portRangeOk u e = true) ∧ noClash es = true
      ((∃ e ∈ es, portRsvdOk e = false) → refused 2) ∧
      ((∀ e ∈ es, portRsvdOk e = true) → ¬ fits → refused 3) ∧
      ((∀ e ∈ es, portRsvdOk e = true) → fits → moved → refused 4) ∧
      ((∀ e ∈ es, portRsvdOk e = true) → fits → ¬ moved → Answers (exec (.portTableLoad sq d h) s) fun t =>
        ∀ p, p < 128 →
          let q := getPort u p
          let e := es.getD p 0
          let on := bit (efield e 0 1) 0
          let pegs : Prop := ∀ j, j < 2 ^ efield e 1 1 → pegMain u (pegIndex { q with entry := e } j) ≠ 0
          (getPort t p).nextEntry = e ∧
          (on = false → (getPort t p).entry = e ∧ (getPort t p).state = .disabled) ∧
          (on = true → q.state ≠ .disabled → (getPort t p).entry = q.entry ∧ (getPort t p).state = q.state) ∧
          (on = true → q.state = .disabled → (getPort t p).entry = e ∧
            (fabricIdOk u = true → pegs → (getPort t p).state = if refReady u (efield e 2 1) then .lock else .waitRef) ∧
            (fabricIdOk u = false ∨ ¬ pegs → (getPort t p).state = .disabled)))

/-- R287, R295, R413: DRONE_TABLE_LOAD and PEG_LOAD, refused likewise. Every lane takes its entry; one whose entry changes starts
again (log entry 51, DEDUCED), and comes up where it is enabled, the module has it and it has a peg entry. PEG_LOAD replaces the
table, which a lane takes when it next enters LOCK. -/
def Sys2Proof.Rules.laneTablesRule : Prop :=
  ∀ (s : State) (sq : BitVec 8) (d : Desc) (h : HostRead), dRsvdOk d [(16, 8)] = true →
    let u := taking s sq d
    let t0 := tokOf s sq d
    let at' := field d 16 8
    (Taken s sq d 0x3A →
      let refused (detail : Nat) : Prop := exec (.droneTableLoad sq d h) s = .next (complete t0 1 detail 0 [] u)
      (hostRead u at' 768 h = none →
        exec (.droneTableLoad sq d h) s = .next (complete t0 1 5 0 [] (noteRead at' 768 h u))) ∧
      ∀ bs, hostRead u at' 768 h = some bs →
        let es := (chunksOf 24 bs).map fun b => BitVec.ofNat 192 (leNat b)
        let fits : Prop := (∀ e ∈ es, droneRangeOk u e = true) ∧ levelsDiffer es = false ∧
          ∀ m, m < 32 → bit (efield (es.getD m 0) 0 1) 0 = true → droneExists u m = true
        ((∃ e ∈ es, droneRsvdOk e = false) → refused 2) ∧
        ((∀ e ∈ es, droneRsvdOk e = true) → ¬ fits → refused 3) ∧
        ((∀ e ∈ es, droneRsvdOk e = true) → fits → Answers (exec (.droneTableLoad sq d h) s) fun t =>
          ∀ m, m < 32 →
            let e := es.getD m 0
            let anew : Prop := (getDrone u m).entry ≠ e ∨ (getDrone u m).state = .disabled
            (getDrone t m).entry = e ∧ (¬ anew → (getDrone t m).state = (getDrone u m).state) ∧
            (anew → (getDrone t m).state = if bit (efield e 0 1) 0 ∧ pegMain u (256 + m) ≠ 0 then .lock else .disabled))) ∧
    (Taken s sq d 0x3B →
      let refused (detail : Nat) : Prop := exec (.pegLoad sq d h) s = .next (complete t0 1 detail 0 [] u)
      (hostRead u at' 4608 h = none → exec (.pegLoad sq d h) s = .next (complete t0 1 5 0 [] (noteRead at' 4608 h u))) ∧
      ∀ bs, hostRead u at' 4608 h = some bs →
        let es := (chunksOf 16 bs).map fun b => BitVec.ofNat 128 (leNat b)
        let fits : Prop := (∀ e ∈ es, pegRangeOk e = true) ∧ ∀ e ∈ es.drop 256, pegDroneOk e = true
        ((∃ e ∈ es, pegRsvdOk e = false) → refused 2) ∧
        ((∀ e ∈ es, pegRsvdOk e = true) → ¬ fits → refused 3) ∧
        ((∀ e ∈ es, pegRsvdOk e = true) → fits →
          Answers (exec (.pegLoad sq d h) s) fun t => ∀ i, i < 288 → pegEntry t i = es.getD i 0))

/-- R205, R289, R296, Table 13.6: PORT_RESTART takes a fabric port, of whatever kind and in whatever state but DISABLED, to LOCK, with
the entry loaded for it, or to WAIT_REF while the reference is not there; a port whose neighbour's drone lanes are all quarantined
is quarantined again at once, and the command completes with QUARANTINED (log entry 40, DEDUCED). It takes a drone lane that is not
DISABLED to LOCK. It is refused with STATE where the port or lane is DISABLED, and with RANGE where there is none. -/
def Sys2Proof.Rules.portRestartRule : Prop :=
  ∀ (s : State) (sq : BitVec 8) (d : Desc), Taken s sq d 0x3C → dRsvdOk d [(8, 1), (9, 1)] = true →
    let u := taking s sq d
    let t0 := tokOf s sq d
    let i := field d 8 1
    let refused (detail : Nat) : Prop := exec (.portRestart sq d) s = .next (complete t0 1 detail 0 [] u)
    (field d 9 1 = 0 → i < 128 →
      let q := getPort u i
      let barred : Bool := peModule q && allQuarantined u (pePeer q)
      (q.state = .disabled → refused 4) ∧
      (q.state ≠ .disabled → q.state ≠ .up → barred = false → Answers (exec (.portRestart sq d) s) fun t =>
        (getPort t i).state = (if refReady u (peBridge q) then .lock else .waitRef) ∧
        (refReady u (peBridge q) = true → (getPort t i).entry = q.nextEntry)) ∧
      (q.state = .up → barred = false → refReady u (peBridge q) = true → Answers (exec (.portRestart sq d) s) fun t =>
        (getPort t i).state = .lock ∧ (getPort t i).restarts = satInc q.restarts ∧ portDown t i = true) ∧
      (q.state ≠ .disabled → barred = true →
        ∃ w, exec (.portRestart sq d) s = .next (complete t0 0x0C 0 0 [] w) ∧ (getPort w i).state = .quarantined ∧
          ∃ m, deEnable (getDrone u m) = true ∧ dePeer (getDrone u m) = pePeer q ∧ (getPort w i).qCause = (getDrone u m).qCause)) ∧
    (field d 9 1 = 1 → i < 32 →
      ((getDrone u i).state = .disabled → refused 4) ∧
      ((getDrone u i).state ≠ .disabled → Answers (exec (.portRestart sq d) s) fun t =>
        (getDrone t i).state = .lock ∧ (getDrone t i).accepted = none ∧ (getDrone t i).qCause = 0) ∧
      ((getDrone u i).state ≠ .disabled → laneHears u i = false → exec (.portRestart sq d) s = .next (ok t0 0 [] (droneLock i u)))) ∧
    (field d 9 1 = 0 ∧ 128 ≤ i ∨ field d 9 1 = 1 ∧ 32 ≤ i ∨ 2 ≤ field d 9 1 → refused 3)

/-- R273, R287, R289, R295, R413: the tables of ports, lanes and pegs, while nothing is in use and while ports and lanes are, and
the restart of one. Completes: portTableLoad, droneTableLoad, pegLoad, portRestart. -/
def Obligations.TableLoadsAndRestart : Prop := Rules.portTableRule ∧ Rules.laneTablesRule ∧ Rules.portRestartRule

/-! ## Groups: cast-on to bind-off (R138 to R142, R163) -/

/-- A group with nothing in progress: no operation, command, packet, transfer or completion waits in it. -/
def Sys2Proof.Rules.restful (g : Group) : Prop :=
  g.ops = [] ∧ g.queue = [] ∧ g.held = [] ∧ g.earlyAborts = [] ∧ g.heldBufs = [] ∧ g.transfers = [] ∧ g.pauseToks = [] ∧
  g.bindTok = none ∧ g.recast = none

/-- A group in which nothing is due, whatever operations are posted: none of them is done, and no step ends; no command, held packet,
transfer or retry waits to go on. Contexts and buffers may be open, and transfers may await their TACK. -/
def Sys2Proof.Rules.still (g : Group) : Prop :=
  (∀ o ∈ g.ops, opDone g o = false ∧ (o.op = 6 → o.resend.isSome = true ∨ ownedDone g o = false)) ∧
  g.queue = [] ∧ g.held = [] ∧ g.earlyAborts = [] ∧ g.heldBufs = [] ∧ (∀ x ∈ g.transfers, x.sent = true) ∧
  (∀ i ∈ g.insts, i.retries = []) ∧ g.secureReq = false ∧ g.bindTok = none ∧ g.recast = none

/-- A command is no longer outstanding: it has completed. -/
def Sys2Proof.Rules.finished (t : Tok) (s : State) : Prop := ∀ x ∈ s.host.outstanding, x.id ≠ t.id

/-- R138: CAST_ON of a record that fails check n of Table 5.5 completes with that check's status and detail n, and tells the
coordinator; where that is this module, it tells every module with CAST_ABORT and the same status (log entry 70, DEDUCED), and a
cast-on of the group that it has in progress ends; one that passes reserves everything and reports READY to the
coordinator, which is another module; of a group that names no other module, it goes on at once: the group is active, its row
counters are 0, and it completes. Completes: castOn. -/
def Obligations.CastOnChecksAndReserves : Prop :=
  ∀ (s : State) (sq : BitVec 8) (d : Desc) (h : HostRead) (bs : List Byte),
    let u := taking s sq d
    let t0 := tokOf s sq d
    let r := recordOf bs
    Taken s sq d 0x10 → dRsvdOk d [(8, 3), (16, 8), (24, 4)] = true →
    hostRead u (field d 16 8) (field d 24 4) h = some bs →
    ((field d 24 4 < 128 ∨ recordLenOk bs (field d 24 4) = false) →
      exec (.castOn sq d h) s = .next (complete t0 1 1 0 [] u)) ∧
    (128 ≤ field d 24 4 → recordLenOk bs (field d 24 4) = true →
      (∀ m, castCheck u (dGroup d) bs r ≠ 0 → coordinatorOf r = some m → m ≠ u.label →
        let st := castStatus (castCheck u (dGroup d) bs r)
        exec (.castOn sq d h) s = .next (complete t0 st (castCheck u (dGroup d) bs r) 0 []
          (sendCtl (castPacket u 0x51 m r.groupId st 0) u))) ∧
      (castCheck u (dGroup d) bs r ≠ 0 → coordinatorOf r = some u.label →
        let st := castStatus (castCheck u (dGroup d) bs r)
        ((∀ g, findGroup u r.groupId = some g → coordinates u g = false) →
          exec (.castOn sq d h) s = .next (complete t0 st (castCheck u (dGroup d) bs r) 0 [] (castAll 0x53 r st u))) ∧
        (∀ g, findGroup u r.groupId = some g → coordinates u g = true → g.phase = .casting →
          Answers (exec (.castOn sq d h) s) fun t => findGroup t r.groupId = none ∧ Rules.finished t0 t ∧
            ∀ c, g.castTok = some c → Rules.finished c t)) ∧
      (∀ m, castCheck u (dGroup d) bs r = 0 → reserveGroup r (checkValue bs) [] u = none → coordinatorOf r = some m →
        m ≠ u.label → exec (.castOn sq d h) s = .next (complete t0 (castStatus 5) 5 0 []
          (sendCtl (castPacket u 0x51 m r.groupId (castStatus 5) 0) u))) ∧
      (∀ m g v, castCheck u (dGroup d) bs r = 0 → reserveGroup r (checkValue bs) [] u = some (g, v) →
        coordinatorOf r = some m → m ≠ u.label → v.label = u.label →
        let w := { v with groups := v.groups ++
          [{ g with castTok := some t0, castAt := v.clock.now, ready := [v.label] }] }
        exec (.castOn sq d h) s = .next (sendCtl (castPacket w 0x50 m g.id 0 g.check) w)) ∧
      (∀ g v, castCheck u (dGroup d) bs r = 0 → reserveGroup r (checkValue bs) [] u = some (g, v) →
        groupModules r = [v.label] → coordinatorOf r = some v.label →
        Answers (exec (.castOn sq d h) s) fun t =>
          (∃ g', findGroup t r.groupId = some g' ∧ g'.phase = .active ∧ g'.record = r) ∧
          (∀ k, k < r.rowCount → rowValue t (r.rowBase + k) = 0) ∧ Rules.finished t0 t))

/-- R138, R139 and step 7: a coordinator notes the READYs, and with the last that it awaits the group is active and the CAST_ON
completes; one that receives FAIL, or READY with another check value, ends the cast-on; a CAST_GO
makes the group active; CAST_ABORT and the passing of `cast_on_limit` end it, and the CAST_ON completes; a READY for a
group that is not being cast on is answered with CAST_ABORT. Completes: castReady, castFail, castGo, castAbort,
castOnLimitExpiry. -/
def Obligations.CastOnGoesOrEnds : Prop :=
  ∀ (s : State) (p : Packet) (g : Group) (t0 : Tok),
    let gid := field p.hdr 8 3
    let u := consume p s
    let ended (o : Host.Outcome State Fault Refusal) : Prop :=
      Answers o fun t => findGroup t gid = none ∧ Rules.finished t0 t
    (findGroup s gid = none →
      exec (.castReady p) s = .next (sendCtl (castPacket u 0x53 (pSrc p % 2048) gid 4 0) u)) ∧
    (findGroup s gid = some g → g.phase ≠ .casting →
      exec (.castReady p) s = .next (sendCtl (castPacket u 0x53 (pSrc p % 2048) gid 4 0) u)) ∧
    (findGroup s gid = some g → g.phase = .casting → g.castTok = some t0 →
      (coordinates s g = true → field p.hdr 16 8 = g.check.toNat →
        let m := pSrc p % 2048
        let ready := if g.ready.contains m then g.ready else g.ready ++ [m]
        ((∃ k ∈ castAwaits s g.record, k ∉ ready) →
          exec (.castReady p) s = .next (updGroup gid (fun g => { g with ready := ready }) u)) ∧
        ((∀ k ∈ castAwaits s g.record, k ∈ ready) → Rules.restful g → Answers (exec (.castReady p) s) fun t =>
          (∃ g', findGroup t gid = some g' ∧ g'.phase = .active) ∧ Rules.finished t0 t)) ∧
      (coordinates s g = false → exec (.castReady p) s = .next u) ∧
      (coordinates s g = true → field p.hdr 16 8 ≠ g.check.toNat → ended (exec (.castReady p) s)) ∧
      (coordinates s g = true → ended (exec (.castFail p) s)) ∧
      (Rules.restful g → Answers (exec (.castGo p) s) fun t =>
        (∃ g', findGroup t gid = some g' ∧ g'.phase = .active) ∧ Rules.finished t0 t) ∧
      ended (exec (.castAbort p) s) ∧
      (∀ w : BitVec 24, w.toNat = gid → g.record.castOnLimit ≤ s.clock.now - g.castAt →
        ended (exec (.castOnLimitExpiry w) s)) ∧
      (∀ w : BitVec 24, w.toNat = gid → s.clock.now - g.castAt < g.record.castOnLimit →
        exec (.castOnLimitExpiry w) s = .next s))

/-- R163: GROUP_PAUSE of an active group, with operations posted or without. It sets the group pausing, and completes at once where
no chunk is under way; where one is, the operations and their contexts stand, and the pause waits. Whatever command next settles
the group, the pause completes, for every GROUP_PAUSE that waits, once nothing is under way any more. GROUP_RESUME takes a paused
group on, and is refused for another. -/
def Sys2Proof.Rules.pauseRule : Prop :=
  (∀ (s : State) (sq : BitVec 8) (d : Desc), dRsvdOk d [(8, 3)] = true →
    let u := taking s sq d
    let t0 := tokOf s sq d
    let gid := dGroup d
    (∀ g, findGroup u gid = some g → g.phase = .active →
      (Taken s sq d 0x13 → g.pause = .paused → exec (.groupPause sq d) s = .next (ok t0 0 [] u)) ∧
      (Taken s sq d 0x13 → g.pause ≠ .paused →
        exec (.groupPause sq d) s =
          .next (settle gid (updGroup gid (fun g => { g with pause := .pausing, pauseToks := g.pauseToks ++ [t0] }) u)) ∧
        (Rules.still g → Answers (exec (.groupPause sq d) s) fun t =>
          ∃ g', findGroup t gid = some g' ∧ g'.ops = g.ops ∧ g'.insts = g.insts ∧
            if quiet u g then g'.pause = .paused ∧ g'.pauseToks = [] ∧ ∀ c ∈ t0 :: g.pauseToks, Rules.finished c t
            else g'.pause = .pausing ∧ g'.pauseToks = g.pauseToks ++ [t0] ∧ t.host = u.host)) ∧
      (Taken s sq d 0x14 → g.pause = .paused →
        exec (.groupResume sq d) s = .next (ok t0 0 [] (resumeGroup gid u)) ∧
        (Rules.still g → Answers (exec (.groupResume sq d) s) fun t =>
          (∃ g', findGroup t gid = some g' ∧ g'.pause = .running) ∧ Rules.finished t0 t)) ∧
      (Taken s sq d 0x14 → g.pause ≠ .paused → exec (.groupResume sq d) s = .next (complete t0 1 4 0 [] u))) ∧
    ((∀ g, findGroup u gid = some g → g.phase ≠ .active) →
      (Taken s sq d 0x13 → exec (.groupPause sq d) s = .next (complete t0 1 4 0 [] u)) ∧
      (Taken s sq d 0x14 → exec (.groupResume sq d) s = .next (complete t0 1 4 0 [] u)))) ∧
  ∀ (s : State) (gid : Nat) (g : Group), findGroup s gid = some g → g.phase = .active → g.pause = .pausing → Rules.still g →
    (quiet s g = true → findGroup (settle gid s) gid = some { g with pause := .paused, pauseToks := [] } ∧
      ∀ c ∈ g.pauseToks, Rules.finished c (settle gid s)) ∧
    (quiet s g = false → findGroup (settle gid s) gid = some g)

/-- R142: BIND_OFF of an active or faulted group. A pause ends with it, so that what was posted before can complete, and the
GROUP_PAUSEs that waited fail with STATE (log entry 25, DEDUCED). While an operation posted before is in progress it waits; in a
group with nothing in progress it ends the group and completes. It is refused where there is no such group, and where one is
pending. -/
def Sys2Proof.Rules.bindOffRule : Prop :=
  ∀ (s : State) (sq : BitVec 8) (d : Desc), Taken s sq d 0x11 → dRsvdOk d [(8, 3)] = true →
    let u := taking s sq d
    let t0 := tokOf s sq d
    let gid := dGroup d
    (∀ g, findGroup u gid = some g → g.phase = .active ∨ g.phase = .faulted → g.bindTok = none →
      exec (.bindOff sq d) s = .next (resumeGroup gid
        (updGroup gid (fun g => { g with phase := .binding, bindTok := some t0, pauseToks := [] })
          (g.pauseToks.foldl (fun w c => complete c 1 4 0 [] w) u))) ∧
      (Rules.restful g → Answers (exec (.bindOff sq d) s) fun t => findGroup t gid = none ∧ Rules.finished t0 t) ∧
      (Rules.still g → g.phase = .active → (∃ o ∈ g.ops, o.again = false) → Answers (exec (.bindOff sq d) s) fun t =>
        (∃ g', findGroup t gid = some g' ∧ g'.phase = .binding ∧ g'.bindTok = some t0 ∧ g'.pause = .running) ∧
        ∀ c ∈ g.pauseToks, Rules.finished c t)) ∧
    (∀ g, findGroup u gid = some g → g.phase = .casting ∨ g.phase = .binding ∨ g.bindTok.isSome = true →
      exec (.bindOff sq d) s = .next (complete t0 1 4 0 [] u)) ∧
    (findGroup u gid = none → exec (.bindOff sq d) s = .next (complete t0 1 4 0 [] u))

/-- R142, R163: pause, resume and bind-off of a group. Completes: groupPause, groupResume, bindOff. -/
def Obligations.PauseResumeAndBindOff : Prop := Rules.pauseRule ∧ Rules.bindOffRule

/-- R375, R376: GROUP_SAVE of a paused group writes its image and completes with the image's length, or with LENGTH where the
host's buffer is shorter; GROUP_RESTORE of an image that names this module and group restores the row counters, the last
committed step and the non-determinism counter. The restored group stands paused (the model's reading, log entry 23).
Completes: groupSave, groupRestore. -/
def Obligations.SaveAndRestore : Prop :=
  ∀ (s : State) (sq : BitVec 8) (d : Desc) (h : HostRead) (g : Group) (bs : List Byte) (es : List (List Byte)),
    let u := taking s sq d
    let t0 := tokOf s sq d
    let img := saveImage u g (field d 16 8)
    findGroup s (dGroup d) = some g → g.phase = .active →
    (Taken s sq d 0x15 → dRsvdOk d [(8, 3), (16, 8), (24, 8), (32, 4)] = true → g.pause = .paused → saveBlocked g = false →
      (img.length ≤ field d 32 4 →
        exec (.groupSave sq d) s = .next (ok t0 img.length [] (hostWrite (field d 24 8) img u))) ∧
      (field d 32 4 < img.length → exec (.groupSave sq d) s = .next (complete t0 1 6 0 [] u))) ∧
    (Taken s sq d 0x16 → dRsvdOk d [(8, 3), (16, 8), (24, 4)] = true → g.ops = [] → g.queue = [] →
      g.nextSeq = g.record.firstSeq → hostRead u (field d 16 8) (field d 24 4) h = some bs →
      leAt bs 0 2 = 1 → leAt bs 2 2 = s.label → leAt bs 4 4 = g.id → leAt bs 16 8 = g.check.toNat →
      leAt bs 48 2 = g.record.rowCount → 128 + 8 * g.record.rowCount ≤ field d 24 4 →
      instEntries (leAt bs 28 4) (bs.drop (128 + 8 * g.record.rowCount)) = some es →
      (∀ e ∈ es, ∃ i ∈ g.insts, savedNode i = leAt e 0 2) →
      Answers (exec (.groupRestore sq d h) s) fun t =>
        (∃ g', findGroup t (dGroup d) = some g' ∧ g'.pause = .paused ∧ g'.lastStep = leAt bs 32 8 ∧
          g'.nondet.toNat = leAt bs 40 8 ∧ g'.record = g.record) ∧
        (∀ k, k < g.record.rowCount → rowValue t (g.record.rowBase + k) = leAt bs (128 + 8 * k) 8) ∧ Rules.finished t0 t)

/-- Table 12.7: the 544 bytes of a provenance record over its content. -/
def Sys2Proof.Rules.isProv (s : State) (content : List Byte) (sign : Bool) (bs : List Byte) : Prop :=
  let i := s.flash.identity
  let at' (o n : Nat) : List Byte := (bs.drop o).take n
  bs.length = 544 ∧ at' 0 384 = content ∧ at' 384 64 = sha512 content ∧ at' 448 8 = leBytes 8 i.serial.toNat ∧
  at' 456 2 = leBytes 2 s.label ∧ at' 458 1 = leBytes 1 (b2n i.gradeH) ∧ at' 459 1 = [0x11] ∧
  at' 460 4 = leBytes 4 s.boot.build.toNat ∧ at' 464 8 = leBytes 8 (fabricTime s) ∧ at' 472 8 = leBytes 8 0 ∧
  at' 480 64 = if sign then edSign i.seed (at' 384 96) else List.replicate 64 0

/-- R378, R380, R426: PROVENANCE writes the record kept of an operation, as Table 12.7 has it, signed where `sign` asks for it; without
a valid identity a signed one is refused, and while an attestation report is being signed it waits for it, and is then signed in
the order made. An operation of which no record is kept is refused. -/
def Sys2Proof.Rules.provenanceRule : Prop :=
  (∀ (s : State) (sq : BitVec 8) (d : Desc) (g : Group), Taken s sq d 0x1A →
    dRsvdOk d [(8, 3), (12, 4), (16, 8), (24, 1)] = true → field d 24 1 ≤ 1 →
    let u := taking s sq d
    let t0 := tokOf s sq d
    let refused : Prop := exec (.provenance sq d) s = .next (complete t0 1 4 0 [] u)
    (findGroup u (dGroup d) = none → refused) ∧
    (findGroup u (dGroup d) = some g → g.phase = .faulted → refused) ∧
    (findGroup u (dGroup d) = some g → g.phase ≠ .faulted →
      (g.provs.find? (·.seq == field d 12 4) = none → refused) ∧
      ∀ p, g.provs.find? (·.seq == field d 12 4) = some p →
        (field d 24 1 = 1 → u.boot.idValid = false → refused) ∧
        (field d 24 1 = 1 → u.boot.idValid = true → u.boot.attBusy = true → exec (.provenance sq d) s =
          .next { u with boot := { u.boot with toSign := u.boot.toSign ++ [(t0, field d 16 8, p.content)] } }) ∧
        (field d 24 1 = 0 ∨ u.boot.idValid = true ∧ u.boot.attBusy = false → exec (.provenance sq d) s =
          .next (ok t0 0 [] (hostWrite (field d 16 8) (provRecord u p.content (field d 24 1 == 1)) u))))) ∧
  (∀ (s : State) (content : List Byte) (sign : Bool), content.length = 384 →
    Rules.isProv s content sign (provRecord s content sign)) ∧
  (∀ s : State, s.boot.attBusy = true → signStep s = s) ∧
  ∀ (s : State) (x : Tok × Nat × List Byte) (xs : List (Tok × Nat × List Byte)), s.boot.attBusy = false → s.boot.toSign = x :: xs →
    signStep s = xs.foldl (fun w y => ok y.1 0 [] (hostWrite y.2.1 (provRecord w y.2.2 true) w))
      (ok x.1 0 [] (hostWrite x.2.1 (provRecord s x.2.2 true) { s with boot := { s.boot with toSign := [] } }))

/-- R356, R358: STEP_ROLLBACK takes each shard one step beyond the named one back to it, and refuses where one is two beyond it or a
step two beyond has begun to be applied, and in a group without REDUCE_APPLY. SHARD_RESEND is accepted where this module owns a
shard and keeps the last step's descriptor; it is refused where it owns none (ROLE), keeps none (STATE), or where the counter is
outside the group's (RANGE), and waits while a REDUCE_APPLY or another resend runs. -/
def Sys2Proof.Rules.rollbackRule : Prop :=
  ∀ (s : State) (sq : BitVec 8) (d : Desc) (g : Group),
    let u := taking s sq d
    let t0 := tokOf s sq d
    let gid := dGroup d
    findGroup u gid = some g →
    (∀ step, step = field d 16 8 → Taken s sq d 0x18 → dRsvdOk d [(8, 3), (16, 8)] = true →
      g.phase = .active ∨ g.phase = .faulted →
      (hasApply g.record = false → exec (.stepRollback sq d) s = .next (complete t0 1 4 0 [] u)) ∧
      (hasApply g.record = true → (∀ sh ∈ g.shards, sh.step ≤ step + 1 ∧ sh.begun < step + 2) →
        Answers (exec (.stepRollback sq d) s) fun t =>
          (∃ g', findGroup t gid = some g' ∧ g'.lastStep = step ∧ g'.shards = g.shards.map (fun sh =>
            if sh.step = step + 1 then { sh with gen := !sh.gen, step := step } else sh)) ∧ Rules.finished t0 t) ∧
      (hasApply g.record = true → (∃ sh ∈ g.shards, step + 1 < sh.step ∨ step + 2 ≤ sh.begun) →
        exec (.stepRollback sq d) s = .next (complete t0 1 7 0 [] u))) ∧
    (g.phase = .active → Rules.still g → (g.pause = .pausing → quiet u g = false) → Taken s sq d 0x19 → dRsvdOk d [(8, 3), (12, 2)] = true →
      let row := field d 12 2
      let inRange : Prop := g.record.rowBase ≤ row ∧ row < g.record.rowBase + g.record.rowCount
      let busy : Prop := ∃ o ∈ g.ops, o.resend.isSome = true ∨ o.op = 6
      let refused (detail : Nat) : Prop := exec (.shardResend sq d) s = .next (complete t0 1 detail 0 [] u)
      let kept := g.stepSeqs.find? (·.1 == g.lastStep)
      (busy → Answers (exec (.shardResend sq d) s) fun t => ∃ g', findGroup t gid = some g' ∧
        g'.queue = [{ tok := t0, desc := d, host := none, resend := true }] ∧ g'.ops = g.ops) ∧
      (¬ busy → heldShards g true = [] → refused 8) ∧
      (¬ busy → heldShards g true ≠ [] → kept = none → refused 4) ∧
      ∀ k seq d0, ¬ busy → heldShards g true ≠ [] → kept = some (k, seq, d0) →
        (¬ inRange → refused 3) ∧
        (inRange →
          let op : Op :=
            { seq := seq, op := 6, desc := d0, tok := t0, resend := some row, chunks := chunksOfOp g.record d0 }
          (∃ c, c < op.chunks ∧ workers g op c ≠ []) →
          Answers (exec (.shardResend sq d) s) fun t =>
            ∃ g', findGroup t gid = some g' ∧ ∃ o ∈ g'.ops, o.resend = some row ∧ o.tok = t0 ∧ o.seq = seq))

/-- R357: RECAST. It is refused where no group of that number is active or faulted, or a RECAST is pending. Its record is checked as
at a cast-on, as if the old group were gone (log entry 24, DEDUCED), must keep what R357 names, and finds the shards that it keeps
at the restore step; one that fails is reported to the coordinator and completes with that check, and the old group stays. While
operations of the old group run it waits, and those that have not started complete with STATE. In a group with nothing in progress
it goes on at once: the old group ends, and the checks are made again; the new group, which carries the restore step as its last
committed step, is active where it names no other module, and else cast on and reported READY; its new shards are marked REFILL. -/
def Sys2Proof.Rules.recastRule : Prop :=
  ∀ (s : State) (sq : BitVec 8) (d : Desc) (h : HostRead), Taken s sq d 0x17 →
    dRsvdOk d [(8, 3), (16, 8), (24, 4), (32, 8)] = true →
    let u := taking s sq d
    let t0 := tokOf s sq d
    let gid := dGroup d
    let step := field d 32 8
    (findGroup u gid = none → exec (.recast sq d h) s = .next (complete t0 1 4 0 [] u)) ∧
    ∀ g, findGroup u gid = some g →
      (g.recast = none → g.phase = .casting ∨ g.phase = .binding → exec (.recast sq d h) s = .next (complete t0 1 4 0 [] u)) ∧
      ∀ bs r, g.phase = .active ∨ g.phase = .faulted → g.recast = none →
        readRecord u (field d 16 8) (field d 24 4) h = some bs → r = recordOf bs →
        let n := castCheck { u with groups := u.groups.filter (·.id != g.id) } r.groupId bs r
        let kept := keptShards u g r
        let fits : Prop := recastKeeps g.record r = true ∧ ∀ sh ∈ kept, sh.step = step
        let failed (k : Nat) : Prop := ∀ m, coordinatorOf r = some m → m ≠ u.label →
          exec (.recast sq d h) s = .next (complete t0 (castStatus k) k 0 []
            (sendCtl (castPacket u 0x51 m r.groupId (castStatus k) 0) u))
        (n ≠ 0 → failed n) ∧ (n = 0 → ¬ fits → failed 3) ∧
        (n = 0 → fits → Rules.still g → g.phase = .active → (∃ o ∈ g.ops, opStarted g o = true) →
          (g.ops.map (·.seq)).Nodup → Answers (exec (.recast sq d h) s) fun t =>
            (∃ g', findGroup t gid = some g' ∧ g'.phase = .binding ∧ g'.recast = some { tok := t0, desc := d, host := h }) ∧
            ∀ o ∈ g.ops, opStarted g o = false → Rules.finished o.tok t) ∧
        (n = 0 → fits → Rules.restful g →
          let pend : Group := { g with phase := .binding, recast := some { tok := t0, desc := d, host := h }, pause := .running }
          let e := endGroup pend (kept.flatMap shardHanks) (updGroup gid (fun _ => pend) u)
          (castCheck e r.groupId bs r ≠ 0 ∨ reserveGroup r (checkValue bs) kept e = none →
            Answers (exec (.recast sq d h) s) fun t =>
              findGroup t gid = none ∧ findGroup t r.groupId = none ∧ Rules.finished t0 t) ∧
          ∀ g1 w, castCheck e r.groupId bs r = 0 → reserveGroup r (checkValue bs) kept e = some (g1, w) →
            (groupModules r = [w.label] → coordinatorOf r = some w.label → Answers (exec (.recast sq d h) s) fun t =>
              (∃ g', findGroup t r.groupId = some g' ∧ g'.phase = .active ∧ g'.record = r ∧ g'.restore = some step ∧
                g'.lastStep = step) ∧ Rules.finished t0 t) ∧
            (∀ m, coordinatorOf r = some m → m ≠ w.label → Answers (exec (.recast sq d h) s) fun t =>
              ∃ g', findGroup t r.groupId = some g' ∧ g'.phase = .casting ∧ g'.castTok = some t0 ∧ g'.record = r ∧
                g'.restore = some step ∧ g'.lastStep = step ∧ g'.shards = g1.shards.map fun sh =>
                  if kept.any (·.index == sh.index) then sh else { sh with refill := true, step := step }))

/-- R356 to R358, R378, R380: the commands of recovery and audit. Completes: stepRollback, provenance, shardResend, recast. -/
def Obligations.RecoveryCommands : Prop := Rules.rollbackRule ∧ Rules.provenanceRule ∧ Rules.recastRule

/-! ## Collective operations (chapter 5) -/

/-- R143 to R145, R157, Tables 5.7 and 5.8: the detail of a COLLECTIVE that fails: RESERVED for a reserved field; ORDER for another `seq`
than the next; RANGE for an operation that the group does not permit, or that breaks its rules in Table 5.8, or R144 or R145, or
names row counters outside the group's; STATE for `apply_map` in a group without a MAP that can run; ORDER for a REDUCE_APPLY of
another step; RANGE for a parameter block that is missing; HOST_READ for one that cannot be read. Of several the first in this order
counts (log entry 118, DESIGN CHOICE; log entry 18 for a MAP's streams). -/
def Sys2Proof.Rules.postDetailRule : Prop :=
  ∀ (s : State) (g : Group) (d : Desc) (h : HostRead),
    let r := g.record
    let n := r.ranks.length
    let sp := Spec.ofNat (dInFmt d)
    let table58 : Prop := dOp d ≤ 6 ∧ (dOp d ≠ 3 → dRoot d = 0) ∧ (dOp d ≠ 6 → dStep d = 0) ∧ dRowShift d ≤ 32 ∧
      (dOp d ≠ 5 → sp.valid true = true ∧ dPass d = passOf sp.format) ∧
      (dOp d = 0 ∨ dOp d = 1 ∨ dOp d = 6 → workingOf sp.format = r.workFmt) ∧
      (dOp d = 1 → dCount d % n = 0) ∧ (dOp d = 2 → n * dCount d < 2 ^ 48) ∧ (dOp d = 3 → dRoot d < n) ∧
      (dOp d = 4 → dCount d < 2 ^ 32 ∧ fmtIsScalar sp.format = true ∧ dRowShift d = 32) ∧
      (dOp d = 5 → dCount d = 0 ∧ dChunk d = 0 ∧ dInFmt d = 0 ∧ dPass d = 0 ∧ dRowLen d = 0 ∧ dRowShift d = 32) ∧
      (dOp d = 6 → dCount d = 0 ∨ dCount d = r.totalElems) ∧ (dMap d = true → dOp d ≤ 3)
    let r144 : Prop := dOp d = 5 ∨ dChunk d ≠ 0 ∧ dChunk d % 128 = 0 ∧ 4096 ≤ chunkBytes r d ∧ chunkBytes r d ≤ r.maxChunk ∧
      rowLenOk r d = true ∧ chunksOfOp r d ≤ 2 ^ 32 ∧ (dOp d = 6 → ∀ k ∈ r.shards, k.base % dChunk d = 0)
    let rows : Prop := r.rowBase ≤ dRowBase d ∧
      dRowBase d + (if dCount d = 0 ∨ dRowShift d = 32 then 0 else (chunksOfOp r d - 1) / 2 ^ dRowShift d) < r.rowBase + r.rowCount
    let mapRuns : Prop := dMap d = true → r.mapSlot ≠ 0xFF ∧ mapStreamsOk s r = true
    let stepOk : Prop := dOp d = 6 → dStep d = g.lastStep + 1
    let needs : Prop := dMap d = true ∨ dOp d = 6
    let e := postError s g d h
    (postRsvdOk d = false → e = some 2) ∧
    (postRsvdOk d = true → dSeq d ≠ g.nextSeq → e = some 7) ∧
    (postRsvdOk d = true → dSeq d = g.nextSeq →
      (¬ (permits r (dOp d) = true ∧ table58) → e = some 3) ∧
      (permits r (dOp d) = true → table58 →
        (¬ mapRuns → e = some 4) ∧
        (mapRuns → ¬ (r144 ∧ rows) → e = some 3) ∧
        (mapRuns → r144 → rows → ¬ stepOk → e = some 7) ∧
        (mapRuns → r144 → rows → stepOk →
          (dParam d = 0 → needs → e = some 3) ∧ (dParam d = 0 → ¬ needs → e = none) ∧
          (dParam d ≠ 0 → hostRead s (dParam d) 64 h = none → e = some 5) ∧
          (dParam d ≠ 0 → (hostRead s (dParam d) 64 h).isSome = true → e = none))))

/-- R143, R193, R399, R400: a COLLECTIVE that passes every check of Tables 5.7 and 5.8 is accepted: its number is consumed and it
joins the group's operations; one that fails a check completes with BAD_DESCRIPTOR and that check's detail, and no number is
consumed; one without elements completes at once. A REDUCE_APPLY waits in the group's queue while another is in progress or the
shards are handed over, and any command while the group is being cast on. -/
def Sys2Proof.Rules.postingRule : Prop :=
  ∀ (s : State) (sq : BitVec 8) (d : Desc) (h : HostRead) (g : Group), Taken s sq d 0x12 →
    let u := taking s sq d
    let t0 := tokOf s sq d
    let gid := dGroup d
    let posted : Posted := { tok := t0, desc := d, host := h, resend := false }
    let waits : Prop := dOp d = 6 ∧ (g.handedOver = true ∨ ∃ o ∈ g.ops, o.op = 6 ∧ o.resend = none ∧ o.again = false)
    (findGroup u gid = none → exec (.collective sq d h) s = .next (complete t0 1 4 0 [] u)) ∧
    (findGroup u gid = some g → g.phase = .faulted ∨ g.phase = .binding ∧ g.recast = none →
      exec (.collective sq d h) s = .next (complete t0 1 4 0 [] u)) ∧
    (findGroup u gid = some g → Rules.still g → g.phase = .casting ∨ g.phase = .active ∧ waits →
      Answers (exec (.collective sq d h) s) fun t =>
        ∃ g', findGroup t gid = some g' ∧ g'.queue = [posted] ∧ g'.ops = g.ops ∧ g'.nextSeq = g.nextSeq) ∧
    (findGroup u gid = some g → Rules.still g → (g.pause = .pausing → quiet u g = false) → g.phase = .active → ¬ waits →
      (∀ e, postError u g d h = some e → exec (.collective sq d h) s =
        .next (complete t0 1 e 0 [] (if e = 5 then noteRead (dParam d) 64 h u else u))) ∧
      (postError u g d h = none → (∀ i ∈ g.insts, i.restored = none) → dOp d = 5 ∨ dCount d ≠ 0 →
        (∃ c, c < chunksOfOp g.record d ∧
          workers g { seq := dSeq d, op := dOp d, desc := d, tok := t0, chunks := chunksOfOp g.record d } c ≠ []) →
        Answers (exec (.collective sq d h) s) fun t =>
          ∃ g', findGroup t gid = some g' ∧ g'.nextSeq = (g.nextSeq + 1) % 2 ^ 32 ∧
            ∃ o ∈ g'.ops, o.seq = dSeq d ∧ o.tok = t0 ∧ o.op = dOp d) ∧
      (postError u g d h = none → (∀ i ∈ g.insts, i.restored = none) → dOp d ≠ 5 → dCount d = 0 →
        Answers (exec (.collective sq d h) s) fun t =>
          (∃ g', findGroup t gid = some g' ∧ g'.nextSeq = (g.nextSeq + 1) % 2 ^ 32) ∧ Rules.finished t0 t ∧
          rowValue t (dRowBase d) = (rowValue u (dRowBase d) + 1) % 2 ^ 64))

/-- R143 to R145, R157, R193, R399, R400: posting of a COLLECTIVE. Completes: collective. -/
def Obligations.CollectiveIsPostedInOrder : Prop := Rules.postDetailRule ∧ Rules.postingRule

/-- R34, R213: a collective, credit or seal packet that fails its CRC-32C is discarded and counted, and does nothing more. -/
def Sys2Proof.Rules.uncheckedRule : Prop :=
  ∀ (s : State) (p : Packet), crcOk p = false →
    let port := inPortOf p s
    let gone : State := drop port 8 (count { code := 0x05, port := some port, src := srcAttr p, sub := sublane p } 1 (consume p s))
    exec (.collUp p) s = .next gone ∧ exec (.collDown p) s = .next gone ∧ exec (.a2aUp p) s = .next gone ∧
    exec (.a2aDown p) s = .next gone ∧ exec (.barrierArrive p) s = .next gone ∧ exec (.barrierRelease p) s = .next gone ∧
    exec (.gcredit p) s = .next gone ∧ exec (.tack p) s = .next gone ∧ exec (.chunkAbort p) s = .next gone ∧
    exec (.stepSeal p) s = .next gone ∧ exec (.stepSealed p) s = .next gone

/-- R82, R83, R140, R146, R148, R151, R158, R159, R379: a COLL_UP packet of an open slot is recorded in its place, a staged one
counted as written to its hanks (log entry 78, DEDUCED), and starts the dwell timer. The packet that makes its slot full has the slot
acknowledged, joins the order in which slots filled and, from an endpoint, the input digest; with the last slot the stitch is
dispatched, or, of one slot alone, its value is passed on at once. A packet that meets one already there is discarded as a
duplicate; one for a group that is not active here is dropped and counted. -/
def Sys2Proof.Rules.contributionsRule : Prop :=
  ∀ (s : State) (p : Packet) (g : Group) (op : Op) (i : Inst) (x : Ctx) (slot : Nat), crcOk p = true →
    let u := consume p s
    let port := inPortOf p s
    ∀ gid c node off total, gid = pGroup p → c = field p.hdr 16 4 → node = field p.hdr 20 2 →
      off = bits (field p.hdr 22 2) 13 0 → total = ceilDiv (streamBytes g.record op (slotSpec g.record op i) c) 256 →
      (liveGroup s gid = none → exec (.collUp p) s = .next (settled gid (drop port 9 u))) ∧
      (liveGroup s gid = some g → g.pause = .running →
        contribSlot (field p.hdr 24 8) (slotCount (ranksOf g.record) (nodeAt g.record node)) = some slot →
        nameOp g (pSeqLo p) = .now op → findOp g op.seq = some op → instFor g op node c = some i →
        instAt g (instKey i) = some i → isReducing op.op = true → slot < x.slots.length → c < op.chunks → off + pUnits p ≤ total →
        ctxAt i op.seq c = some x → x.attempt = pAttempt p → x.stage = .filling →
        (∀ q ∈ i.aborted, q.1 = op.seq → q.2.1 = c → q.2.2 < pAttempt p) → (x.slots.getD slot {}).full = false →
        (meets (x.slots.getD slot {}) off (pUnits p) = true →
          exec (.collUp p) s = .next (settled gid (dupDrop port p u))) ∧
        (meets (x.slots.getD slot {}) off (pUnits p) = false →
          let b := record (x.slots.getD slot {}) off total p
          let y : Ctx := { x with
            slots := x.slots.set slot b, start := some (x.start.getD s.clock.now)
            order := if b.full then joinOrder slot s.clock.now x.order else x.order }
          let v := updCtx gid (instKey i) op.seq c (fun _ => y)
            (countStaged g 0x21 (x.bufs.getD slot 0) (off * 256) p.payload.length u)
          let w := sendTack (pSrc p) gid 0 0 x.attempt i.node (op.seq % 65536) c slot 0 0 v
          (b.full = false → exec (.collUp p) s = .next (settled gid v)) ∧
          ∀ g' z, b.full = true → findGroup w gid = some g' →
            z = (if (slotEndpoint g.record i slot).isSome then
              foldInput g' op (nodeLo (nodeAt g.record i.node) + slot) c (slotBytes b) w else w) →
            ((∃ k ∈ y.slots, k.full = false) → exec (.collUp p) s = .next (settled gid z)) ∧
            ((∀ k ∈ y.slots, k.full = true) → 2 ≤ y.slots.length →
              exec (.collUp p) s = .next (settled gid (dispatch
                { kind := .reduce, group := gid, node := i.node, shard := i.shard, seq := op.seq, chunk := c, attempt := x.attempt }
                (updCtx gid (instKey i) op.seq c (fun k => { k with stage := .queued }) z)))) ∧
            ∀ g2 op2 i2, y.slots = [b] → findGroup z gid = some g2 → findOp g2 op.seq = some op2 →
              instAt g2 (instKey i) = some i2 →
              (bufferLost z g2 (x.bufs.getD 0 0) (slotBytes b).length = true → exec (.collUp p) s = .next (settled gid
                (takeAbort gid (instKey i) op c x.attempt none true (count { code := 0x11 } 1 z)))) ∧
              (bufferLost z g2 (x.bufs.getD 0 0) (slotBytes b).length = false →
                let img := stitchImage z g2.record
                  { kind := .reduce, group := gid, node := i.node, seq := op.seq, chunk := c, attempt := 0 }
                let r := reduceChunk img g2 op2 i2 y 0
                exec (.collUp p) s = .next (settled gid (afterReduce g2 op2 i2 c x.attempt r.2 r.1
                  (updCtx gid (instKey i) op.seq c (fun k => { k with stage := .queued }) (readSlots g2 y z)))))))

/-- R153, R158, R159, R163: a BARRIER_ARRIVE fills its slot, which is acknowledged and joins the order; with the last one the release
goes on. One that a pause holds is kept, and acknowledged as it fills its slot. One for a group that is not active here is dropped
and counted. -/
def Sys2Proof.Rules.arrivalsRule : Prop :=
  ∀ (s : State) (p : Packet) (g : Group) (op : Op) (i : Inst) (x : Ctx) (slot : Nat), crcOk p = true →
    let u := consume p s
    let port := inPortOf p s
    ∀ gid node a, gid = field p.hdr 8 3 → node = field p.hdr 12 2 → a = bits (field p.hdr 11 1) 3 0 →
      (liveGroup s gid = none → exec (.barrierArrive p) s = .next (settled gid (drop port 9 u))) ∧
      (liveGroup s gid = some g →
        contribSlot (field p.hdr 16 8) (slotCount (ranksOf g.record) (nodeAt g.record node)) = some slot →
        nameOp g (field p.hdr 14 2) = .now op → op.op = 5 → instFor g op node 0 = some i → instAt g (instKey i) = some i →
        (g.pause = .running → ctxAt i op.seq 0 = some x → x.attempt = a → x.stage = .filling → i.aborted = [] →
          (x.slots.getD slot {}).full = false → meets (x.slots.getD slot {}) 0 (pUnits p) = false →
          exec (.barrierArrive p) s = .next (settled gid (signalRelease gid op.seq (fillCheck gid (instKey i) op.seq 0
            (sendTack (pSrc p) gid 0 0 a i.node (op.seq % 65536) 0 slot 0 0
              (updCtx gid (instKey i) op.seq 0 (fun y => { y with
                slots := y.slots.set slot { x.slots.getD slot {} with full := true }
                start := some (y.start.getD s.clock.now), order := joinOrder slot s.clock.now y.order }) u)))))) ∧
        (g.pause = .paused → Rules.still g → pType p = 0x4C → a = 0 → ctxAt i op.seq 0 = none → i.aborted = [] →
          instDone op i 0 = false → Answers (exec (.barrierArrive p) s) fun t =>
            ∃ g', findGroup t gid = some g' ∧ g'.insts = g.insts ∧
              g'.held = [({ port := port, tick := s.clock.now, acked := true }, p)]))

/-- R34, R82, R83, R140, R146, R148, R151, R153, R158, R159, R163, R379: contributions and arrivals, and packets that fail their check.
Completes: collUp, barrierArrive. -/
def Obligations.ContributionsFillSlots : Prop := Rules.contributionsRule ∧ Rules.arrivalsRule ∧ Rules.uncheckedRule

/-- The buffer of a chunk at an instance, and the state once it is there: one that holds a part of it already, or one taken from
the group's reservation for its first packet (R168). -/
def Sys2Proof.Rules.buffered (gid : Nat) (p : Packet) (i : Inst) (key : PartBuf) (u : State) (b : Nat) (v : State) : Prop :=
  (∃ old, i.bufs.find? (bufIs key) = some old ∧ old.cells = some b ∧ v = u) ∨
  (i.bufs.find? (bufIs key) = none ∧ openBuf gid p u = some (b, v))

/-- R148 to R150, R153, R163, R226: a COLL_DOWN packet is recorded, a staged one counted as written (log entry 78, DEDUCED); when its
chunk is whole the chunk is acknowledged and passed on down every slot that needs its format, and the down base moves; where no
buffer of the group's reservation is left the packet waits as it came (the model's choice, log entry 93), and so it does in a pause
where its chunk is not under way here. A BARRIER_RELEASE is acknowledged and passed on once. Completes: collDown,
barrierRelease. -/
def Obligations.ResultsGoDown : Prop :=
  ∀ (s : State) (p : Packet) (g : Group) (op : Op) (i : Inst), crcOk p = true →
    let u := consume p s
    let port := inPortOf p s
    let via : Via := { port := port, tick := s.clock.now }
    (∀ gid c off fmt node sp n, gid = pGroup p → c = field p.hdr 16 4 → off = bits (field p.hdr 20 2) 13 0 →
      fmt = bits (field p.hdr 20 2) 15 14 → node = field p.hdr 28 2 →
      n = streamLen sp (dRowLen op.desc) (chunkLogical g.record op c) (chunkLen g.record op c) →
      let key : PartBuf := { kind := 1, seq := op.seq, chunk := c, fmt := fmt }
      let old := ((i.bufs.find? (bufIs key)).map (·.buf)).getD {}
      let new := record old off (ceilDiv n 256) p
      liveGroup s gid = some g → g.insts.find? (fun j => j.node == node && j.shard.isNone) = some i →
      instAt g (instKey i) = some i → downOp g (pSeqLo p) = some op → (outSpecs g.record op).find? (·.1 == fmt) = some (fmt, sp) →
      op.op ≠ 5 → op.op ≠ 4 → c < op.chunks → off + pUnits p ≤ ceilDiv n 256 → meets old off (pUnits p) = false →
      (g.pause ≠ .running → op.resend = none → chunkOpen g op c = false →
        exec (.collDown p) s = .next (settled gid (hold gid via p u))) ∧
      (g.pause = .running ∨ op.resend.isSome = true ∨ chunkOpen g op c = true → i.bufs.find? (bufIs key) = none →
        openBuf gid p u = none → exec (.collDown p) s = .next (settled gid (hold gid via p u))) ∧
      ∀ b v, g.pause = .running ∨ op.resend.isSome = true ∨ chunkOpen g op c = true → Rules.buffered gid p i key u b v →
        let w := countStaged g 0x21 b (off * 256) p.payload.length v
        (new.full = false → exec (.collDown p) s = .next (settled gid (updInst gid (instKey i) (fun j => { j with
          bufs := j.bufs.filter (!bufIs key ·) ++ [{ key with buf := new, cells := some b }] }) w))) ∧
        (new.full = true → exec (.collDown p) s = .next (settled gid (advanceDown gid (instKey i)
          (sendDown g op i c fmt new.flags (streamOf new n) (some b)
            (sendTack (pSrc p) gid 1 fmt 0 node (op.seq % 65536) c 0 0 0
              (countStaged g 0x20 b 0 (slotBytes new).length
                (updInst gid (instKey i) (fun j => { j with bufs := j.bufs.filter (!bufIs key ·) }) w)))))))) ∧
    (∀ gid node, gid = field p.hdr 8 3 → node = field p.hdr 12 2 →
      liveGroup s gid = some g → g.insts.find? (fun j => j.node == node && j.shard.isNone) = some i →
      nameOp g (field p.hdr 14 2) = .now op → op.op = 5 →
      let acked := sendTack (pSrc p) gid 1 0 0 node (op.seq % 65536) 0 0 0 0 u
      (op.downDone.contains (i.node, i.shard, 0, 0) = false →
        exec (.barrierRelease p) s = .next (settled gid (signalRelease gid op.seq (sendDown g op i 0 0 fNone [] none acked)))) ∧
      (op.downDone.contains (i.node, i.shard, 0, 0) = true →
        exec (.barrierRelease p) s = .next (settled gid (dupDrop port p acked))))

/-- R152, R163, R224, R230: an all-to-all packet is recorded at the instance its node names; when its chunk is whole the chunk is
acknowledged and sent on, up or down; one of a chunk that has crossed already, or that is on its way, is a duplicate; one of a chunk
not begun here waits in a pause. Completes: a2aUp, a2aDown. -/
def Obligations.AllToAllChunksCross : Prop :=
  ∀ (s : State) (p : Packet) (g : Group) (op : Op) (i : Inst) (down : Bool) (a b c node w at0 len : Nat),
    let u := consume p s
    let port := inPortOf p s
    let gid := pGroup p
    let key : PartBuf := { kind := if down then 3 else 2, seq := op.seq, chunk := c, src := a, dst := b }
    let old := ((i.bufs.find? (bufIs key)).map (·.buf)).getD {}
    let new := record old (at0 / 256) (ceilDiv (len * w) 256) p
    let cmd : Instr := if down then .a2aDown p else .a2aUp p
    crcOk p = true →
    a = field p.hdr 16 2 → b = field p.hdr 18 2 → c = field p.hdr 20 4 → node = field p.hdr 28 2 → w = a2aWidth op →
    len = segLen op a b c → at0 = (field p.hdr 24 4 - c * dChunk op.desc) * w →
    liveGroup s gid = some g → a2aAt g node = some i →
    instAt g (instKey i) = some i → nameOp g (pSeqLo p) = .now op → op.op = 4 → a < ranksOf g.record → b < ranksOf g.record →
    matrixFull g.record op = true → (tget [] op.matrix a).getD b 0 ≤ dCount op.desc → c < pairChunks op a b →
    c * dChunk op.desc ≤ field p.hdr 24 4 → at0 % 256 = 0 → at0 / 256 + pUnits p ≤ ceilDiv (len * w) 256 →
    onPath g.record node a b = true →
    let passed : Bool := op.crossed.contains (node, a, b, c) || a2aOnWay g op i a b c
    (passed = false → g.pause ≠ .running → (∀ x ∈ i.bufs, bufIs key x = false) →
      exec cmd s = .next (settled gid (hold gid { port := port, tick := s.clock.now } p u))) ∧
    (passed = false → g.pause = .running ∨ (∃ x ∈ i.bufs, bufIs key x = true) → meets old (at0 / 256) (pUnits p) = false →
      ∀ n v, Rules.buffered gid p i key u n v →
        let x := countStaged g 0x21 n (at0 / 256 * 256) p.payload.length v
        (new.full = false → exec cmd s = .next (settled gid (updInst gid (instKey i) (fun j => { j with
          bufs := j.bufs.filter (!bufIs key ·) ++ [{ key with buf := new, cells := some n }] }) x))) ∧
        (new.full = true → exec cmd s =
          let bs := streamOf new (len * w)
          let y := sendTack (pSrc p) gid 2 0 0 node (op.seq % 65536) c 0 a b
            (countStaged g 0x20 n 0 (slotBytes new).length
              (updInst gid (instKey i) (fun j => { j with bufs := j.bufs.filter (!bufIs key ·) }) x))
          .next (settled gid (sendA2a g op i a b c bs n
            (if down = false ∧ pSrcMod p = false then foldSegment g op a b c bs y else y))))) ∧
    (passed = true → exec cmd s = .next (settled gid (dupDrop port p u)))

/-- R160, R226, R227, R232: GCREDIT moves the window base of the parent it comes from forward and never back; a TACK ends the
transfer that it names and nothing where none awaits it; a CHUNK_ABORT is passed on and taken once; a C_NACK with
STALE_EPOCH or AGED_OUT has the held copy sent again at once, and one with TARGET_LEAVING 10 µs later, until refusals have gone
on for 1 s; then, and with NO_ROUTE or NO_ACCESS, it is reported to the host. One for a group that is not active here is dropped
and counted. Completes: gcredit, tack, chunkAbort, cNack. -/
def Obligations.CollectiveControlPackets : Prop :=
  ∀ (s : State) (p : Packet) (g : Group),
    let u := consume p s
    let gid := field p.hdr 8 3
    (∀ child base, crcOk p = true → liveGroup s gid = some g → Rules.restful g → field p.hdr 11 1 ≠ 0xFF →
      childOf g.record (nodeAt g.record (field p.hdr 12 2)) (field p.hdr 11 1) = some child →
      base = (expandSeq g.nextSeq (field p.hdr 14 2), field p.hdr 16 4) →
      Answers (exec (.gcredit p) s) fun t => ∃ g', findGroup t gid = some g' ∧
        g'.insts = g.insts.map fun i =>
          if i.node = child ∧ chunkLt (tget (g.record.firstSeq, 0) i.parentBase (pSrc p)) base = true then
            { i with parentBase := tins (pSrc p) base (tdel i.parentBase (pSrc p)) } else i) ∧
    (liveGroup s gid = none → crcOk p = true →
      exec (.gcredit p) s = .next (settled gid (drop (inPortOf p s) 9 u)) ∧
      exec (.tack p) s = .next (settled gid (drop (inPortOf p s) 9 u)) ∧
      exec (.chunkAbort p) s = .next (settled gid (drop (inPortOf p s) 9 u))) ∧
    (∀ t0, crcOk p = true → liveGroup s gid = some g → g.transfers.find? (tackMatches p) = some t0 →
      exec (.tack p) s = .next (settled gid (flushTransfers gid (afterTack gid t0 (dropTransfer gid t0 u))))) ∧
    (crcOk p = true → liveGroup s gid = some g → g.transfers.find? (tackMatches p) = none →
      exec (.tack p) s = .next (settled gid u)) ∧
    (∀ op i c a node, crcOk p = true → liveGroup s gid = some g → a = bits (field p.hdr 11 1) 3 0 → node = field p.hdr 12 2 →
      c = field p.hdr 16 4 → nameOp g (field p.hdr 14 2) = .now op → nextTo g op node c = [i] → instAt g (instKey i) = some i →
      (i.aborted.contains (op.seq, c, a) = true → exec (.chunkAbort p) s = .next (settled gid u)) ∧
      (i.aborted.contains (op.seq, c, a) = false → exec (.chunkAbort p) s = .next (settled gid
        (abortAttempt gid (instKey i) op c a false (sendAborts gid i (op.seq % 65536) c a (some node)
          [(entryOf g.record (rootShard g.record op c)).owner] u))))) ∧
    ∀ q refused gid', refused = BitVec.ofNat 512 (field p.hdr 8 32) →
      gid' = (if field refused 0 1 < 0x40 then field refused 11 3 else field refused 8 3) → liveGroup s gid' = some g →
      (g.transfers.flatMap (·.packets)).find? (fun q => headKey q.hdr == headKey refused) = some q →
      (pCode p = 2 ∨ pCode p = 3 → pIsCtl q = false →
        exec (.cNack p) s = .next (originateOwn (reInject q (fabricTime u)) u)) ∧
      (pCode p = 2 ∨ pCode p = 3 → pIsCtl q = true → exec (.cNack p) s = .next (originateOwn q u)) ∧
      (pCode p = 1 → Answers (exec (.cNack p) s) fun t => ChangesOnly [.groups, .flows] u t ∧
        t.flows.refused = s.flows.refused ++ (match g.leaving.find? (·.key == headKey refused) with
          | some y => if 1250000000 ≤ s.clock.now - y.since then [(1, q.hdr)] else []
          | none => []) ∧
        ∃ g' x, findGroup t gid' = some g' ∧ x ∈ g'.leaving ∧ x.key = headKey refused ∧
          (g.leaving.find? (·.key == headKey refused) = none → x.due = some (s.clock.now + 12500)) ∧
          ∀ y, g.leaving.find? (·.key == headKey refused) = some y →
            x.due = if s.clock.now - y.since < 1250000000 then some (s.clock.now + 12500) else none) ∧
      (pCode p = 4 ∨ pCode p = 5 → exec (.cNack p) s =
        .next { u with flows := { u.flows with refused := u.flows.refused ++ [(pCode p, q.hdr)] } }) ∧
      (pCode p ∉ [1, 2, 3, 4, 5] → exec (.cNack p) s = .next u) ∧
      ∀ x d, g.leaving = [x] → x.due = some d → x.key = headKey refused →
        (d ≤ s.clock.now → resendLeaving gid' s = sendHeld q (updGroup gid' (fun g => { g with leaving := [{ x with due := none }] }) s)) ∧
        (s.clock.now < d → resendLeaving gid' s = s)

/-- R238: in dimension 0 and the two highest dimensions, and in every dimension of a fabric of dimension 3 or less, the
neighbour differs in bit k alone; in the others bit k + 2 also changes where bit k + 1 is set. The relation is mutual, and two
dimensions never name one neighbour. -/
def Obligations.TwistIsMutual : Prop :=
  (∀ x k d : Nat, k = 0 ∨ d - 1 < k + 2 → neighbour x k d = x ^^^ (1 <<< k)) ∧
  (∀ x k d : Nat, 1 ≤ k → k + 2 ≤ d - 1 → neighbour x k d = x ^^^ (1 <<< k) ^^^ ((bits x (k + 1) (k + 1)) <<< (k + 2))) ∧
  (∀ x k d : Nat, d ≤ 3 → neighbour x k d = x ^^^ (1 <<< k)) ∧
  (∀ x k d : Nat, (neighbour x k d).testBit (k + 1) = x.testBit (k + 1)) ∧
  (∀ x k d : Nat, neighbour (neighbour x k d) k d = x) ∧
  ∀ x j k d : Nat, neighbour x j d = neighbour x k d → j = k

/-! ## Numbers (chapters 2 to 4) -/

/-- The scalar formats, the formats of MX elements, and all of them (Tables 2.3 and 2.6). -/
abbrev Sys2Proof.Rules.scalars : List Target := [tFp32, tBf16, tFp16]
abbrev Sys2Proof.Rules.elements : List Target := [tE4m3, tE5m2, tE3m2, tE2m3, tE2m1, tInt8]
abbrev Sys2Proof.Rules.targets : List Target := Rules.scalars ++ Rules.elements

/-- R51, R69: m × 2^e is rounded to a multiple k × 2^q. q follows from the exponent of the leading 1, but is that of the low codes
below them and fixed for MXINT8. What the grid holds is exact. Else, to nearest, k is at most half a unit away, and even at a tie;
under a random word u, k is ⌊m × 2^(e − q) + u / 2³²⌋, of whose fraction 32 bits count. -/
def Sys2Proof.Rules.roundingRule : Prop :=
  ∀ (t : Target) (m : Nat) (e : Int), 0 < m →
    let q := gridOf t m e
    let d := (q - e).toNat
    (∀ u, (roundTo t u m e).2 = q) ∧
    (t.fixed = true → q = -6) ∧
    (∀ E : Int, t.fixed = false → geMag m e 1 E = true → gtMag 1 (E + 1) m e = true →
      q = if t.low = true ∧ E < t.emin then t.emin - t.fbits else E - t.fbits) ∧
    (q ≤ e → ∀ u, (roundTo t u m e).1 = m * 2 ^ (e - q).toNat) ∧
    (e < q →
      let k := (roundTo t none m e).1
      2 * m ≤ 2 * k * 2 ^ d + 2 ^ d ∧ 2 * k * 2 ^ d ≤ 2 * m + 2 ^ d ∧
      (2 * m = 2 * k * 2 ^ d + 2 ^ d ∨ 2 * k * 2 ^ d = 2 * m + 2 ^ d → k % 2 = 0)) ∧
    (e < q → ∀ u, u < 2 ^ 32 →
      (d ≤ 32 → (roundTo t (some u) m e).1 = (m * 2 ^ (32 - d) + u) / 2 ^ 32) ∧
      (32 < d → (roundTo t (some u) m e).1 = (m / 2 ^ (d - 32) + u) / 2 ^ 32))

/-- R43, R44, R48, R52, R57: a code packed from k × 2^q reads as k × 2^q. -/
def Sys2Proof.Rules.packRule : Prop :=
  ∀ t ∈ Rules.targets, ∀ (s : Bool) (k : Nat) (q : Int), 0 < k → gtMag k q t.maxM t.maxE = false →
    (if t.fixed = true then q = -6 else if k < 2 ^ t.fbits then t.low = true ∧ q = t.emin - t.fbits
      else k ≤ 2 ^ (t.fbits + 1) ∧ t.emin ≤ q + t.fbits) →
    packCode t s k q < 2 ^ t.width ∧ ∃ m e, decodeExact t (packCode t s k q) = .fin s m e ∧
      toInt (.fin s m e) (min e q) = toInt (.fin s k q) (min e q)

/-- R46, R47, R52 to R56, R69, R70, Table 2.5: a finite value at or above the boundary, which is half a unit above the largest finite
magnitude, overflows; under stochastic rounding one whose rounded magnitude is above the largest does. It becomes the largest
magnitude of its sign (SATURATE, with SAT), or what Table 2.5 says (STRICT). Any other value is rounded, and is at most the largest;
for a scalar format it is flushed below the smallest normal, so that no subnormal code is written; a subnormal code reads as zero. -/
def Sys2Proof.Rules.conversionRule : Prop :=
  (∀ t ∈ Rules.targets, ∃ m e, decodeExact t (maxCode t false) = .fin false m e ∧ (t.fixed = true ∨ 2 ^ t.fbits ≤ m) ∧
    ∀ u, u ≤ e - 1 → u ≤ t.boundE → scaled t.boundM t.boundE u = scaled (2 * m + 1) (e - 1) u) ∧
  (∀ t ∈ Rules.targets, ∀ (strict s : Bool) (m : Nat) (e : Int) (u : Option Nat), 0 < m → (∀ w, u = some w → w < 2 ^ 32) →
    let k := (roundTo t u m e).1
    let q := (roundTo t u m e).2
    let past : Bool := if u = none then geMag m e t.boundM t.boundE else gtMag k q t.maxM t.maxE
    let out := convertFin t strict u s m e
    (past = true → strict = false → out = (.code (maxCode t s), fSat ||| fOvf)) ∧
    (past = true → strict = true → out.2 = fOvf ∧
      (t ∈ [tFp32, tBf16, tFp16, tE5m2] → out.1 = .code (infCode t s)) ∧ (t = tE4m3 → out.1 = .code 0x7F) ∧
      (t ∈ [tE3m2, tE2m3, tE2m1, tInt8] → out.1 = .blockNan)) ∧
    (past = false → gtMag k q t.maxM t.maxE = false ∧
      (k = 0 → out = (.code (zeroCode t s), fNone)) ∧
      (k ≠ 0 → t ∈ Rules.scalars → gtMag 1 t.emin k q = true → out = (.code (zeroCode t s), fFlushed)) ∧
      (k ≠ 0 → t ∉ Rules.scalars ∨ gtMag 1 t.emin k q = false → out = (.code (packCode t s k q), fNone)))) ∧
  (∀ (t : Target) (strict s : Bool) (e : Int) (u : Option Nat),
    convertFin t strict u s 0 e = (.code (zeroCode t s), fNone)) ∧
  ∀ t ∈ Rules.scalars, ∀ c < 2 ^ t.width,
    let low := c / 2 ^ t.fbits % 2 ^ t.ebits = 0 ∧ c % 2 ^ t.fbits ≠ 0
    (low → readCode t c = (.fin (c.testBit (t.width - 1)) 0 0, fFlushed)) ∧
    (¬ low → (readCode t c).2 = fNone ∧
      ((readCode t c).1 = decodeExact t c ∨ ∃ s e, (readCode t c).1 = .fin s 0 0 ∧ decodeExact t c = .fin s 0 e)) ∧
    ∀ strict u s m e, (∀ w, u = some w → w < 2 ^ 32) → (convertFin t strict u s m e).1 = .code c → ¬ low

/-- R49, R50, R64, Table 2.9: NaN and ∞ converted, with the flag of one from outside. -/
def Sys2Proof.Rules.specialsRule : Prop :=
  ∀ (strict s ext : Bool) (u : Option Nat),
    (∀ q ∈ [(tFp32, 0x7FC00000), (tBf16, 0x7FC0), (tFp16, 0x7E00), (tE4m3, 0x7F), (tE5m2, 0x7E)],
      convertVal q.1 strict u ext .nan = (.code q.2, fIf ext fNanIn)) ∧
    (∀ t ∈ [tE3m2, tE2m3, tE2m1, tInt8], convertVal t strict u ext .nan = (.blockNan, fIf ext fNanIn) ∧
      convertVal t true u ext (.inf s) = (.blockNan, fIf ext fInfIn)) ∧
    (∀ t ∈ [tFp32, tBf16, tFp16, tE5m2], convertVal t strict u ext (.inf s) = (.code (infCode t s), fIf ext fInfIn)) ∧
    convertVal tE4m3 true u ext (.inf s) = (.code 0x7F, fIf ext fInfIn) ∧
    ∀ t ∈ [tE4m3, tE3m2, tE2m3, tE2m1, tInt8],
      convertVal t false u ext (.inf s) = (.code (maxCode t s), fIf ext fInfIn ||| fSat)

/-- R58, R62 to R64, R72: a block's scale follows from its largest magnitude; under NO_CLIP no element overflows, unless the scale is
clamped at 127. A block made NaN is written with scale 0xFF and codes of 0 and sets no SAT; that scale reads as NaN
throughout, another multiplies exactly. -/
def Sys2Proof.Rules.blocksRule : Prop :=
  (∀ t ∈ Rules.elements, ∀ (noClip sto : Bool) (vs : List Val),
    ((∀ n m e, Val.fin n m e ∈ vs → m = 0) → selectScale t noClip sto vs = 0) ∧
    (∀ n m e, Val.fin n m e ∈ vs → 0 < m → (∀ n' m' e', Val.fin n' m' e' ∈ vs → geMag m e m' e' = true) →
      ∀ E : Int, geMag m e 1 E = true → gtMag 1 (E + 1) m e = true →
      selectScale t false sto vs = max (-127) (min 127 (E - t.emaxElem))) ∧
    (selectScale t true sto vs < 127 → ∀ n m e, Val.fin n m e ∈ vs → ∀ (strict : Bool) (w : Nat), w < 2 ^ 32 →
      (convertFin t strict (if sto then some w else none) n m (e - selectScale t true sto vs)).2 = fNone)) ∧
  (∀ (sp : Spec) (d : Draw) (ext : Bool) (i : Nat) (vs : List Val),
    let t := targetOf sp.format
    let x := selectScale t sp.noClip sp.sto vs
    let scaledBy (v : Val) : Val := match v with
      | .fin n m e => .fin n m (e - x)
      | v => v
    let out := encodeBlock sp d ext i vs
    (∀ j v, vs[j]? = some v → (convertVal t sp.strict (d.word (i + j)) ext (scaledBy v)).1 = .blockNan →
      out.1 = vs.map (fun _ => 0) ∧ out.2.1 = 0xFF ∧ out.2.2 &&& fSat = fNone) ∧
    ((∀ j v, vs[j]? = some v → ∃ c, (convertVal t sp.strict (d.word (i + j)) ext (scaledBy v)).1 = .code c ∧
        out.1[j]? = some c) ∨ out.2.1 = 0xFF) ∧
    ((∀ j v, vs[j]? = some v → (convertVal t sp.strict (d.word (i + j)) ext (scaledBy v)).1 ≠ .blockNan) →
      out.2.1 = (x + 127).toNat)) ∧
  ∀ f c x : Nat, mxValue f 0xFF c = .nan ∧
    (x < 0xFF → ∀ s m e, decodeExact (targetOf f) c = .fin s m e → m ≠ 0 → mxValue f x c = .fin s m (e + (x - 127))) ∧
    (x < 0xFF → ∀ s, decodeExact (targetOf f) c = .inf s → mxValue f x c = .inf s)

/-- The sum of the finite values that BF16 limbs read as, in units of 2^w. -/
abbrev Sys2Proof.Rules.limbSum (w : Int) (l : List Nat) : Int := (l.map fun c => toInt (readCode tBf16 c).1 w).sum

/-- R45, R78, R87, R88: limbs read as their exact sum. A greedy split into n limbs that meets no overflow and no flush is within 2^(−8n)
of the value; that of an FP32 value into three limbs is exact from 2⁻¹⁰³ up to the boundary. A magnitude placed in a window is exact
above bit 0, and leaves its sticky bit; its order does not matter. -/
def Sys2Proof.Rules.limbsRule : Prop :=
  (∀ (n : Nat) (r u : Int), (splitLimbs n r u).1.length = n ∧
    ((splitLimbs n r u).2 = fNone →
      2 ^ (8 * n) * (r * 2 ^ 8 - Rules.limbSum (u - 8) (splitLimbs n r u).1).natAbs ≤ r.natAbs * 2 ^ 8)) ∧
  (∀ (strict ext s : Bool) (c m : Nat) (e : Int), c < 2 ^ 32 → decodeExact tFp32 c = .fin s m e →
    geMag m e 1 (-103) = true → geMag m e tBf16.boundM tBf16.boundE = false →
    (convertLimbs 3 strict ext (.fin s m e)).2 = fNone ∧
    ∀ w, w ≤ e - 8 → Rules.limbSum w (convertLimbs 3 strict ext (.fin s m e)).1 = toInt (.fin s m e) w) ∧
  (∀ (ext : Bool) (l : List Nat), (∀ c ∈ l, ∃ s m e, (readCode tBf16 c).1 = .fin s m e) →
    ∃ s m e, (readLimbs ext l).1 = .fin s m e ∧ ∀ w, w ≤ -133 → toInt (.fin s m e) w = Rules.limbSum w l) ∧
  (∀ (m : Nat) (j : Int), (0 ≤ j → place m j = m * 2 ^ j.toNat) ∧
    (j < 0 → place m j = if m % 2 ^ (-j).toNat = 0 then m / 2 ^ (-j).toNat else m / 2 ^ (-j).toNat ||| 1)) ∧
  (∀ (u : Int) (vs ws : List Val), vs.Perm ws → windowSum u vs = windowSum u ws ∧ topExp vs = topExp ws) ∧
  ∀ (u : Int) (vs : List Val), (∀ s m e, Val.fin s m e ∈ vs → m = 0 ∨ u ≤ e) →
    windowSum u vs = (vs.map fun v => toInt v u).sum

/-- R84 to R86, R109, Table 3.3: an add is the exact sum of its operands, rounded once to nearest, with no SATURATE: at or above the
boundary it is an infinity. It commutes, and is FMA with 1.0. NaN and infinities give what Table 3.3 says. -/
def Sys2Proof.Rules.addsRule : Prop :=
  (∀ t ∈ Rules.scalars, ∀ (s : Bool) (m : Nat) (e : Int), 0 < m →
    let k := (roundTo t none m e).1
    let q := (roundTo t none m e).2
    (geMag m e t.boundM t.boundE = true → roundArith t s m e = (infCode t s, fOvf)) ∧
    (geMag m e t.boundM t.boundE = false → roundArith t s m e =
      (encCode (convertFin t false none s m e).1, (convertFin t false none s m e).2)) ∧
    (geMag m e t.boundM t.boundE = false → gtMag 1 t.emin k q = false → ∃ m' e',
      decodeExact t (roundArith t s m e).1 = .fin s m' e' ∧ toInt (.fin s m' e') (min e' q) = toInt (.fin s k q) (min e' q))) ∧
  (∀ t ∈ Rules.scalars, ∀ (a b : Nat) (s r : Bool) (m n : Nat) (e g : Int),
    (operand t a).2.1 = .fin s m e → (operand t b).2.1 = .fin r n g →
    ∀ u, u ≤ e → u ≤ g →
      let x := toInt (.fin s m e) u + toInt (.fin r n g) u
      (add1 t a b).1 = if x ≠ 0 then (roundArith t (decide (x < 0)) x.natAbs u).1
        else zeroCode t (m == 0 && n == 0 && s && r)) ∧
  (∀ t ∈ Rules.scalars, ∀ a b : Nat, add1 t a b = add1 t b a) ∧
  (∀ q ∈ [(tFp32, 0x3F800000), (tBf16, 0x3F80), (tFp16, 0x3C00)], ∀ a b : Nat, fma q.1 a q.2 b = add1 q.1 a b) ∧
  ∀ (t : Target) (v : Val) (s : Bool),
    addVal t .nan v = (t.nanCode, fNone) ∧ addVal t v .nan = (t.nanCode, fNone) ∧
    addVal t (.inf s) (.inf !s) = (t.nanCode, fInvalid) ∧ addVal t (.inf s) (.inf s) = (infCode t s, fNone) ∧
    ∀ r m e, addVal t (.inf s) (.fin r m e) = (infCode t s, fNone) ∧ addVal t (.fin r m e) (.inf s) = (infCode t s, fNone)

/-- R93 to R95, R109 to R112, R115 to R117: products of a block are added in a window, whatever their order, in blocks of 16; FMA rounds
the exact value once; MIN and MAX choose an operand; SCL rounds a × 2^k; the tables of RCP and RSQ hold the nearest integers, and
zeros, infinities, negative values and NaN have the results of the manual. -/
def Sys2Proof.Rules.operationsRule : Prop :=
  (∀ l l' : List (Val × Val), l.Perm l' → blockDot l = blockDot l') ∧
  (dot [] = (0, fNone) ∧ ∀ l, l ≠ [] → l.length ≤ 16 → dot l = blockDot l) ∧
  (∀ l l' : List (Val × Val), l.length % 16 = 0 → l ≠ [] → l' ≠ [] → l'.length ≤ 16 →
    (dot (l ++ l')).1 = (add1 tFp32 (dot l).1 (blockDot l').1).1) ∧
  (∀ (t : Target) (s r z : Bool) (m n k c : Nat) (e g h : Int), m ≠ 0 → n ≠ 0 → k ≠ 0 →
    ∀ u, u ≤ e + g → u ≤ h →
      let x := toInt (.fin (s != r) (m * n) (e + g)) u + toInt (.fin z k h) u
      (fmaVal t (.fin s m e) (.fin r n g) (c, .fin z k h)).1 =
        if x ≠ 0 then (roundArith t (decide (x < 0)) x.natAbs u).1 else zeroCode t false) ∧
  (∀ (t : Target) (big : Bool) (a b : Nat × Val),
    (a.2 = .nan ∨ b.2 = .nan → minMax t big a b = t.nanCode) ∧
    (a.2 ≠ .nan → b.2 ≠ .nan → isZero a.2 = false ∨ isZero b.2 = false →
      (minMax t big a b = a.1 ∧ (if big then ltVal a.2 b.2 else ltVal b.2 a.2) = false) ∨
      (minMax t big a b = b.1 ∧ (if big then ltVal b.2 a.2 else ltVal a.2 b.2) = false))) ∧
  (∀ (t : Target) (c m : Nat) (s : Bool) (e k : Int),
    scl t (c, .nan) k = (c, fNone) ∧ scl t (c, .inf s) k = (c, fNone) ∧ scl t (c, .fin s 0 e) k = (c, fNone) ∧
    (m ≠ 0 → scl t (c, .fin s m e) k = roundArith t s m (e + k))) ∧
  (∀ j < 256, 256 ≤ trcp j ∧ trcp j ≤ 511 ∧ (2 * trcp j - 1) * (513 + 2 * j) < 2 ^ 19 ∧ 2 ^ 19 < (2 * trcp j + 1) * (513 + 2 * j)) ∧
  (∀ j < 256, let v := if j < 128 then 257 + 2 * j else 2 * (257 + 2 * (j - 128))
    (2 * trsq j - 1) ^ 2 * v < 2 ^ 28 ∧ 2 ^ 28 < (2 * trsq j + 1) ^ 2 * v) ∧
  ∀ x < 2 ^ 32,
    ((operand tFp32 x).2.1 = .nan → (rcp x).1 = 0x7FC00000 ∧ (rsq x).1 = 0x7FC00000) ∧
    (∀ s e, (operand tFp32 x).2.1 = .fin s 0 e → (rcp x).1 = infCode tFp32 s ∧ (rsq x).1 = infCode tFp32 s) ∧
    (∀ s, (operand tFp32 x).2.1 = .inf s → (rcp x).1 = zeroCode tFp32 s) ∧
    ((operand tFp32 x).2.1 = .inf false → (rsq x).1 = 0) ∧
    (∀ v, (operand tFp32 x).2.1 = v → valNeg v = true → isZero v = false → (rsq x).1 = 0x7FC00000 ∧ (rsq x).2 &&& fInvalid = fInvalid)

/-- Chapters 2 to 4: formats, rounding, conversion, limbs, blocks, adds, dot products and the operations of stitch programs. -/
def Obligations.NumbersRoundAndConvert : Prop :=
  Rules.roundingRule ∧ Rules.packRule ∧ Rules.conversionRule ∧ Rules.specialsRule ∧ Rules.blocksRule ∧ Rules.limbsRule ∧
  Rules.addsRule ∧ Rules.operationsRule

/-! ## The needle bed and chunks (R30, R79, R126, R156, R158, R430, R431) -/

/-- R25, R30, R126: STITCH_DISPATCH starts the head of the queue where the bed is idle, with the program of its slot: behind what the
bed has still to pass, a change of program costs 256 handshakes, and the stitch its own. A stitch of a group that is gone is passed
over. Else nothing changes. -/
def Sys2Proof.Rules.stitchStartRule : Prop :=
  ∀ (s : State) (x : Stitch) (rest : List Stitch),
    (s.bed.running = none → s.bed.queue = x :: rest → findGroup s x.group = none →
      exec .stitchDispatch s = .next { s with bed := { s.bed with queue := rest } }) ∧
    (∀ g : Group, s.bed.running = none → s.bed.queue = x :: rest → findGroup s x.group = some g →
      Answers (exec .stitchDispatch s) fun t =>
        let prog := stitchImage s g.record x
        t.bed = {
          queue := rest, running := some (x, x.time.getD (BitVec.ofNat 64 (fabricTime s))), void := false
          work := s.bed.work ++ (if s.bed.program = none ∨ s.bed.program = some prog then [] else [.change 256]) ++
            [.stitch (stitchLoad s g x) 0]
          program := some prog } ∧
        (∀ i c, instAt g (x.node, x.shard) = some i → ctxAt i x.seq x.chunk = some c → ∃ g' i',
          findGroup t x.group = some g' ∧ instAt g' (x.node, x.shard) = some i' ∧
          ctxAt i' x.seq x.chunk = some { c with stage := .running }) ∧
        ChangesOnly [.bed, .groups] s t) ∧
    (s.bed.queue = [] ∨ s.bed.running ≠ none → exec .stitchDispatch s = .next s)

/-- R126, R430, R431: every handshake of a tick is counted. Those of a change of program are wasted in every column; a stitch of n
elements at cost C takes ⌈n / N⌉ × C handshakes and its preamble's, retired in every column of a full wave and in the columns in use
of a part of one, and wasted throughout where it is a discarded duplicate; waits are starved; an idle bed starves at the front, and
one whose stitch has no instruction left at the back, until its result is taken. -/
def Sys2Proof.Rules.handshakesRule : Prop :=
  (∀ s : State,
    let h := (s.perf.rateFrac + handshakeRate s) / 100
    let t := tickHandshakes s
    let slots := BitVec.ofNat 48 (s.columns * h)
    t.perf.handshakes = s.perf.handshakes + BitVec.ofNat 48 h ∧ t.bed.running = s.bed.running ∧ t.bed.queue = s.bed.queue ∧
    (s.bed.work = [] → t.bed.work = [] ∧ t.perf.retired = s.perf.retired ∧ t.perf.wasted = s.perf.wasted ∧
      (s.bed.running = none → t.perf.front = s.perf.front + slots ∧ t.perf.back = s.perf.back) ∧
      (s.bed.running ≠ none → t.perf.back = s.perf.back + slots ∧ t.perf.front = s.perf.front)) ∧
    (∀ k ws, s.bed.work = .change k :: ws → h < k → t.bed.work = .change (k - h) :: ws ∧
      t.perf.wasted = s.perf.wasted + slots ∧ t.perf.retired = s.perf.retired ∧ t.perf.front = s.perf.front ∧
      t.perf.back = s.perf.back)) ∧
  (∀ (cols n : Nat) (l : Load), 0 < cols → 0 < l.cost →
    let need := ceilDiv l.elems (cols * 1024) * l.cost + l.pre
    let a := passPiece cols n (.stitch l 0)
    (n < need → a.1.busy = n ∧ a.2 = (some (.stitch l n), 0)) ∧
    (need ≤ n → a.1.busy = need ∧ a.2 = (none, n - need) ∧
      (l.dup = true → a.1.retired = 0) ∧
      (l.dup = false → ∀ q, 0 < q → l.elems = q * (cols * 1024) → a.1.retired = need * cols) ∧
      (l.dup = false → 0 < l.elems → l.elems < cols * 1024 → a.1.retired = need * l.last))) ∧
  (∀ (cols n f b : Nat), f + b ≤ n → passPiece cols n (.wait f b) = ({ front := f, back := b }, none, n - f - b)) ∧
  ∀ (s : State) (g : Group) (x : Stitch) (op : Op) (i : Inst), findOp g x.seq = some op → instAt g (x.node, x.shard) = some i →
    let l := stitchLoad s g x
    let rest := chunkLen g.record op x.chunk % (s.columns * 1024)
    l.elems = chunkLen g.record op x.chunk ∧ l.last ≤ s.columns ∧ ceilDiv rest 1024 ≤ l.last ∧ l.last ≤ rest ∧
    (l.dup = true ↔ x.kind = .reduce ∧ op.op = 6 ∧ isRoot g.record i = true ∧ x.chunk ∈ op.applied)

/-- The bed once its stitch has ended: nothing runs, and the handshakes it waited have yet to pass. -/
def Sys2Proof.Rules.bedEnds (front back : BitVec 32) (s : State) : State :=
  { s with bed := { s.bed with
    running := none, void := false, work := s.bed.work ++ [.wait front.toNat back.toNat] } }

/-- The stitch `x` of an operation of a group runs at an instance here, and reads no lost hank and no lost shard. -/
def Sys2Proof.Rules.runs (s : State) (x : Stitch) (time : BitVec 64) (g : Group) (op : Op) (i : Inst) : Prop :=
  s.bed.running = some (x, time) ∧ s.bed.void = false ∧ findGroup s x.group = some g ∧ findOp g x.seq = some op ∧
  instAt g (x.node, x.shard) = some i ∧ lostApply s = none ∧ lostStitch s = none

/-- R30, R82, R149, R154, R364: STITCH_COMPLETE of a REDUCE. The reduced value, which is that of the fixed tree (R79) under the program
the stitch started with, goes up to the parent from an instance that is no root. At a root it is converted and sent down (phases X
and D); or it is the input of a MAP stitch (`apply_map`); or, of a REDUCE_APPLY, of an APPLY stitch, but where the chunk has been
applied, when its new values are sent down again, with the flags that its APPLY set. -/
def Sys2Proof.Rules.reduceRule : Prop :=
  ∀ (s : State) (front back : BitVec 32) (x : Stitch) (time : BitVec 64) (g : Group) (op : Op) (i : Inst) (c : Ctx),
    Rules.runs s x time g op i → x.kind = .reduce → ctxAt i x.seq x.chunk = some c → c.stage = .running → c.attempt = x.attempt →
    let r := g.record
    let img := runImage s
    let out := reduceChunk img g op i c time.toNat
    let k := instKey i
    let v := addNondet g.id op.seq (b2n r.arrival + b2n (imgReadsTime img))
      (count { code := 0x10 } 1 (readSlots g c (Rules.bedEnds front back s)))
    let ends (t : State) : Prop := exec (.stitchComplete front back) s = .next (settled x.group (flipNow x.group t))
    let next : Stitch := { kind := .map, group := g.id, node := i.node, shard := i.shard, seq := op.seq, chunk := c.chunk
                           attempt := c.attempt, input := out.1, flags := out.2 }
    let held := countValue g k op.seq c.chunk 0x21 out.1.length v
    (isRoot r i = false → ends (sendUp g op i c.chunk c.attempt out.2 out.1 none (ctxDone g.id k op.seq c.chunk v))) ∧
    (isRoot r i = true → op.op ≠ 6 → dMap op.desc = false →
      ends (rootCheck g.id k op.seq c.chunk
        (phaseX g op i c.chunk (Spec.ofNat r.workFmt) true out.2 out.1 (ctxDone g.id k op.seq c.chunk v)))) ∧
    (isRoot r i = true → op.op ≠ 6 → dMap op.desc = true → ends { held with bed := { held.bed with
      queue := held.bed.queue ++ [next] } }) ∧
    (isRoot r i = true → op.op = 6 → c.chunk ∉ op.applied → (∀ h ∈ op.heldChunks, h.chunk ≠ c.chunk) →
      applyQueued v g.id op.seq c.chunk = false →
      let begun := updShard g.id (k.2.getD 0) (fun sh => { sh with begun := max sh.begun (dStep op.desc) }) held
      ends { begun with bed := { begun.bed with queue := begun.bed.queue ++ [{ next with kind := .apply1 }] } }) ∧
    (isRoot r i = true → op.op = 6 → c.chunk ∈ op.applied →
      ends (rootCheck g.id k op.seq c.chunk (sendWeights g.id op.seq false c.chunk
        (fun sh => if op.committed = some true then sh.gen else !sh.gen) [0] (out.2 ||| tget 0 op.chunkFlags c.chunk)
        (ctxDone g.id k op.seq c.chunk v))))

/-- R101, R149, R150, R364: STITCH_COMPLETE of a MAP: its result goes through phase X, with the flags of what came before, and the
buffer of a forwarded chunk that it has read is released. -/
def Sys2Proof.Rules.mapRule : Prop :=
  ∀ (s : State) (front back : BitVec 32) (x : Stitch) (time : BitVec 64) (g : Group) (op : Op) (i : Inst),
    Rules.runs s x time g op i → x.kind = .map →
    let r := g.record
    let img := runImage s
    let out := mapChunk g op x.chunk time.toNat img x.input
    let k := instKey i
    let v := addNondet g.id op.seq (b2n (imgReadsTime img)) (count { code := 0x10 } 1 (Rules.bedEnds front back s))
    let reducing := isReducing op.op
    let read := if reducing then countValue g k op.seq x.chunk 0x20 x.input.length v else v
    let sent := phaseX g op i x.chunk (if reducing then Spec.ofNat r.workFmt else inSpec op) true (x.flags ||| out.2) out.1
      (ctxDone g.id k op.seq x.chunk read)
    exec (.stitchComplete front back) s = .next (settled x.group (flipNow x.group (rootCheck g.id k op.seq x.chunk
      (match x.buf with
        | some b => releaseHolder b sent
        | none => sent))))

/-- R30, R119, R120, R123, R189, R190, Table 5.9: STITCH_COMPLETE of an APPLY. Protected hanks that it would write are copied first,
and the stitch goes on. Else every stream that its phase writes is stored; and the last phase's chunk,
where no accumulator is fed, goes to phases M (the mirror), X and D. Any other chunk is kept until its span's accumulators allow it
to go on. A stitch whose group has ended ends without effect. -/
def Sys2Proof.Rules.applyRule : Prop :=
  ∀ (s : State) (front back : BitVec 32) (x : Stitch) (time : BitVec 64),
    let ends (t : State) : Prop := exec (.stitchComplete front back) s = .next (settled x.group (flipNow x.group t))
    (s.bed.running = none → exec (.stitchComplete front back) s = .next s) ∧
    (s.bed.running = some (x, time) → s.bed.void = true → ends (Rules.bedEnds front back s)) ∧
    ∀ (g : Group) (op : Op) (i : Inst) (sh : Shard), Rules.runs s x time g op i →
      g.shards.find? (fun sh => some sh.index == x.shard) = some sh →
      ∀ phase : Nat, (x.kind = .apply1 ∧ phase = 1) ∨ (x.kind = .apply2 ∧ phase = 2) →
      let img := runImage s
      let loads := (streamsOf 0x10 (imgSection img phase false)).eraseDups
      let out := applyPhase s g op sh x.chunk phase time.toNat x.input img
      let wait := applyBlocked s g op sh x.chunk (streamsOf 0x11 (imgSection img phase false)).eraseDups
      let read := forEach (loads.filter (· != 0)) (fun k =>
        countChunkRead g sh (if k ≤ 3 then k - 1 else k) sh.gen op x.chunk) s
      let stored := out.1.foldl (fun (a : State × BitVec 6) q =>
        ((storeStream g op sh x.chunk q a.1).1, a.2 ||| (storeStream g op sh x.chunk q a.1).2)) (read, x.flags ||| out.2.2)
      let k := (x.node, x.shard)
      let run := Rules.bedEnds front back stored.1
      let run := if phase = 1 then countValue g k op.seq x.chunk 0x20 x.input.length run else run
      let run := if phase = imgPhases img then count { code := 0x10 } 1 run else run
      let v := addNondet g.id op.seq (if phase = 1 then b2n (imgReadsTime img) else 0) run
      (wait ≠ [] → ends { s with
        skein := { s.skein with copying := (s.skein.copying ++ wait).eraseDups }
        bed := { s.bed with work := s.bed.work ++ [.wait front.toNat back.toNat] } }) ∧
      (wait = [] → phase = imgPhases img → feedsAcc img phase = false →
        ends (finishApply g.id k op.seq x.chunk stored.2 v)) ∧
      (wait = [] → phase ≠ imgPhases img ∨ feedsAcc img phase = true →
        ends (releaseHeld g.id k op.seq img (updOp g.id op.seq (fun o =>
          out.2.1.foldl (fun o b => giveBlocks img sh.index x.chunk phase b.1 b.2 o) { o with heldChunks := o.heldChunks ++
            [{ chunk := x.chunk, phase := phase, input := x.input, flags := stored.2, time := BitVec.ofNat 64 time.toNat }] }) v)))

/-- R120, R184, R189, Table 6.7: a stream's values stored by an APPLY, with no protected hank in the way: the chunk's part of the
array reads as the encoded values, that of streams 8 to 10 in the set that is not current; every other element of the array, and
every byte outside its hanks, is as it was. -/
def Sys2Proof.Rules.storesRule : Prop :=
  ∀ (s : State) (g : Group) (op : Op) (sh : Shard) (c k : Nat) (vs : List Val), 4 ≤ k → k ≤ 10 →
    let r := g.record
    let x := if 8 ≤ k then k - 8 else k
    let hanks := arraySet sh x (8 ≤ k && !sh.gen)
    let f := arrayFmt r x
    let o := elemOff f (chunkFirst r op c - (entryOf r sh.index).base)
    let e := encodeStream (Spec.ofNat f)
      { sto := (Spec.ofNat f).sto, seed := r.seed, seq := op.seq, site := 4 + k, stream := 0 } false 0 (chunkFirst r op c) vs
    let out := storeStream g op sh c (k, vs) s
    MemWf s → hanks.Nodup → (∀ h ∈ hanks, isProtected s h = false) → o + e.1.length ≤ hanks.length * hankBytes →
    out.2 = e.2 ∧ arrayRead out.1 hanks o e.1.length = e.1 ∧
    (∀ m n, m + n ≤ o ∨ o + e.1.length ≤ m → m + n ≤ hanks.length * hankBytes →
      arrayRead out.1 hanks m n = arrayRead s hanks m n) ∧
    (∀ a, a / hankBytes ∉ hanks → memGet out.1.skein.mem a = memGet s.skein.mem a) ∧ MemWf out.1 ∧
    ChangesOnly [.skeinMem, .perf] s out.1

/-- R30, R82, R101, R119 to R126, R149, R184, R189, R429 to R431: stitches start in order, the handshakes they take are counted, and
REDUCE, MAP and APPLY end. Completes: stitchDispatch, stitchComplete. -/
def Obligations.StitchesRun : Prop :=
  Rules.stitchStartRule ∧ Rules.handshakesRule ∧ Rules.reduceRule ∧ Rules.mapRule ∧ Rules.applyRule ∧ Rules.storesRule

/-- R79, R81: the tree of a reduction splits a range of w operands at the greatest power of two below w, left part first; of
a group with fixed order each element of a chunk is the combination of its slots' values in slot order by that rule, and the
order in which slots filled has no part in it. -/
def Obligations.ReductionTreeIsFixed : Prop :=
  (∀ (α : Type) [Inhabited α] (f : α → α → α × Flags) (xs ys : List α) (k : Nat),
    xs.length = 2 ^ k → 1 ≤ ys.length → ys.length ≤ 2 ^ k →
    combine f (xs ++ ys) =
      ((f (combine f xs).1 (combine f ys).1).1,
        (combine f xs).2 ||| (combine f ys).2 ||| (f (combine f xs).1 (combine f ys).1).2)) ∧
  (∀ (α : Type) [Inhabited α] (f : α → α → α × Flags) (x : α), combine f [x] = (x, fNone)) ∧
  (∀ (α : Type) [Inhabited α] (f : α → α → α × Flags) (xs : List α), 2 ≤ xs.length →
    let mid := 2 ^ (ceilLog2 xs.length - 1)
    mid < xs.length ∧ xs.length ≤ 2 * mid ∧
    (combine f xs).1 = (f (combine f (xs.take mid)).1 (combine f (xs.drop mid)).1).1) ∧
  (∀ (α : Type) [Inhabited α] (f : α → α → α × Flags) (a b c d e g : α),
    let o : α → α → α := fun u v => (f u v).1
    (combine f [a, b, c, d, e]).1 = o (o (o a b) (o c d)) e ∧
    (combine f [a, b, c, d, e, g]).1 = o (o (o a b) (o c d)) (o e g)) ∧
  (∀ (img : Image) (g : Group) (op : Op) (i : Inst) (x : Ctx) (time : Nat), g.record.arrival = false →
    let r := g.record
    let n := chunkLen r op x.chunk
    let e := chunkFirst r op x.chunk
    let value (k : Nat) := if (nodeAt r i.node).slotLevel = 0 then
        (decodeWorking (slotSpec r op i) true (dRowLen op.desc) e n (slotBytes (x.slots.getD k {}))).1
      else rawWorking r.workFmt n (slotBytes (x.slots.getD k {}))
    (reduceChunk img g op i x time).1 = packWorking r.workFmt ((List.range n).map fun j =>
      (combine (reduceOp img r.workFmt (phaseIn g op time e [0, 0, 0, 0]) (e + j))
        ((List.range x.slots.length).map fun k => (value k).getD j [])).1)) ∧
  ∀ (img : Image) (g : Group) (op : Op) (i : Inst) (x : Ctx) (time : Nat) (order : List (Nat × Nat)), g.record.arrival = false →
    reduceChunk img g op i { x with order := order } time = reduceChunk img g op i x time

/-- R158, R160: a stitch whose dwell limit has passed while it fills is dropped and its abort sent on; before the limit nothing
happens. -/
def Sys2Proof.Rules.dwellRule : Prop :=
  ∀ (s : State) (group : BitVec 24) (node : BitVec 16) (seq chunk : BitVec 32) (g : Group) (op : Op) (i : Inst) (x : Ctx)
    (t0 : Nat),
    let gid := group.toNat
    liveGroup s gid = some g → findOp g seq.toNat = some op → instFor g op node.toNat chunk.toNat = some i →
    ctxAt i seq.toNat chunk.toNat = some x → x.start = some t0 → x.stage = .filling →
    (g.record.dwellLimit ≤ s.clock.now - t0 →
      exec (.dwellExpiry group node seq chunk) s = .next (settled gid
        (takeAbort gid (instKey i) op chunk.toNat x.attempt none true (count { code := 0x11 } 1 s)))) ∧
    (s.clock.now - t0 < g.record.dwellLimit → exec (.dwellExpiry group node seq chunk) s = .next s)

/-- R156 and Table 5.10: a chunk that every instance here has finished is complete once, and signals its row counter, chunk
index shifted right by `row_shift`; a chunk that is not finished, or has been counted, changes nothing. -/
def Sys2Proof.Rules.chunkRule : Prop :=
  ∀ (s : State) (group : BitVec 24) (seq chunk : BitVec 32) (g : Group) (op : Op),
    let gid := group.toNat
    let c := chunk.toNat
    liveGroup s gid = some g → findOp g seq.toNat = some op →
    (chunkReady s g op c = true → op.again = false → c < op.chunks → op.complete.contains c = false → op.failed.contains c = false →
      op.op < 4 → op.resend = none → dRowShift op.desc < 32 →
      exec (.chunkComplete group seq chunk) s = .next (settled gid (addRow (dRowBase op.desc + (c >>> dRowShift op.desc)) 1
        (updOp gid seq.toNat (fun o => { o with complete := o.complete ++ [c] }) s)))) ∧
    (chunkReady s g op c = false ∨ op.again = true ∨ op.complete.contains c = true ∨ op.failed.contains c = true →
      exec (.chunkComplete group seq chunk) s = .next s)

/-- R156, R158, R160: chunks that complete, and stitches that are dropped. Completes: dwellExpiry, chunkComplete. -/
def Obligations.ChunksEnd : Prop := Rules.dwellRule ∧ Rules.chunkRule

/-! ## Shards and steps (chapters 6 and 11) -/

/-- R190, R256: STEP_SEAL with every mirror write there flips the sets of the shards partnered here as one change and is
recorded; with one missing it waits. A step sealed already is answered again. STEP_SEAL with `abandon` flips nothing. Where the
shards are to be handed over at the end of the step (R344), they are owned here from then on. -/
def Sys2Proof.Rules.sealRule : Prop :=
  ∀ (s : State) (p : Packet) (g : Group) (step : Nat),
    let gid := field p.hdr 8 3
    crcOk p = true → step = field p.hdr 16 8 → findGroup s gid = some g → g.phase = .active → Rules.restful g →
    g.secureReq = false →
    (bit (field p.hdr 11 1) 0 = false → 1 ≤ step → (∃ sh ∈ heldShards g false, step ≤ sh.step) →
      exec (.stepSeal p) s = .next (settled gid (sendSealed gid step (consume p s)))) ∧
    (bit (field p.hdr 11 1) 0 = false → (∀ sh ∈ heldShards g false, step = 0 ∨ sh.step < step) →
      ((∀ sh ∈ heldShards g false, sh.lost = false → mirrorFull g sh = true) →
        Answers (exec (.stepSeal p) s) fun t => ∃ g', findGroup t gid = some g' ∧ g'.sealDue = none ∧
          g'.seals = g.seals ++ [(step, true)] ∧
          g'.shards = g.shards.map (fun sh => if sh.owner = false then { sh with
            gen := !sh.gen, step := step, refill := false, mirrorBytes := 0, owner := g.swapDue.contains false } else sh)) ∧
      ((∃ sh ∈ heldShards g false, sh.lost = false ∧ mirrorFull g sh = false) →
        Answers (exec (.stepSeal p) s) fun t => ∃ g', findGroup t gid = some g' ∧ g'.sealDue = some step ∧
          g'.shards = g.shards)) ∧
    (bit (field p.hdr 11 1) 0 = true → Answers (exec (.stepSeal p) s) fun t =>
      ∃ g', findGroup t gid = some g' ∧ g'.sealDue = none ∧
        g'.shards = g.shards.map (fun sh => if sh.owner then sh
          else { sh with mirrorBytes := 0, owner := g.swapDue.contains false }))

/-- R190, R192, R256: the step whose seal is answered commits once no APPLY reads the old set: the sets of the shards owned
here flip as one change and the step is the last committed. Where they are to be handed over at the end of the step (R344), they are
the partner's from then on. GENERATION_FLIP makes the flip that waited. An unanswered seal is sent again every 100 µs. -/
def Sys2Proof.Rules.commitRule : Prop :=
  ∀ (s : State) (g : Group) (op : Op) (step t0 : Nat),
    g.ops = [op] → op.op = 6 → op.resend = none → op.sealSent = some t0 → op.committed = none →
    g.queue = [] → g.held = [] → g.earlyAborts = [] → g.bindTok = none → g.recast = none → g.secureReq = false →
    g.phase = .active →
    let flipped (gid : Nat) (t : State) : Prop := ∃ g', findGroup t gid = some g' ∧ g'.lastStep = step ∧
      g'.shards = g.shards.map (fun sh => if sh.owner then { sh with
        gen := !sh.gen, step := step, refill := false, mirrorBytes := 0, owner := !g.swapDue.contains true } else sh)
    (∀ p : Packet, crcOk p = true → field p.hdr 16 8 = step → findGroup s (field p.hdr 8 3) = some g → dStep op.desc = step →
      op.abandon = false → g.flipDue = none → applyRunning s (field p.hdr 8 3) = false →
      Answers (exec (.stepSealed p) s) (flipped (field p.hdr 8 3))) ∧
    (∀ w : BitVec 24, findGroup s w.toNat = some g → g.flipDue = some step → dStep op.desc = step →
      applyRunning s w.toNat = false → Answers (exec (.generationFlip w) s) (flipped w.toNat)) ∧
    (∀ w : BitVec 24, findGroup s w.toNat = some g → g.flipDue = none → 125000 ≤ s.clock.now - t0 →
      exec (.stepSealRetry w) s =
        .next (sendCtl (sealPacket s w.toNat (dStep op.desc) op.abandon)
          (updOp w.toNat op.seq (fun o => { o with sealSent := some s.clock.now }) s))) ∧
    (∀ w : BitVec 24, findGroup s w.toNat = some g → s.clock.now - t0 < 125000 → exec (.stepSealRetry w) s = .next s)

/-- R190, R192, R256: the seal at the partner and the commit at the owner. Completes: stepSeal, stepSealed, generationFlip,
stepSealRetry. -/
def Obligations.StepsSealAndCommit : Prop := Rules.sealRule ∧ Rules.commitRule

/-- R189, R342, R343: SECURE_POINT with no step posted protects the current set of every shard, and with one posted waits for
its end; RELEASE_SECURE lifts the protection; SNAPSHOT_COPY copies the protected hank byte for byte into the hank
reserved for it and changes no other hank. Completes: securePoint, releaseSecure, snapshotCopy. -/
def Obligations.SecurePointsProtect : Prop :=
  ∀ (s : State) (sq : BitVec 8) (d : Desc) (g : Group),
    let u := taking s sq d
    let t0 := tokOf s sq d
    let gid := dGroup d
    (dRsvdOk d [(8, 3)] = true → findGroup s gid = some g → g.phase = .active →
      (∀ hs v, Taken s sq d 0x22 → applyPosted g = false → applyQueuedUp g = false →
        reserveSnapshots (g.shards.flatMap (currentHanks g)) (updGroup gid (fun g => { g with secureReq := false }) u) =
          some (hs, v) →
        Answers (exec (.securePoint sq d) s) fun t => (∃ g', findGroup t gid = some g' ∧ g'.secureReq = false ∧
          g'.shards = g.shards.map (fun sh => { sh with
            secure := some { set := sh.gen, hanks := hs.filter fun q => (currentHanks g sh).contains q.1 } })) ∧
          Rules.finished t0 t) ∧
      (Taken s sq d 0x22 → applyPosted g = true ∨ applyQueuedUp g = true → exec (.securePoint sq d) s =
        .next (ok t0 0 [] (updGroup gid (fun g => { g with secureReq := true }) u))) ∧
      (Taken s sq d 0x23 → Answers (exec (.releaseSecure sq d) s) fun t => (∃ g', findGroup t gid = some g' ∧
        g'.shards = g.shards.map (fun sh => { sh with secure := none })) ∧ Rules.finished t0 t)) ∧
    ∀ (h : BitVec 19) (c : Nat) (sh : Shard) (p : Secure), MemWf s →
      (s.skein.copying.contains h.toNat = true → s.skein.waitPuts = [] → s.groups = [g] → g.shards = [sh] →
        sh.secure = some p → p.hanks.find? (fun q => q.1 == h.toNat && !q.2.2) = some (h.toNat, c, false) →
        Answers (exec (.snapshotCopy h) s) fun t =>
          (∀ o, o < hankBytes →
            memGet t.skein.mem (c * hankBytes + o) = memGet s.skein.mem (h.toNat * hankBytes + o)) ∧
          (∀ a, a / hankBytes ≠ c → memGet t.skein.mem a = memGet s.skein.mem a) ∧
          isProtected t h.toNat = false ∧ t.skein.copying.contains h.toNat = false) ∧
      (s.skein.copying.contains h.toNat = false → exec (.snapshotCopy h) s = .next s)

/-- R187, R407, R408: SHARD_READ copies elements of the current set to host memory; SHARD_WRITE of an FP32 array of a shard
that runs solo makes exactly those elements read as the host's bytes, and no hank outside the array changes;
STEP_RECORD_READ writes the entries of a kept step, reports by (group, `owner`) and notes by endpoint, from `first` and at
most ⌊`length` / 256⌋ of them; a step not kept completes with RANGE. Completes: shardRead, shardWrite, stepRecordRead. -/
def Obligations.ShardAccessCommands : Prop :=
  ∀ (s : State) (sq : BitVec 8) (d : Desc) (h : HostRead) (g : Group) (sh : Shard),
    let u := taking s sq d
    let t0 := tokOf s sq d
    let x := field d 14 1
    let first := field d 16 8
    let n := field d 24 8
    let hanks := arraySet sh x sh.gen
    let cnt := (entryOf g.record sh.index).count
    (findGroup s (dGroup d) = some g → g.phase = .active → g.shards.find? (·.index == field d 12 2) = some sh →
      dRsvdOk d shardFields = true → n ≠ 0 →
      (Taken s sq d 0x21 → shardError g false d = none → field d 15 1 = 0 →
        let f := arrayFmt g.record x
        let ab := storedRange f cnt first n
        exec (.shardRead sq d) s = .next (ok t0 0 [] (hostWrite (field d 32 8) (loadElems u f cnt hanks first n)
          (countSkein 0x20 1 hanks (elemOff f ab.1) (arrayLen f (ab.2 - ab.1)) u)))) ∧
      (∀ bs, Taken s sq d 0x20 → shardError g true d = none → arrayFmt g.record x = 0 → sh.solo = true → MemWf s →
        hanks.Nodup → cnt * 4 ≤ hanks.length * hankBytes → (∀ k ∈ hanks, isProtected s k = false) →
        hostRead u (field d 32 8) (n * 4) h = some bs →
        Answers (exec (.shardWrite sq d h) s) fun t =>
          loadElems t 0 cnt hanks first n = bs ∧
          (∀ m k, m + k ≤ first ∨ first + n ≤ m → m + k ≤ cnt → loadElems t 0 cnt hanks m k = loadElems s 0 cnt hanks m k) ∧
          (∀ a, a / hankBytes ∉ hanks → memGet t.skein.mem a = memGet s.skein.mem a) ∧ Rules.finished t0 t)) ∧
    (Taken s sq d 0x24 → dRsvdOk d [(8, 1), (16, 8), (24, 8), (32, 4), (36, 4)] = true → leadRole s ≠ 0 → field d 8 1 ≤ 1 →
      (s.course.records.find? (·.step == field d 16 8) = none →
        exec (.stepRecordRead sq d) s = .next (complete t0 1 dtRange 0 [] u)) ∧
      ∀ y, s.course.records.find? (·.step == field d 16 8) = some y →
        let all := recordEntries y (field d 8 1 == 1)
        let es := (all.drop (field d 36 4)).take (field d 32 4 / 256)
        exec (.stepRecordRead sq d) s = .next (ok t0 es.length (leBytes 4 all.length)
          (if es = [] then u else hostWrite (field d 24 8) es.flatten u))) ∧
    ∀ y : StepRec,
      (∃ l : List (List Byte), l.Perm y.reports ∧ recordEntries y false = l ∧ l.Pairwise fun a b =>
        (reportKey a).1 < (reportKey b).1 ∨ (reportKey a).1 = (reportKey b).1 ∧ (reportKey a).2 ≤ (reportKey b).2) ∧
      ∃ l : List (Nat × List Byte), l.Perm y.notes ∧ recordEntries y true = l.map (·.2) ∧ l.Pairwise fun a b => a.1 ≤ b.1

/-! ## Flows, PUT and GET (R216 to R221, R409, R425) -/

/-- R217, R218, R425: a new PUT in an endpoint's window writes its bytes there and is acknowledged with the advanced
cumulative number; a duplicate is acknowledged and writes nothing; one outside the window or of an older incarnation is dropped and
counted; one of an unknown flow is refused with FLOW_UNKNOWN. A newer incarnation starts the flow again, and every packet of the
flow renews its hour. A new GET_REQ is served from its window. A flow's state is discarded an hour after its last packet. Completes: put, getReq,
flowStateExpiry. -/
def Obligations.FlowReceiverRules : Prop :=
  (∀ (s : State) (p : Packet) (f : RxFlow),
    let u := consume p s
    let port := inPortOf p s
    let key := rxKey u p
    let seq := BitVec.ofNat 32 (pFlowSeq p)
    let dup : PEv := { code := 0x0D, port := some port, src := srcAttr p, sub := sublane p }
    (∀ hs o, judgeFlow u key (BitVec.ofNat 16 (pIncarn p)) seq = (.fresh, f) → bits (pAddr p) 63 62 = 0 →
      s.course.draining = false → pDst p = me s → pNotify p = false →
      windowRange s (pSrc p) (pAddr p) (putBytes p).length true = some (hs, o) →
      exec (.put p) s = .next (sendAck p (pFlowSeq p) (acceptSeq seq f)
        (countSkein 0x21 0 hs o (putBytes p).length (arrayWrite hs o (putBytes p) (setRx key (acceptSeq seq f) u))))) ∧
    (judgeFlow u key (BitVec.ofNat 16 (pIncarn p)) seq = (.duplicate, f) →
      exec (.put p) s = .next (sendAck p (pFlowSeq p) f (count dup 1 (setRx key f u)))) ∧
    (judgeFlow u key (BitVec.ofNat 16 (pIncarn p)) seq = (.dropped, f) →
      exec (.put p) s = .next (drop port 17 (count dup 1 (setRx key f u)))) ∧
    (judgeFlow u key (BitVec.ofNat 16 (pIncarn p)) seq = (.unknown, f) →
      exec (.put p) s = .next (sendNack p port 7 (setRx key f u)))) ∧
  (∀ (s : State) (key : Nat) (incarn : BitVec 16) (seq : BitVec 32),
    let now := s.clock.now
    let fresh : RxFlow := { started := true, incarn := incarn, cum := 0, bits := [], last := now }
    (∀ q ∈ s.flows.rx, q.1 ≠ key) → judgeFlow s key incarn seq = (.unknown, { fresh with started := false })) ∧
  (∀ (s : State) (key : Nat) (incarn : BitVec 16) (seq : BitVec 32) (f : RxFlow), s.flows.rx = [(key, f)] →
    let now := s.clock.now
    let ahead := (incarn.toNat + 65536 - f.incarn.toNat) % 65536
    let d := (seq.toNat + 2 ^ 32 - f.cum.toNat) % 2 ^ 32
    (1 ≤ ahead → ahead < 32768 →
      (judgeFlow s key incarn seq).2 = { started := true, incarn := incarn, cum := 0, bits := [], last := now }) ∧
    (ahead = 0 ∨ 32768 ≤ ahead → (judgeFlow s key incarn seq).2 = { f with last := now } ∧
      (f.started = false → (judgeFlow s key incarn seq).1 = .unknown) ∧
      (f.started = true → 32768 ≤ ahead → (judgeFlow s key incarn seq).1 = .dropped) ∧
      (f.started = true → ahead = 0 → (judgeFlow s key incarn seq).1 =
        if d < 256 then (if seq ∈ f.bits then .duplicate else .fresh) else if d < 2 ^ 31 then .dropped else .duplicate))) ∧
  (∀ (s : State) (p : Packet) (f : RxFlow) (hs : List Nat) (o : Nat),
    let u := consume p s
    let key := rxKey u p
    let seq := BitVec.ofNat 32 (field p.hdr 8 4)
    let len := field p.hdr 24 4
    judgeFlow u key (BitVec.ofNat 16 (field p.hdr 28 2)) seq = (.fresh, f) → s.course.draining = false → pDst p = me s →
    bits (pAddr p) 63 62 = 0 → len ≤ 16777216 → windowRange s (pSrc p) (pAddr p) len false = some (hs, o) → 0 < len →
    exec (.getReq p) s =
      let v := setRx key (acceptSeq seq f) u
      .next (forEach (getData v p (arrayRead v hs o len)) originateOwn (countSkein 0x20 0 hs o len v))) ∧
  ∀ (s : State) (src : BitVec 16), Answers (exec (.flowStateExpiry src) s) fun t =>
    (∀ q, q ∈ t.flows.rx ↔ q ∈ s.flows.rx ∧ (q.1 % 65536 ≠ src.toNat ∨ s.clock.now - q.2.last < 4500000000000)) ∧
    ChangesOnly [.flows] s t

/-- R218 to R221, R409 and Table 7.12 at the sender: E_ACK takes out the packets it acknowledges, but a GET_REQ for data, which
is sent again until its data is there; E_NACK with FLOW_UNKNOWN
renews the flow, with NO_ROUTE or NO_ACCESS gives the packet up, with STALE_EPOCH or AGED_OUT has it sent again. A PUT of the host that
is given up completes its INJECT with the code; any other packet, a GET_REQ whose INJECT has completed among them, is reported to the
host (log entry 26). RESEND_TIMEOUT sends a packet again when its time has come; GET_DATA is placed. INJECT of a control packet
sends it and completes with OK, and with NO_ROUTE or another refusal where the lookup refuses it (log entry 114, DEDUCED). Completes:
eAck, eNack, getData, resendTimeout, inject. -/
def Obligations.FlowSenderRules : Prop :=
  (∀ (s : State) (p : Packet) (f : TxFlow),
    let u := consume p s
    let dst := pSrc p
    getFlow s dst = some f →
    (f.incarn.toNat = field p.hdr 16 2 → f.unacked = [] →
      exec (.eAck p) s = .next (setFlow dst f u)) ∧
    (∀ x, f.incarn.toNat = field p.hdr 16 2 → f.unacked = [x] → x.seq.toNat = field p.hdr 8 4 → x.purpose = .report →
      pType x.pkt = 0x01 →
      exec (.eAck p) s = .next (setFlow dst { f with unacked := [] } u)) ∧
    (∀ x, f.incarn.toNat = field p.hdr 16 2 → f.unacked = [x] → x.seq.toNat = field p.hdr 8 4 → x.purpose = .report →
      pType x.pkt = 0x43 → field x.pkt.hdr 24 4 ≠ 0 →
      exec (.eAck p) s = .next (setFlow dst { f with unacked := [{ x with acked := true }] } u)) ∧
    (f.incarn.toNat ≠ field p.hdr 16 2 → exec (.eAck p) s = .next u ∧ exec (.eNack p) s = .next u) ∧
    (f.incarn.toNat = field p.hdr 16 2 → pCode p = 7 →
      exec (.eNack p) s = .next (sentRequests dst (renewFlow dst u))) ∧
    (∀ x, f.incarn.toNat = field p.hdr 16 2 → f.unacked.find? (·.seq == BitVec.ofNat 32 (field p.hdr 8 4)) = some x →
      (pCode p = 4 ∨ pCode p = 5 → exec (.eNack p) s = .next (giveUp dst x (pCode p) u) ∧
        (f.unacked = [x] → x.cell = none →
          let gone := setFlow dst { f with unacked := [] } u
          let told : State := { gone with flows := { gone.flows with refused := gone.flows.refused ++ [(pCode p, x.pkt.hdr)] } }
          (∀ t, x.purpose = .inject t → pType x.pkt = 0x01 ∨ isOpen u t = true → exec (.eNack p) s =
            .next (complete t (if pCode p = 4 then 0x0D else 0x0E) (pCode p) 0 [] gone)) ∧
          (∀ t, x.purpose = .inject t → pType x.pkt = 0x43 → isOpen u t = false → exec (.eNack p) s = .next told) ∧
          (x.purpose = .report → exec (.eNack p) s = .next told))) ∧
      (pCode p = 2 ∨ pCode p = 3 → x.resends < 16 →
        exec (.eNack p) s = .next (resendNow dst (BitVec.ofNat 32 (field p.hdr 8 4))
          (updTx dst (BitVec.ofNat 32 (field p.hdr 8 4)) (fun y => { y with resends := y.resends + 1 }) u)))) ∧
    ∀ x, let tag := BitVec.ofNat 32 (bits (pAddr p) 31 0)
      f.unacked.find? (fun y => pType y.pkt == 0x43 && y.seq.toNat == pFlowSeq p &&
        field y.pkt.hdr 12 4 == tag.toNat && f.incarn.toNat == pIncarn p) = some x →
      let key := (dst, f.incarn, x.seq, tag)
      let got := u.flows.got ++ [(key, bits (pAddr p) 63 32, putBytes p)]
      (gotAll got key (field x.pkt.hdr 24 4) = false →
        exec (.getData p) s = .next { u with flows := { u.flows with got := got } }) ∧
      (gotAll got key (field x.pkt.hdr 24 4) = true → exec (.getData p) s =
        .next (sentRequests dst (pumpFlow dst (dropTx dst x.seq { u with flows := { u.flows with got := got } }))))) ∧
  (∀ (s : State) (dst : BitVec 16) (seq : BitVec 32) (f : TxFlow) (x : TxPkt), getFlow s dst.toNat = some f →
    f.unacked.find? (·.seq == seq) = some x → x.sentAt.isSome = true →
    (x.due ≤ s.clock.now → exec (.resendTimeout dst seq) s = .next (resendNow dst.toNat seq s)) ∧
    (s.clock.now < x.due → exec (.resendTimeout dst seq) s = .next s)) ∧
  ∀ (s : State) (sq : BitVec 8) (d : Desc) (h : HostRead) (bs : List Byte),
    let u := taking s sq d
    let p := injected u bs
    Taken s sq d 0x48 → dRsvdOk d [(8, 2), (16, 8)] = true → field d 8 2 = 64 → hostRead u (field d 16 8) 64 h = some bs →
    (injectOk p 64 = false → exec (.inject sq d h) s = .next (complete (tokOf s sq d) 1 3 0 [] u)) ∧
    (∀ v, injectOk p 64 = true → allocUnreserved 64 1 u = (none, v) →
      exec (.inject sq d h) s = .next (complete (tokOf s sq d) 0x0A 0 0 [] v)) ∧
    (∀ c v, injectOk p 64 = true → pType p ≠ 0x43 → allocUnreserved 64 1 u = (some c, v) →
      let sent := routeOnce { pkt := p, inPort := 128, enq := v.clock.now, cell := some c, priv := 1 } true false v
      (sent.2 = none → exec (.inject sq d h) s = .next (ok (tokOf s sq d) 0 [] sent.1)) ∧
      ∀ code, sent.2 = some code →
        exec (.inject sq d h) s = .next (complete (tokOf s sq d) (refusalStatus code) code 0 [] sent.1))

/-! ## Courses (R323 to R348) -/

/-- R323 to R325: COURSE_SETUP fixes the course and sends its frame, and is refused a second time or with `feed_id` 0; the
partner's frame decides PAIRED where the feeds differ, else REFUSED unless an override accepts them, and completes it; a later
frame with another feed quarantines its lane with HELLO_CHANGED; the frame is
repeated every 100 µs until the partner's has come. Completes: courseSetup, course, courseRepeat. -/
def Obligations.CourseSetupDecides : Prop :=
  (∀ (s : State) (sq : BitVec 8) (d : Desc),
    let u := taking s sq d
    let t0 := tokOf s sq d
    Taken s sq d 0x28 → dRsvdOk d [] = true →
    (s.course.fixed = true → exec (.courseSetup sq d) s = .next (complete t0 1 4 0 [] u)) ∧
    (s.course.fixed = false → ownFeed s = 0 → exec (.courseSetup sq d) s = .next (complete t0 1 3 0 [] u)) ∧
    (s.course.fixed = false → ownFeed s ≠ 0 → s.course.partner = none → Answers (exec (.courseSetup sq d) s) fun t =>
      t.course.fixed = true ∧ t.course.setupTok = some t0 ∧ t.course.state = s.course.state ∧
      t.course.setupAt = some s.clock.now ∧
      t.out.drone = s.out.drone ++ ((partnerLanes s).filter (droneDrives s)).map fun m =>
        (m, .urgent 0x18 (frameBody s s.label (b2n (ownOverride s)) (ownFeed s))))) ∧
  (∀ (s : State) (sq : BitVec 8) (d : Desc) (feed : BitVec 16) (ov : Bool),
    Taken s sq d 0x28 → dRsvdOk d [] = true → s.course.fixed = false → ownFeed s ≠ 0 → s.course.state = .unset →
    s.course.partner = some (feed, ov) → Answers (exec (.courseSetup sq d) s) fun t =>
      t.course.fixed = true ∧ t.course.setupTok = none ∧ t.course.state = (if feed.toNat ≠ ownFeed s then .paired
        else if ov = true ∨ ownOverride s = true then .paired else .refused)) ∧
  (∀ (s : State) (m : BitVec 5) (b : BitVec 192), laneHears s m.toNat = true → deDim (getDrone s m.toNat) = 0 →
    let feed := BitVec.ofNat 16 (uArg b)
    let u : State := { s with course := { s.course with partner := some (feed, bit (uCause b) 0) } }
    let done (status : Nat) (x : State) : State := match s.course.setupTok with
      | some tok => complete tok status 0 0 [] { x with course := { x.course with setupTok := none } }
      | none => x
    (s.course.partner = none → s.course.fixed = false → exec (.course m b) s = .next u) ∧
    (s.course.partner = none → s.course.fixed = true → s.course.state = .unset →
      (feed.toNat ≠ ownFeed s → exec (.course m b) s = .next (done 0
        (postEvent 0x0009 1 s.partnerLabel [] { u with course := { u.course with state := .paired } }))) ∧
      (feed.toNat = ownFeed s → bit (uCause b) 0 = true ∨ ownOverride s = true → exec (.course m b) s = .next (done 0
        (postEvent 0x0009 2 s.partnerLabel [] { u with course := { u.course with
          state := .paired, overrides := satInc s.course.overrides } }))) ∧
      (feed.toNat = ownFeed s → bit (uCause b) 0 = false → ownOverride s = false →
        exec (.course m b) s = .next (done stFeedShared { u with course := { u.course with state := .refused } }))) ∧
    ∀ old ov, s.course.partner = some (old, ov) →
      (old ≠ feed → exec (.course m b) s = .next (quarantineLane m.toNat 0x0A s)) ∧
      (old = feed → exec (.course m b) s = .next s)) ∧
  ∀ (s : State) (t0 : Nat), s.course.setupAt = some t0 → s.course.partner = none →
    (125000 ≤ s.clock.now - t0 → exec .courseRepeat s = .next (sendCourse s)) ∧
    (s.clock.now - t0 < 125000 → exec .courseRepeat s = .next s)

/-- R337, R351, R354: what a takeover of a lost partner's shards makes of the state in which it is lost: the hanks of the copies held here,
but of a refill that has sealed no step, become SHARD, and no other hank and no generation bit changes; the partner's label is
adopted; the course is SOLO, or LOST where such a refill is here; and the lead moves here where the partner was the lead. -/
def Sys2Proof.Rules.tookOver (lost x : State) : Prop :=
  let part : Prop := ∃ g ∈ lost.groups, ∃ sh ∈ heldShards g false, sh.refill = true
  let copy (h : Nat) : Prop := ∃ g ∈ lost.groups, ∃ sh ∈ heldShards g false, sh.refill = false ∧ h ∈ stateHanks g sh
  x.course.adopted = true ∧ x.groups = lost.groups ∧ x.skein.mem = lost.skein.mem ∧
  (lost.course.state = .refill → lost.course.refillHere = true → part → x.course.state = .lost) ∧
  (lost.course.state ≠ .refill ∨ lost.course.refillHere = false ∨ ¬ part → x.course.state = .solo) ∧
  (∀ h, copy h → hankState lost h ≠ .retired → hankState x h = .shard) ∧
  (∀ h, ¬ copy h ∨ hankState lost h = .retired → hankState x h = hankState lost h) ∧
  (leadOf lost = lost.partnerLabel → x.course.leadNow = some (BitVec.ofNat 11 lost.label))

/-- R337 step 4: the reports of kind 1 of a takeover, of every step sealed here, oldest first, and its event. -/
def Sys2Proof.Rules.reported (x : State) : State :=
  postEvent 9 4 x.partnerLabel [] (forEach x.groups (fun g => forEach g.sealed.reverse fun q s =>
    sendReport (commitReport s g 1 (seqOfStep g q.1) q.1 0 q.2) s) x)

/-- R337: a takeover, ordered by TAKEOVER, or corroborated by a MODULE_LOST from another module where this one has declared the
partner lost; else no takeover follows. -/
def Sys2Proof.Rules.takeoverRule : Prop :=
  (∀ (s : State) (sq : BitVec 8) (d : Desc), Taken s sq d 0x29 → dRsvdOk d [] = true →
    let lost := markGone s.partnerLabel (taking s sq d)
    (mayTakeOver s = true → ∃ x, Rules.tookOver lost x ∧
      exec (.takeover sq d) s = .next (complete (tokOf s sq d) 0 0 0 [] (Rules.reported x))) ∧
    (mayTakeOver s = false → exec (.takeover sq d) s = .next (complete (tokOf s sq d) 1 4 0 [] (taking s sq d)))) ∧
  ∀ (s : State) (m : BitVec 5) (b : BitVec 192), laneHears s m.toNat = true → uSubject b % 2048 = s.partnerLabel →
    uOrigin b ≠ s.label → s.course.otherLost.contains s.partnerLabel = false →
    let heard := postEvent 1 0x10 m.toNat (bodyBytes b) (relay m.toNat 0x10 b s)
    let lost := markGone s.partnerLabel
      { heard with course := { heard.course with otherLost := heard.course.otherLost ++ [s.partnerLabel] } }
    let corroborated : Bool :=
      lost.course.ownLost.contains lost.partnerLabel && lost.course.otherLost.contains lost.partnerLabel && mayTakeOver lost
    (corroborated = true → ∃ x, Rules.tookOver lost x ∧ exec (.moduleLost m b) s = .next (Rules.reported x)) ∧
    (corroborated = false → exec (.moduleLost m b) s = .next lost)

/-- R344 step 3: the swap of every group with shards in a role: at once where no step of it is open here; else it is due at the end of
the step. It changes who owns those shards and the states of their hanks, and keeps their generation bits; a HANDOVER is
reported to the lead; at the module that hands over, later REDUCE_APPLYs are held (step 4). -/
def Sys2Proof.Rules.swapsRule : Prop :=
  let swapped (g : Group) (owner : Bool) : List Shard :=
    g.shards.map fun sh => if sh.owner = owner then { sh with owner := !owner } else sh
  (∀ (s : State) (owner : Bool) (g : Group), g ∈ s.groups → (s.groups.map (·.id)).Nodup →
    let t := swapAll owner s
    ∃ g', findGroup t g.id = some g' ∧ t.skein.mem = s.skein.mem ∧
      (heldShards g owner = [] → g' = g) ∧
      (heldShards g owner ≠ [] → stepOpen g owner = true → g' = { g with swapDue := (g.swapDue ++ [owner]).eraseDups }) ∧
      (heldShards g owner ≠ [] → stepOpen g owner = false → g'.shards = swapped g owner ∧
        g'.handedOver = (g.handedOver || owner) ∧ (leadOf s, g.id) ∈ t.course.toLead ∧
        ∀ sh ∈ g.shards, sh.owner = owner → ∀ h ∈ stateHanks g sh, hankState s h ≠ .retired →
          hankState t h = if owner then .sympathetic else .shard)) ∧
  ∀ (s : State) (gid : Nat) (owner : Bool) (g : Group), findGroup s gid = some g →
    (owner ∉ g.swapDue → swapIfDue gid owner s = s) ∧
    (owner ∈ g.swapDue → ∃ g', findGroup (swapIfDue gid owner s) gid = some g' ∧ g'.shards = swapped g owner ∧
      g'.swapDue = g.swapDue.erase owner ∧ g'.handedOver = (g.handedOver || owner))

/-- R337, R344, R348: a course without its partner for 1 ms is SEVERED; EVACUATE asks the partner, which accepts or refuses, and the
roles swap where it accepts; DRAIN enters DRAINING, and evacuates what is owned here; DRAINED is reported when nothing is left. -/
def Sys2Proof.Rules.leavingRule : Prop :=
  (∀ (s : State) (sq : BitVec 8) (d : Desc),
    let u := taking s sq d
    let t0 := tokOf s sq d
    dRsvdOk d [] = true →
    (Taken s sq d 0x2A → s.course.state = .paired → exec (.evacuate sq d) s = .next (ok t0 0 [] (requestEvacuation u))) ∧
    (Taken s sq d 0x2A → s.course.state ≠ .paired → exec (.evacuate sq d) s = .next (complete t0 1 4 0 [] u)) ∧
    (Taken s sq d 0x2B → s.course.draining = true → exec (.drain sq d) s = .next (complete t0 1 4 0 [] u)) ∧
    (Taken s sq d 0x2B → s.course.draining = false →
      let leaving := flood 0x13 s.label 0 0 { u with course := { s.course with draining := true, drainTok := some t0 } }
      ((∀ g ∈ s.groups, heldShards g true = []) → exec (.drain sq d) s = .next leaving) ∧
      ((∃ g ∈ s.groups, heldShards g true ≠ []) → exec (.drain sq d) s = .next (requestEvacuation leaving)))) ∧
  (∀ s : State,
    (∀ t0, s.course.partnerLostAt = some t0 → (s.course.state = .paired ∨ s.course.state = .refill) →
      (1250000 ≤ s.clock.now - t0 → exec .severTimeout s =
        .next (postEvent 9 3 s.partnerLabel [] { s with course := { s.course with state := .severed } })) ∧
      (s.clock.now - t0 < 1250000 → exec .severTimeout s = .next s)) ∧
    (∀ t0, s.course.drainTok = some t0 →
      (isDrained s = true → exec .drainQuiescent s = .next (ok t0 0 [] (postEvent 0x0B 0 0 []
        { s with course := { s.course with drainTok := none, drained := true } }))) ∧
      (isDrained s = false → exec .drainQuiescent s = .next s))) ∧
  ∀ (s : State) (m : BitVec 5) (b : BitVec 192), laneHears s m.toNat = true → deDim (getDrone s m.toNat) = 0 →
    (s.course.state ≠ .paired ∨ s.course.draining = true ∨ riskLevel s 2 ≠ 0 ∧ riskLevel s 2 ≤ s.course.risk.toNat →
      exec (.evacReq m b) s =
      .next (postEvent 9 6 s.partnerLabel [] (toPartner 0x1B s.label 1 0 s))) ∧
    (s.course.state = .paired → s.course.draining = false → riskLevel s 2 = 0 ∨ s.course.risk.toNat < riskLevel s 2 →
      exec (.evacReq m b) s =
      let t := toPartner 0x1B s.label 0 0 s
      .next (swapAll false { t with course := { t.course with evacuating := true } })) ∧
    (s.course.evacSent = true → uCause b = 0 → exec (.evacAck m b) s =
      .next (swapAll true { s with course := { s.course with evacSent := false, evacuating := true } })) ∧
    (s.course.evacSent = true → uCause b ≠ 0 → exec (.evacAck m b) s =
      .next (postEvent 9 6 s.partnerLabel [] { s with course := { s.course with evacSent := false } })) ∧
    (s.course.evacSent = false → exec (.evacAck m b) s = .next s)

/-- R337, R344, R348, R351, R354: takeover, evacuation, draining. Completes: takeover, evacuate, drain, severTimeout, drainQuiescent,
evacReq, evacAck. -/
def Obligations.CourseRolesMove : Prop := Rules.takeoverRule ∧ Rules.swapsRule ∧ Rules.leavingRule

/-- R340 to R342: at a whole millisecond of fabric time the estimate is the greater of the weighted inputs and its old value
less `decay`, and the inputs start again at 0; below every armed threshold nothing more happens, and where it has risen to
WATCH alone, RISK with level 1 is flooded and WATCH is disarmed; at another time, or while the firmware does not run, nothing
changes. SECURE_REQ requests a secure point of every group with shards here. Completes: riskUpdate, secureReq. -/
def Obligations.RiskIsEstimated : Prop :=
  (∀ (s : State) (celsius : BitVec 8),
    (fabricTime s % 1250000 ≠ 0 ∨ fabricTime s = s.course.riskAt ∨ s.boot.life ≠ .running → exec (.riskUpdate celsius) s = .next s) ∧
    (fabricTime s % 1250000 = 0 → fabricTime s ≠ s.course.riskAt → s.boot.life = .running →
      let v := setting s 0x50002
      let risk := max (riskInst s (s.course.inputs.set 3 (celsius.toNat - bits v 31 24))) (s.course.risk.toNat - bits v 47 40)
      let u : State := { s with course := { s.course with
        risk := BitVec.ofNat 8 risk, riskAt := fabricTime s, inputs := [0, 0, 0, 0, 0, 0] } }
      let low (l : Nat) : Prop := riskLevel s l = 0 ∨ s.course.armed.getD l true = true ∧ risk < riskLevel s l
      (low 0 → low 1 → low 2 → exec (.riskUpdate celsius) s = .next u) ∧
      (s.course.armed = [true, true, true] → riskLevel s 0 ≠ 0 → riskLevel s 0 ≤ risk → low 1 → low 2 →
        exec (.riskUpdate celsius) s =
          let f := flood 0x15 s.label 1 risk u
          .next { f with course := { f.course with armed := [false, true, true] } }))) ∧
  ∀ (s : State) (m : BitVec 5) (b : BitVec 192) (g : Group), laneHears s m.toNat = true → deDim (getDrone s m.toNat) = 0 →
    s.groups = [g] → g.shards ≠ [] → g.phase = .active →
    exec (.secureReq m b) s = .next (requestSecure g.id s)

/-- R333 to R338, R351, R328: a flooded frame heard on a lane is passed on, its event posted, and acted on: a MODULE_LOST
from another module enters the module LOST, or DRAINED where it was DRAINING, and changes no group that does not name it; DRAINING
and RETURNED enter those, a RETURNED module may drain, and one that names this module marks it as returned (the model's reading, log
entry 80); LEAD_TAKEN moves the lead to its origin; RISK and ENDPOINT_LOST do nothing more. On a lane that does not hear, nothing
happens. -/
def Sys2Proof.Rules.noticesRule : Prop :=
  (∀ (s : State) (m : BitVec 5) (b : BitVec 192), laneHears s m.toNat = true →
    let x := uSubject b % 2048
    let heard (ftype : Nat) : State := postEvent 1 ftype m.toNat (bodyBytes b) (relay m.toNat ftype b s)
    exec (.endpointLost m b) s = .next (heard 0x11) ∧ exec (.risk m b) s = .next (heard 0x15) ∧
    (Answers (exec (.leadTaken m b) s) fun t => t.course.leadNow = some (BitVec.ofNat 11 (uOrigin b))) ∧
    (x ≠ s.label → faultOf s x = .up ∨ faultOf s x = .returned → exec (.draining m b) s = .next (setFault x .draining (heard 0x13))) ∧
    (x = s.label ∨ faultOf s x ≠ .up → Answers (exec (.returned m b) s) fun t => faultOf t x = .returned) ∧
    (x ≠ s.label → faultOf s x = .up → exec (.returned m b) s = .next (heard 0x17)) ∧
    (x ≠ s.label → x ≠ s.partnerLabel → uOrigin b ≠ s.label → isGone s x = false →
      (∀ g ∈ s.groups, x ∉ groupModules g.record) → Answers (exec (.moduleLost m b) s) fun t =>
        faultOf t x = (if faultOf s x = .draining then .drained else .lost) ∧ t.groups = s.groups ∧
        t.course.otherLost.contains x = true)) ∧
  (∀ (s : State) (m : BitVec 5) (b : BitVec 192), laneHears s m.toNat = false →
    exec (.moduleLost m b) s = .next s ∧ exec (.endpointLost m b) s = .next s ∧ exec (.draining m b) s = .next s ∧
    exec (.risk m b) s = .next s ∧ exec (.leadTaken m b) s = .next s ∧ exec (.returned m b) s = .next s ∧
    exec (.shardLost m b) s = .next s ∧ exec (.epPortLost m b) s = .next s) ∧
  ∀ (s : State) (m : BitVec 5) (b : BitVec 192), laneHears s m.toNat = true → deDim (getDrone s m.toNat) = 0 →
    let e := uSubject b % 2 ^ 15
    (s.course.epLost = [] → exec (.epPortLost m b) s = .next { s with course := { s.course with
      epPartner := tins e (uTime b) (tdel s.course.epPartner e) } }) ∧
    (∀ t0, s.course.epLost = [(e, t0)] → uTime b < t0 → exec (.epPortLost m b) s =
      .next (flood 0x11 (0x8000 + e) 0 0 { s with course := { s.course with
        epPartner := tins e (uTime b) (tdel s.course.epPartner e) } }))

/-- R192, R339: a module that a group names as a node module or an owner is lost: the group becomes FAULTED. Its contexts, buffers and
transfers end, and no retry is made; every operation in flight or posted completes with DROPPED_STITCH, and a step that has not
committed does not commit; its shards stay as they are. -/
def Sys2Proof.Rules.faultedRule : Prop :=
  (∀ (s : State) (m : BitVec 5) (b : BitVec 192) (g : Group), laneHears s m.toNat = true →
    let x := uSubject b % 2048
    x ≠ s.label → x ≠ s.partnerLabel → uOrigin b ≠ s.label → isGone s x = false →
    s.course.otherLost.contains s.partnerLabel = false → s.groups = [g] → x ∈ coreModules g.record → g.phase = .active →
    g.bindTok = none → g.recast = none → g.pauseToks = [] →
    Answers (exec (.moduleLost m b) s) fun t =>
      (∃ g', findGroup t g.id = some g' ∧ g'.phase = .faulted ∧ g'.ops = [] ∧ g'.queue = [] ∧ g'.held = [] ∧ g'.transfers = [] ∧
        (∀ i ∈ g'.insts, i.ctxs = [] ∧ i.bufs = [] ∧ i.retries = []) ∧ g'.shards = g.shards ∧ g'.record = g.record ∧
        ((∀ o ∈ g.ops, o.committed ≠ some true) → g'.lastStep = g.lastStep)) ∧
      (∀ o ∈ g.ops, o.again = false → Rules.finished o.tok t) ∧ (∀ p ∈ g.queue, Rules.finished p.tok t) ∧
      t.skein.mem = s.skein.mem) ∧
  (∀ (s : State) (g : Group) (op : Op), findGroup s g.id = some g → op.again = false → op.resend = none →
    let o := if op.op = 6 ∧ op.committed ≠ some true then { op with postState := stateDigests s g true } else op
    ∃ v, findGroup v g.id ≠ none ∧ finishOpAs 3 g.id op s = complete op.tok 3 0 0 (opPart o 3) v) ∧
  ∀ (s : State) (sq : BitVec 8) (d : Desc) (h : HostRead) (g : Group), findGroup s (dGroup d) = some g → g.phase = .faulted →
    let u := taking s sq d
    let refused : State := complete (tokOf s sq d) 1 4 0 [] u
    (Taken s sq d 0x12 → exec (.collective sq d h) s = .next refused) ∧
    (Taken s sq d 0x13 → dRsvdOk d [(8, 3)] = true → exec (.groupPause sq d) s = .next refused) ∧
    (Taken s sq d 0x22 → dRsvdOk d [(8, 3)] = true → exec (.securePoint sq d) s = .next refused)

/-- R328, R333 to R339, R351: notices, the fault table, and groups that a loss ends. Completes: moduleLost, endpointLost, draining,
risk, leadTaken, returned, epPortLost. -/
def Obligations.NoticesEnterTheFaultTable : Prop := Rules.noticesRule ∧ Rules.faultedRule

/-- R35, R177, R352: an uncorrectable error retires its hank and no other, whatever the hank held, but in a FIRMWARE hank,
where it resets the module with cause 6; a SHARD_LOST from the partner has the shard owned here run solo, and makes the
copy held here of the partner's shard a SHARD. -/
def Sys2Proof.Rules.hankErrorRule : Prop :=
  (∀ (s : State) (h : BitVec 19),
    (hankState s h.toNat = .firmware → exec (.skeinUncorrectableError h) s = .next (moduleReset 6 s)) ∧
    (hankState s h.toNat ≠ .firmware → s.groups = [] → Answers (exec (.skeinUncorrectableError h) s) fun t =>
      (∀ k, hankState t k = if k = h.toNat then .retired else hankState s k) ∧ t.skein.mem = s.skein.mem ∧
      ChangesOnly [.hanks] s t)) ∧
  ∀ (s : State) (m : BitVec 5) (b : BitVec 192) (g : Group) (sh : Shard), laneHears s m.toNat = true →
    let gid := bits (uArg b) 23 0
    let k := bits (uArg b) 35 24
    findGroup s gid = some g → Rules.restful g → g.shards.find? (·.index == k) = some sh → uOrigin b = s.partnerLabel →
    (sh.owner = true → Answers (exec (.shardLost m b) s) fun t => ∃ g', findGroup t gid = some g' ∧
      ∃ sh', g'.shards.find? (·.index == k) = some sh' ∧ sh'.solo = true ∧ sh'.lost = sh.lost ∧ sh'.gen = sh.gen) ∧
    (sh.owner = false → Answers (exec (.shardLost m b) s) fun t =>
      (∀ x ∈ stateHanks g sh, hankState s x ≠ .retired → hankState t x = .shard) ∧
      (∀ x, x ∉ stateHanks g sh → hankState t x = hankState s x))

/-- R35, R352: an error in a hank of an owned shard or of a copy marks the shard lost here, which SHARD_LOST reports; the chunks of the
running step that it has not applied fail (log entry 36), and an APPLY of it that runs stores nothing. -/
def Sys2Proof.Rules.lostShardRule : Prop :=
  (∀ (s : State) (h : BitVec 19) (g : Group) (sh : Shard), hankState s h.toNat = .shard ∨ hankState s h.toNat = .sympathetic →
    s.groups = [g] → g.shards.find? (·.index == sh.index) = some sh →
    (g.shards.find? fun y => (stateHanks g y).contains h.toNat) = some sh →
    let k := sh.index
    let v := postEvent 0x0C g.id k [] (flood 0x14 s.label 0 (g.id + k * 2 ^ 24)
      (updShard g.id k (fun y => { y with lost := true }) (setHank .retired h.toNat s)))
    (∀ j, hankState v j = if j = h.toNat then .retired else hankState s j) ∧ v.skein.mem = s.skein.mem ∧
    (∃ g', findGroup v g.id = some g' ∧ g'.shards.find? (·.index == k) = some { sh with lost := true }) ∧
    ((∀ o ∈ g.ops, o.op = 6 → o.resend.isSome = true ∨ o.committed ≠ none) →
      exec (.skeinUncorrectableError h) s = .next (settled g.id (sealNow g.id v))) ∧
    ∀ op : Op, g.ops = [op] → op.op = 6 → op.resend = none → op.committed = none → sh.owner = true →
      exec (.skeinUncorrectableError h) s = .next (settled g.id (sealNow g.id (forEach
        ((List.range op.chunks).filter fun c => rootShard g.record op c == k && !op.applied.contains c)
        (failChunk g.id op.seq) v)))) ∧
  ∀ (s : State) (front back : BitVec 32) (x : Stitch) (time : BitVec 64) (g : Group) (op : Op) (i : Inst),
    s.bed.running = some (x, time) → s.bed.void = false → x.kind = .apply1 ∨ x.kind = .apply2 → findGroup s x.group = some g →
    findOp g x.seq = some op → instAt g (x.node, x.shard) = some i →
    (∃ sh ∈ g.shards, some sh.index = x.shard ∧ sh.lost = true) →
    exec (.stitchComplete front back) s =
      .next (settled x.group (failApply g op i x.chunk (endVoid front.toNat back.toNat x s)))

/-- R35, R141, R160, R177: a staged buffer of 16 KiB units, 128 to a hank, is lost in part where a hank of the units in use is RETIRED.
The running stitch that reads such a slot, value or scratch array ends with DROPPED_STITCH: a REDUCE's attempt is aborted, the chunk
of another fails; one that starts to read it later ends so when it completes. -/
def Sys2Proof.Rules.lostStagingRule : Prop :=
  (∀ (s : State) (g : Group) (b n : Nat), g.staging ≠ [] → (∀ k ∈ g.reserved, k = 0) →
    let x : Buffer := tget { group := 0, cells := [], refs := 0 } s.pools.buffers b
    (bufferLost s g b n = true ↔ ∃ j, j * 16384 < n ∧ hankState s (g.staging.getD (x.units.getD j 0 / 128) 0) = .retired)) ∧
  (∀ (s : State) (g : Group) (op : Op) (x : Stitch) (i : Inst) (c : Ctx), instAt g (x.node, x.shard) = some i →
    ctxAt i x.seq x.chunk = some c →
    (x.kind = .reduce → (readsLost s g op x = true ↔ c.attempt = x.attempt ∧
      ∃ k, k < c.slots.length ∧ bufferLost s g (c.bufs.getD k 0) (slotBytes (c.slots.getD k {})).length = true)) ∧
    (x.kind = .map → (readsLost s g op x = true ↔ bufferLost s g (match x.buf with
      | some b => b
      | none => valueBuf c) x.input.length = true))) ∧
  ∀ (s : State) (g : Group) (op : Op) (i : Inst) (x : Stitch) (time : BitVec 64), s.bed.running = some (x, time) →
    s.bed.void = false → findGroup s x.group = some g → findOp g x.seq = some op → instAt g (x.node, x.shard) = some i →
    let dropped (front back : Nat) (u : State) : State :=
      let v := count { code := 0x11 } 1 (endVoid front back x u)
      let w := match x.buf with
        | some b => releaseHolder b v
        | none => v
      settled g.id (if x.kind = .reduce then takeAbort g.id (instKey i) op x.chunk x.attempt none true w
        else failApply g op i x.chunk w)
    (∀ h : BitVec 19, hankState s h.toNat ≠ .firmware → (∀ y ∈ s.groups, ∀ sh ∈ y.shards, h.toNat ∉ stateHanks y sh) →
      let u := setHank .retired h.toNat s
      (readsLost u g op x = true → exec (.skeinUncorrectableError h) s = .next (dropped 0 0 u)) ∧
      (readsLost u g op x = false → exec (.skeinUncorrectableError h) s = .next u)) ∧
    (∀ front back : BitVec 32, lostApply s = none → readsLost s g op x = true →
      exec (.stitchComplete front back) s = .next (dropped front.toNat back.toNat s))

/-- R35, R141, R160, R177, R352: lost hanks, shards and staged values. Completes: skeinUncorrectableError, shardLost. -/
def Obligations.LostHanksAndShards : Prop := Rules.hankErrorRule ∧ Rules.lostShardRule ∧ Rules.lostStagingRule

/-! ## The whole machine -/

/-- No command changes the identity record in flash, and none changes the queue of waiting commands. -/
def Obligations.CommandsKeepIdentityAndQueue : Prop :=
  ∀ (c : Instr) (s t : State), exec c s = .next t → t.pending = s.pending ∧ t.flash.identity = s.flash.identity

/-- R414: the `floor` in force in the boot control records never goes down, whatever the command or the passing of time. -/
def Obligations.FloorNeverGoesDown : Prop :=
  ∀ s t : State, step s = .next t → (bootControl s.flash).1.floor ≤ (bootControl t.flash).1.floor

/-- R431: retired, wasted, front and back slots sum, modulo 2⁴⁸, to the enabled columns times the handshakes; every step keeps
it. -/
def Obligations.SlotCountsAddUp : Prop :=
  ∀ s t : State, SlotsAddUp s → step s = .next t → SlotsAddUp t

/-- Skein memory stays in its canonical form: rising addresses, no byte that reads 0 listed, whatever the step. -/
def Obligations.SkeinMemoryStaysCanonical : Prop :=
  ∀ s t : State, MemWf s → step s = .next t → MemWf t

/-- R14, R392, R405 and the maps: right after reset the rings are disabled, no command is outstanding, every row counter, port
counter, drop counter and performance counter is 0, every queue is empty, the program store is empty, no port or lane is in use,
every hank is FREE, no time is valid, both banks are RETIRED, every port is marked down, the course is UNSET, PWR_CFG has its reset
value, and the invariants hold. What is no register starts empty or at 0 by the model's choice (log entry 3). -/
def Obligations.ResetState : Prop :=
  let s := State.reset
  (∀ n, (getSq s n).enable = false ∧ (getCq s n).enable = false) ∧ s.host.outstanding = [] ∧ s.host.ringsEn = false ∧
  s.host.fwReady = false ∧ (∀ n, rowValue s n = 0) ∧ (∀ n, (getSlot s n).image = none) ∧ s.groups = [] ∧
  (∀ p, (getPort s p).state = .disabled ∧ portDown s p = decide (p < 128)) ∧ (∀ m, (getDrone s m).state = .disabled) ∧
  (∀ h, hankState s h = .free) ∧ s.clock.timeValid = false ∧ s.clock.locked = false ∧
  (∀ b, bankState s b = .retired) ∧ s.routing.txn = none ∧ s.course.state = .unset ∧ s.pending = [] ∧
  setting s 0x20000 = 0x0000000801000007 ∧ MemWf s ∧ SlotsAddUp s ∧ PoolsWf s ∧
  (∀ p, let c := (getPort s p).counts
    c.pktRx = 0 ∧ c.pktTx = 0 ∧ c.bytesRx = 0 ∧ c.bytesTx = 0 ∧ c.symbols = 0 ∧ c.replays = 0 ∧ c.dropped = 0 ∧ c.aged = 0 ∧
    (getPort s p).restarts = 0 ∧ (getPort s p).smpLost = 0 ∧ (∀ sub, (tget [] (getPort s p).queues sub : List QPkt) = []) ∧ (getPort s p).unacked = []) ∧
  (∀ i, (tget 0 s.drops i : Nat) = 0) ∧ s.perf.handshakes = 0 ∧ s.perf.enable = false ∧ s.perf.missed = 0 ∧
  (∀ n, (tget 0 s.perf.cnt n : BitVec 48) = 0) ∧ s.power.tjThrottle = 95 ∧ s.power.droopCv = 4500 ∧ s.power.droops = 0 ∧
  s.clock.fine = 0 ∧ s.flows.tx = [] ∧ s.flows.rx = [] ∧ s.skein.mem = [] ∧ s.bed.queue = [] ∧ s.bed.running = none
end

