-- ==== Sys2Proof/Laws/Crypto.lean ====
section
/-!
SUPPORT. Ed25519 with the neutral point as the public key: the signature (R, S) = (neutral, 0) verifies for every message.
Tests use it for signed records whose hash would be long to compute.
-/
namespace Sys2Proof.Machine

/-- A point at the neutral element: x = 0, t = 0 and y = z. -/
def EdPoint.Neutral (p : EdPoint) : Prop := p.x = 0 ∧ p.t = 0 ∧ p.y = p.z

theorem edAdd_neutral {p q : EdPoint} (hp : p.Neutral) (hq : q.Neutral) : (edAdd p q).Neutral := by
  obtain ⟨px, pt, py⟩ := hp
  obtain ⟨qx, qt, qy⟩ := hq
  have sub0 : ∀ a, edSub a 0 = a % edP := by intro a; simp [edSub]
  have same : ∀ a b, a % edP = b % edP → edSub a b = 0 := by
    intro a b h
    have pos : b % edP < edP := Nat.mod_lt _ (by decide)
    have : (a + edP - b % edP) % edP = 0 := by
      have e : a + edP - b % edP = edP * (a / edP + 1) := by
        have := Nat.div_add_mod a edP
        rw [Nat.mul_add, Nat.mul_one]; omega
      rw [e, Nat.mul_mod_right]
    exact this
  have e0 : edSub ((p.y + p.x) * (q.y + q.x) % edP) (edSub p.y p.x * edSub q.y q.x % edP) = 0 := by
    rw [px, qx, sub0, sub0]; apply same; simp [Nat.mul_mod]
  have c0 : 2 * p.t * q.t * edD % edP = 0 := by simp [pt]
  refine ⟨?_, ?_, ?_⟩
  · simp [edAdd, e0]
  · simp [edAdd, e0]
  · simp only [edAdd, c0, sub0, px, qx, Nat.add_zero, py, qy, Nat.mod_mod]
    have h : (p.z * q.z % edP + p.z % edP * (q.z % edP) % edP) % edP = 2 * p.z * q.z % edP := by
      rw [← Nat.mul_mod, ← Nat.add_mod, Nat.mul_assoc, Nat.two_mul]
    rw [h]

theorem edMul_neutral (n k : Nat) {p a : EdPoint} (hp : p.Neutral) (ha : a.Neutral) : (edMul n k p a).Neutral := by
  induction n generalizing k p a with
  | zero => exact ha
  | succ n ih =>
    unfold edMul
    refine ih _ (edAdd_neutral hp hp) ?_
    split
    · exact edAdd_neutral ha hp
    · exact ha

theorem edMul_zero (n : Nat) (p a : EdPoint) : edMul n 0 p a = a := by
  induction n generalizing p with
  | zero => rfl
  | succ n ih =>
    rw [edMul, Nat.zero_div, if_neg (by decide), ih]

theorem edDecode_one : edDecode 1 = some edZero := by decide +kernel

/-- The neutral public key and signature. -/
theorem edVerify_neutral (msg sig : List Byte) (h0 : leNat (sig.take 32) = 1) (h1 : leNat (slice sig 32 32) = 0) :
    edVerify 1 msg sig = true := by
  have z : edZero.Neutral := ⟨rfl, rfl, rfl⟩
  have p : edDecode (1 : BitVec 256).toNat = some edZero := edDecode_one
  obtain ⟨qx, qt, qy⟩ := edAdd_neutral z (edMul_neutral 256
    (leNat (sha512 (leBytes 32 1 ++ leBytes 32 (1 : BitVec 256).toNat ++ msg)) % edL) z z)
  simp only [edVerify, h0, h1, p, edDecode_one, edMul_zero]
  have l : ¬ edL ≤ 0 := by decide
  simp only [l, if_false, qx, qy]
  simp [edZero]

/-- The images' verification depends on the keys of the boot ROM alone. -/
theorem verifyImage_keys {f g : Flash} (h0 : f.romKey0 = g.romKey0) (h1 : f.romKey1 = g.romKey1) (floor : Nat)
    (bs : List Byte) : verifyImage f floor bs = verifyImage g floor bs := by
  simp only [verifyImage, h0, h1]

end Sys2Proof.Machine
end

