-- ==== Sys2Proof/Laws/Folds.lean ====
section
/-!
SUPPORT. What a fold over a list keeps of the state that it carries.
-/
namespace Sys2Proof.Machine

/-- A change made for each element of a list. -/
theorem keep_forEach {α : Type} {K : State → Prop} {l : List α} {f : α → State → State} {u : State} (h : K u)
    (hf : ∀ a s, K s → K (f a s)) : K (forEach l f u) := by
  unfold forEach
  induction l generalizing u with
  | nil => exact h
  | cons a l ih => exact ih (hf a u h)

theorem keep_foldl {α : Type} {K : State → Prop} {l : List α} {f : State → α → State} {u : State} (h : K u)
    (hf : ∀ s a, K s → K (f s a)) : K (l.foldl f u) := by
  induction l generalizing u with
  | nil => exact h
  | cons a l ih => exact ih (hf u a h)

theorem keep_ite {K : State → Prop} {c : Prop} [Decidable c] {a b : State} (ha : K a) (hb : K b) :
    K (if c then a else b) := by
  split
  · exact ha
  · exact hb

/-- A property of what a fold carries. -/
theorem keep_foldl_any {α β : Type} {K : β → Prop} {l : List α} {f : β → α → β} {u : β} (h : K u)
    (hf : ∀ x a, K x → K (f x a)) : K (l.foldl f u) := by
  induction l generalizing u with
  | nil => exact h
  | cons a l ih => exact ih (hf u a h)

theorem keep_foldl_fst {α β : Type} {K : State → Prop} {l : List α} {f : State × β → α → State × β} {u : State × β}
    (h : K u.1) (hf : ∀ x a, K x.1 → K (f x a).1) : K (l.foldl f u).1 := by
  induction l generalizing u with
  | nil => exact h
  | cons a l ih => exact ih (hf u a h)

/-- What an operation answers, or the state left as it was. -/
theorem keep_getD {K : State → Prop} {o : Option State} {s : State} (h : K s) (ho : ∀ t, o = some t → K t) :
    K (o.getD s) := by
  cases o with
  | none => exact h
  | some t => exact ho t rfl

end Sys2Proof.Machine
end

