-- ==== Sys2Proof/Laws/Frame.lean ====
section
/-!
SUPPORT. Frames: a property of the state that depends only on parts outside a list (`Free`) is kept by every function that
changes only parts of the list. Laws/FrameHost to Laws/FrameLinks say for every function of the machine which parts it may change.
-/
namespace Sys2Proof.Machine

/-- The property is kept by any change to the listed parts. -/
def Free (P : List Part) (K : State → Prop) : Prop := ∀ u t : State, K u → ChangesOnly P u t → K t

theorem Free.sub {P Q : List Part} {K : State → Prop} (hK : Free P K) (e : Q.all (P.contains ·) = true) : Free Q K := by
  intro u t h c
  refine hK u t h fun p hp => c p fun hq => hp ?_
  have := List.all_eq_true.mp e p hq
  simpa using this

theorem Free.keep {P : List Part} {K : State → Prop} (hK : Free P K) {u t : State} (h : K u) (c : ChangesOnly P u t) :
    K t := hK u t h c

theorem Frame.only {P : List Part} {s t : State} (h : ∀ p : Part, p ∉ P → p.same s t) : ChangesOnly P s t := h

theorem ChangesOnly.refl (P : List Part) (s : State) : ChangesOnly P s s := by
  intro p _
  cases p <;> simp [Part.same]

theorem ChangesOnly.trans {P : List Part} {s t u : State} (a : ChangesOnly P s t) (b : ChangesOnly P t u) :
    ChangesOnly P s u := by
  intro p hp
  have h1 := a p hp
  have h2 := b p hp
  cases p <;> simp only [Part.same] at * <;>
    first
      | exact h2.trans h1
      | exact (congrArg (fun k : Skein => { k with mem := s.skein.mem }) h2).trans h1
      | exact (congrArg (fun k : Boot => { k with blocked := s.boot.blocked }) h2).trans h1
      | exact (congrArg (fun k : Perf => { k with
          retired := s.perf.retired, wasted := s.perf.wasted, front := s.perf.front, back := s.perf.back
          handshakes := s.perf.handshakes }) h2).trans h1
      | (obtain ⟨a, b, c, d, e⟩ := h1; obtain ⟨a', b', c', d', e'⟩ := h2
         exact ⟨a'.trans a, b'.trans b, c'.trans c, d'.trans d, e'.trans e⟩)

/-- Changes confined to a list are free of it. -/
theorem free_changesOnly (P : List Part) (s : State) : Free P (ChangesOnly P s) := fun _ _ h c => h.trans c

/-- A state written out with all its fields, the queue among them unchanged. -/
theorem Free.mk {P : List Part} {K : State → Prop} (hK : Free P K) {u : State} (h : K u)
    {flash : Flash} {host : HostIf} {rows : Rows} {slots : Table Slot} {pools : Pools} {skein : Skein} {groups : List Group}
    {bed : Bed} {ports : Table Port} {drones : Table Drone} {clock : Clock} {routing : Routing} {traffic : Traffic}
    {flows : Flows} {course : Course} {perf : Perf} {boot : Boot} {power : Power} {drops : Table Nat} {out : Out}
    (e : ChangesOnly P u (State.mk flash host rows slots pools skein groups bed ports drones clock routing traffic flows
      course perf boot power drops out u.pending)) :
    K (State.mk flash host rows slots pools skein groups bed ports drones clock routing traffic flows course perf boot
      power drops out u.pending) := hK u _ h e

end Sys2Proof.Machine
end

