-- ==== Sys2Proof/Laws/FrameHost.lean ====
section
/-!
SUPPORT. Frames, of the shared operations, the rings, programs, transactions and flows: for each
function, the parts of the state it may change; a property free of them is kept.
-/
set_option linter.unusedVariables false
set_option linter.unusedTactic false
set_option linter.unreachableTactic false

namespace Sys2Proof.Machine

theorem updSq_keeps {K : State → Prop} (hK : Free [.host] K) {n : Nat} {f : Sq → Sq} {s : State} (h0 : K s) :
    K (updSq n f s) := by
  unfold updSq
  with_reducible repeat' first
    | assumption | (fail_if_no_progress refine Free.mk hK ?_ (Frame.only fun p hp => by
        cases p <;> first
          | exact absurd hp (by with_unfolding_all decide) | exact rfl | exact ⟨rfl, rfl, rfl, rfl, rfl⟩))

theorem updCq_keeps {K : State → Prop} (hK : Free [.host] K) {n : Nat} {f : Cq → Cq} {s : State} (h0 : K s) :
    K (updCq n f s) := by
  unfold updCq
  with_reducible repeat' first
    | assumption | (fail_if_no_progress refine Free.mk hK ?_ (Frame.only fun p hp => by
        cases p <;> first
          | exact absurd hp (by with_unfolding_all decide) | exact rfl | exact ⟨rfl, rfl, rfl, rfl, rfl⟩))

theorem updPort_keeps {K : State → Prop} (hK : Free [.ports] K) {p : Nat} {f : Port → Port} {s : State}
    (h0 : K s) : K (updPort p f s) := by
  unfold updPort
  with_reducible repeat' first
    | assumption | (fail_if_no_progress refine Free.mk hK ?_ (Frame.only fun p hp => by
        cases p <;> first
          | exact absurd hp (by with_unfolding_all decide) | exact rfl | exact ⟨rfl, rfl, rfl, rfl, rfl⟩))

theorem updDrone_keeps {K : State → Prop} (hK : Free [.drones] K) {m : Nat} {f : Drone → Drone} {s : State}
    (h0 : K s) : K (updDrone m f s) := by
  unfold updDrone
  with_reducible repeat' first
    | assumption | (fail_if_no_progress refine Free.mk hK ?_ (Frame.only fun p hp => by
        cases p <;> first
          | exact absurd hp (by with_unfolding_all decide) | exact rfl | exact ⟨rfl, rfl, rfl, rfl, rfl⟩))

theorem updSlot_keeps {K : State → Prop} (hK : Free [.slots] K) {n : Nat} {f : Slot → Slot} {s : State}
    (h0 : K s) : K (updSlot n f s) := by
  unfold updSlot
  with_reducible repeat' first
    | assumption | (fail_if_no_progress refine Free.mk hK ?_ (Frame.only fun p hp => by
        cases p <;> first
          | exact absurd hp (by with_unfolding_all decide) | exact rfl | exact ⟨rfl, rfl, rfl, rfl, rfl⟩))

theorem updGroup_keeps {K : State → Prop} (hK : Free [.groups] K) {id : Nat} {f : Group → Group} {s : State}
    (h0 : K s) : K (updGroup id f s) := by
  unfold updGroup
  with_reducible repeat' first
    | assumption | (fail_if_no_progress refine Free.mk hK ?_ (Frame.only fun p hp => by
        cases p <;> first
          | exact absurd hp (by with_unfolding_all decide) | exact rfl | exact ⟨rfl, rfl, rfl, rfl, rfl⟩))

theorem count_keeps {K : State → Prop} (hK : Free [.perf] K) {e : PEv} {n : Nat} {s : State} (h0 : K s) :
    K (count e n s) := by
  unfold count
  with_reducible repeat' first
    | assumption | apply keep_foldl | apply keep_foldl_fst | intro _
    | (fail_if_no_progress refine Free.mk hK ?_ (Frame.only fun p hp => by
        cases p <;> first
          | exact absurd hp (by with_unfolding_all decide) | exact rfl | exact ⟨rfl, rfl, rfl, rfl, rfl⟩))
    | apply keep_ite | split

theorem drop_keeps {K : State → Prop} (hK : Free [.drops] K) {port : Nat} {cause : Nat} {s : State}
    (h0 : K s) : K (drop port cause s) := by
  unfold drop
  try dsimp -proj only
  with_reducible repeat' first
    | assumption | (fail_if_no_progress refine Free.mk hK ?_ (Frame.only fun p hp => by
        cases p <;> first
          | exact absurd hp (by with_unfolding_all decide) | exact rfl | exact ⟨rfl, rfl, rfl, rfl, rfl⟩))

theorem hostAccess_keeps {K : State → Prop} (hK : Free [] K) {f : State → State} {s : State} (h0 : K s)
    (hf : ∀ u, K u → K (f u)) : K (hostAccess f s) := by
  unfold hostAccess
  with_reducible repeat' first
    | assumption | apply hf | apply keep_ite | split

theorem hostWrite_keeps {K : State → Prop} (hK : Free [.blocked, .out] K) {addr : Nat} {bs : List Byte}
    {s : State} (h0 : K s) : K (hostWrite addr bs s) := by
  unfold hostWrite
  with_reducible repeat' first
    | assumption | (fail_if_no_progress refine Free.mk hK ?_ (Frame.only fun p hp => by
        cases p <;> first
          | exact absurd hp (by with_unfolding_all decide) | exact rfl | exact ⟨rfl, rfl, rfl, rfl, rfl⟩))
    | apply keep_ite | split

theorem setAer_keeps {K : State → Prop} (hK : Free [.host] K) {s : State} (h0 : K s) : K (setAer s) := by
  unfold setAer
  with_reducible repeat' first
    | assumption | (fail_if_no_progress refine Free.mk hK ?_ (Frame.only fun p hp => by
        cases p <;> first
          | exact absurd hp (by with_unfolding_all decide) | exact rfl | exact ⟨rfl, rfl, rfl, rfl, rfl⟩))

theorem noteRead_keeps {K : State → Prop} (hK : Free [.host] K) {addr : Nat} {len : Nat} {h : HostRead}
    {s : State} (h0 : K s) : K (noteRead addr len h s) := by
  unfold noteRead
  with_reducible repeat' first
    | assumption | apply setAer_keeps (hK.sub rfl) | apply keep_ite | split

theorem sendMsix_keeps {K : State → Prop} (hK : Free [.host, .out] K) {v : Nat} {s : State} (h0 : K s) :
    K (sendMsix v s) := by
  unfold sendMsix
  with_reducible repeat' first
    | assumption | (fail_if_no_progress refine Free.mk hK ?_ (Frame.only fun p hp => by
        cases p <;> first
          | exact absurd hp (by with_unfolding_all decide) | exact rfl | exact ⟨rfl, rfl, rfl, rfl, rfl⟩))
    | apply keep_ite | split

theorem releaseVector_keeps {K : State → Prop} (hK : Free [.host, .out] K) {v : Nat} {s : State} (h0 : K s) :
    K (releaseVector v s) := by
  unfold releaseVector
  try dsimp -proj only
  with_reducible repeat' first
    | assumption | (fail_if_no_progress refine Free.mk hK ?_ (Frame.only fun p hp => by
        cases p <;> first
          | exact absurd hp (by with_unfolding_all decide) | exact rfl | exact ⟨rfl, rfl, rfl, rfl, rfl⟩))
    | apply keep_ite | split

theorem cqModerate_keeps {K : State → Prop} (hK : Free [.host, .out] K) {n : Nat} {s : State} (h0 : K s) :
    K (cqModerate n s) := by
  unfold cqModerate
  try dsimp -proj only
  with_reducible repeat' first
    | assumption | apply sendMsix_keeps (hK.sub rfl) | apply updCq_keeps (hK.sub rfl)
    | (fail_if_no_progress refine Free.mk hK ?_ (Frame.only fun p hp => by
        cases p <;> first
          | exact absurd hp (by with_unfolding_all decide) | exact rfl | exact ⟨rfl, rfl, rfl, rfl, rfl⟩))
    | apply keep_ite | split

theorem cqWrite_keeps {K : State → Prop} (hK : Free [.host, .blocked, .out] K) {n : Nat} {e : BitVec 512}
    {counted : Bool} {s : State} (h0 : K s) : K (cqWrite n e counted s) := by
  unfold cqWrite
  try dsimp -proj only
  with_reducible repeat' first
    | assumption | apply hostWrite_keeps (hK.sub rfl) | apply updCq_keeps (hK.sub rfl)
    | apply cqModerate_keeps (hK.sub rfl) | (fail_if_no_progress refine Free.mk hK ?_ (Frame.only fun p hp => by
        cases p <;> first
          | exact absurd hp (by with_unfolding_all decide) | exact rfl | exact ⟨rfl, rfl, rfl, rfl, rfl⟩))
    | apply keep_ite | split

theorem cqPut_keeps {K : State → Prop} (hK : Free [.host, .blocked, .out] K) {n : Nat} {e : BitVec 512}
    {isEvent : Bool} {counted : Bool} {s : State} (h0 : K s) : K (cqPut n e isEvent counted s) := by
  unfold cqPut
  with_reducible repeat' first
    | assumption | apply cqWrite_keeps (hK.sub rfl) | apply updCq_keeps (hK.sub rfl)
    | (fail_if_no_progress refine Free.mk hK ?_ (Frame.only fun p hp => by
        cases p <;> first
          | exact absurd hp (by with_unfolding_all decide) | exact rfl | exact ⟨rfl, rfl, rfl, rfl, rfl⟩))
    | apply keep_ite | split

theorem postEvent_keeps {K : State → Prop} (hK : Free [.host, .blocked, .out] K) {code : Nat} {arg0 : Nat}
    {arg1 : Nat} {body : List Byte} {s : State} (h0 : K s) : K (postEvent code arg0 arg1 body s) := by
  unfold postEvent
  try dsimp -proj only
  with_reducible repeat' first
    | assumption | apply cqPut_keeps (hK.sub rfl)
    | (fail_if_no_progress refine Free.mk hK ?_ (Frame.only fun p hp => by
        cases p <;> first
          | exact absurd hp (by with_unfolding_all decide) | exact rfl | exact ⟨rfl, rfl, rfl, rfl, rfl⟩))
    | apply keep_ite | split

theorem ringError_keeps {K : State → Prop} (hK : Free [.host, .blocked, .out] K) {isCq : Bool} {n : Nat}
    {code : Nat} {tag : Nat} {s : State} (h0 : K s) : K (ringError isCq n code tag s) := by
  unfold ringError
  with_reducible repeat' first
    | assumption | apply postEvent_keeps (hK.sub rfl)

theorem writeRecord_keeps {K : State → Prop} (hK : Free [.host, .perf, .blocked, .out] K) {bs : List Byte}
    {s : State} (h0 : K s) : K (writeRecord bs s) := by
  unfold writeRecord
  try dsimp -proj only
  with_reducible repeat' first
    | assumption | apply postEvent_keeps (hK.sub rfl) | apply setAer_keeps (hK.sub rfl)
    | apply hostWrite_keeps (hK.sub rfl) | (fail_if_no_progress refine Free.mk hK ?_ (Frame.only fun p hp => by
        cases p <;> first
          | exact absurd hp (by with_unfolding_all decide) | exact rfl | exact ⟨rfl, rfl, rfl, rfl, rfl⟩))
    | apply keep_ite | split

theorem flushWaiting_keeps {K : State → Prop} (hK : Free [.host, .perf, .blocked, .out] K) {s : State}
    (h0 : K s) : K (flushWaiting s) := by
  unfold flushWaiting
  try dsimp -proj only
  with_reducible repeat' first
    | assumption | apply updCq_keeps (hK.sub rfl) | apply cqWrite_keeps (hK.sub rfl)
    | apply writeRecord_keeps (hK.sub rfl) | apply keep_foldl | apply keep_foldl_fst | intro _
    | (fail_if_no_progress refine Free.mk hK ?_ (Frame.only fun p hp => by
        cases p <;> first
          | exact absurd hp (by with_unfolding_all decide) | exact rfl | exact ⟨rfl, rfl, rfl, rfl, rfl⟩))
    | apply keep_ite | split

theorem complete_keeps {K : State → Prop} (hK : Free [.host, .blocked, .out] K) {t : Tok} {status : Nat}
    {detail : Nat} {arg : Nat} {result : List Byte} {s : State} (h0 : K s) :
    K (complete t status detail arg result s) := by
  unfold complete
  try dsimp -proj only
  with_reducible repeat' first
    | assumption | apply updSq_keeps (hK.sub rfl) | apply updCq_keeps (hK.sub rfl) | apply cqPut_keeps (hK.sub rfl)
    | (fail_if_no_progress refine Free.mk hK ?_ (Frame.only fun p hp => by
        cases p <;> first
          | exact absurd hp (by with_unfolding_all decide) | exact rfl | exact ⟨rfl, rfl, rfl, rfl, rfl⟩))
    | apply keep_ite | split

theorem ok_keeps {K : State → Prop} (hK : Free [.host, .blocked, .out] K) {t : Tok} {arg : Nat}
    {result : List Byte} {s : State} (h0 : K s) : K (ok t arg result s) := by
  unfold ok
  with_reducible repeat' first
    | assumption | apply complete_keeps (hK.sub rfl)

theorem bad_keeps {K : State → Prop} (hK : Free [.host, .blocked, .out] K) {t : Tok} {detail : Nat} {s : State}
    (h0 : K s) : K (bad t detail s) := by
  unfold bad
  with_reducible repeat' first
    | assumption | apply complete_keeps (hK.sub rfl)

theorem countSkein_keeps {K : State → Prop} (hK : Free [.perf] K) {code : Nat} {priv : Nat} {hanks : List Nat}
    {o : Nat} {n : Nat} {s : State} (h0 : K s) : K (countSkein code priv hanks o n s) := by
  unfold countSkein
  with_reducible repeat' first
    | assumption | apply count_keeps (hK.sub rfl) | apply keep_foldl | apply keep_foldl_fst | intro _

theorem arrayWrite_keeps {K : State → Prop} (hK : Free [.skeinMem] K) {hanks : List Nat} {o : Nat}
    {bs : List Byte} {s : State} (h0 : K s) : K (arrayWrite hanks o bs s) := by
  unfold arrayWrite
  try dsimp -proj only
  with_reducible repeat' first
    | assumption | apply keep_foldl | apply keep_foldl_fst | intro _
    | (fail_if_no_progress refine Free.mk hK ?_ (Frame.only fun p hp => by
        cases p <;> first
          | exact absurd hp (by with_unfolding_all decide) | exact rfl | exact ⟨rfl, rfl, rfl, rfl, rfl⟩))

theorem setHank_keeps {K : State → Prop} (hK : Free [.hanks] K) {st : HankState} {h : Nat} {s : State}
    (h0 : K s) : K (setHank st h s) := by
  unfold setHank
  with_reducible repeat' first
    | assumption | (fail_if_no_progress refine Free.mk hK ?_ (Frame.only fun p hp => by
        cases p <;> first
          | exact absurd hp (by with_unfolding_all decide) | exact rfl | exact ⟨rfl, rfl, rfl, rfl, rfl⟩))

theorem releaseHank_keeps {K : State → Prop} (hK : Free [.hanks] K) {h : Nat} {s : State} (h0 : K s) :
    K (releaseHank h s) := by
  unfold releaseHank
  with_reducible repeat' first
    | assumption | apply setHank_keeps (hK.sub rfl) | apply keep_ite | split

theorem allocArray_keeps {K : State → Prop} (hK : Free [.skeinMem, .hanks] K) {st : HankState} {n : Nat} {s : State} (h0 : K s) {a'}
    {t' : State} (he : allocArray st n s = some (a', t')) : K t' := by
  unfold allocArray at he
  split at he
  · cases he
    exact h0
  · obtain ⟨⟨hs, off, v⟩, e1, e2⟩ := Option.map_eq_some_iff.mp he
    have hv : ∀ x, ((List.range n).foldl (fun (r : Option (List Nat × Bool × State)) k =>
        match r with
        | none => none
        | some (hs, off, s_1) =>
          match placeHank s_1 (s.skein.ordinal % s.config.skeins) k with
          | none => none
          | some (h, o) =>
            let s := setHank st h s_1
            some (hs ++ [h], off || o, { s with skein := { s.skein with mem := memZeroHank s.skein.mem h } }))
        (some ([], false, s))) = some x → K x.2.2 := by
      refine keep_foldl_any (K := fun r : Option (List Nat × Bool × State) => ∀ x, r = some x → K x.2.2) ?_ ?_
      · intro x hx
        cases hx
        exact h0
      · intro r k hr x hx
        match r, hr with
        | none, _ => cases hx
        | some (hs, off, u), hr =>
          dsimp only at hx
          split at hx
          · cases hx
          · cases hx
            have h2 : K u := hr _ rfl
            rename_i hh _ _
            exact hK.keep (setHank_keeps (st := st) (h := hh) (hK.sub rfl) h2) (by
              intro p hp; cases p <;> first | exact absurd hp (by decide) | rfl | exact ⟨rfl, rfl, rfl, rfl, rfl⟩)
    cases e2
    exact hK.keep (hv _ e1) (by intro p hp; cases p <;> first | exact absurd hp (by decide) | rfl | exact ⟨rfl, rfl, rfl, rfl, rfl⟩)

theorem applyCarve_keeps {K : State → Prop} (hK : Free [.pools] K) {s : State} (h0 : K s) : K (applyCarve s) := by
  unfold applyCarve
  try dsimp -proj only
  with_reducible repeat' first
    | assumption | (fail_if_no_progress refine Free.mk hK ?_ (Frame.only fun p hp => by
        cases p <;> first
          | exact absurd hp (by with_unfolding_all decide) | exact rfl | exact ⟨rfl, rfl, rfl, rfl, rfl⟩))
    | apply keep_ite | split

theorem updPool_keeps {K : State → Prop} (hK : Free [.pools] K) {n : Nat} {f : Pool → Pool} {s : State}
    (h0 : K s) : K (updPool n f s) := by
  unfold updPool
  with_reducible repeat' first
    | assumption | (fail_if_no_progress refine Free.mk hK ?_ (Frame.only fun p hp => by
        cases p <;> first
          | exact absurd hp (by with_unfolding_all decide) | exact rfl | exact ⟨rfl, rfl, rfl, rfl, rfl⟩))

theorem reserveCells_keeps {K : State → Prop} (hK : Free [.pools] K) {cs : List Nat} {s : State} (h0 : K s)
    {st1 : State} (he : reserveCells cs s = some st1) : K st1 := by
  unfold reserveCells at he
  repeat' (split at he)
  all_goals (try first | contradiction | cases he)
  with_reducible repeat' first
    | assumption | apply updPool_keeps (hK.sub rfl) | apply keep_foldl | apply keep_foldl_fst | intro _
    | (fail_if_no_progress refine Free.mk hK ?_ (Frame.only fun p hp => by
        cases p <;> first
          | exact absurd hp (by with_unfolding_all decide) | exact rfl | exact ⟨rfl, rfl, rfl, rfl, rfl⟩))
    | apply keep_ite | split

theorem unreserveCells_keeps {K : State → Prop} (hK : Free [.pools] K) {cs : List Nat} {s : State} (h0 : K s) :
    K (unreserveCells cs s) := by
  unfold unreserveCells
  with_reducible repeat' first
    | assumption | apply updPool_keeps (hK.sub rfl) | apply keep_foldl | apply keep_foldl_fst | intro _
    | (fail_if_no_progress refine Free.mk hK ?_ (Frame.only fun p hp => by
        cases p <;> first
          | exact absurd hp (by with_unfolding_all decide) | exact rfl | exact ⟨rfl, rfl, rfl, rfl, rfl⟩))

theorem doubleFree_keeps {K : State → Prop} (hK : Free [.host, .pools, .perf, .blocked, .out] K) {pool : Nat}
    {cell : Nat} {s : State} (h0 : K s) : K (doubleFree pool cell s) := by
  unfold doubleFree
  with_reducible repeat' first
    | assumption | apply postEvent_keeps (hK.sub rfl) | apply count_keeps (hK.sub rfl)
    | (fail_if_no_progress refine Free.mk hK ?_ (Frame.only fun p hp => by
        cases p <;> first
          | exact absurd hp (by with_unfolding_all decide) | exact rfl | exact ⟨rfl, rfl, rfl, rfl, rfl⟩))

theorem popCell_keeps {K : State → Prop} (hK : Free [.host, .pools, .perf, .blocked, .out] K) : ∀ {k n : Nat} {s : State}, K s → ∀ {a'} {t' : State},
    popCell k n s = some (a', t') → K t' := by
  intro k
  induction k with
  | zero => intro n s _ a' t' he; simp [popCell] at he
  | succ k ih =>
    intro n s h0 a' t' he
    unfold popCell at he
    dsimp only at he
    split at he
    · contradiction
    · split at he
      · exact ih (doubleFree_keeps (hK.sub rfl) (updPool_keeps (hK.sub rfl) h0)) he
      · cases he
        exact updPool_keeps (hK.sub rfl) h0

theorem allocReserved_keeps {K : State → Prop} (hK : Free [.host, .pools, .perf, .blocked, .out] K) {n : Nat} {s : State} (h0 : K s) {a'} {t' : State}
    (he : allocReserved n s = some (a', t')) : K t' :=
  popCell_keeps hK (updPool_keeps (hK.sub rfl) h0) he

theorem allocUnreserved_keeps {K : State → Prop} (hK : Free [.host, .pools, .perf, .blocked, .out] K) {b priv : Nat} {s : State} (h0 : K s) {r1}
    {st1 : State} (he : allocUnreserved b priv s = (r1, st1)) : K st1 := by
  have h1 : K (applyCarve s) := applyCarve_keeps (hK.sub rfl) h0
  unfold allocUnreserved at he
  dsimp only at he
  by_cases c : (getPool (applyCarve s) (poolFor b)).held < poolFreeCount (getPool (applyCarve s) (poolFor b))
  · rw [if_pos c] at he
    split at he
    · cases he
      exact popCell_keeps (hK.sub rfl) h1 ‹_›
    · cases he
      exact h1
  · rw [if_neg c] at he
    cases he
    exact count_keeps (hK.sub rfl) (updPool_keeps (hK.sub rfl) h1)

theorem freeCell_keeps {K : State → Prop} (hK : Free [.host, .pools, .perf, .blocked, .out] K) {pool : Nat}
    {cell : Nat} {reserved : Bool} {s : State} (h0 : K s) : K (freeCell pool cell reserved s) := by
  unfold freeCell
  try dsimp -proj only
  with_reducible repeat' first
    | assumption | apply updPool_keeps (hK.sub rfl) | apply doubleFree_keeps (hK.sub rfl)
    | (fail_if_no_progress refine Free.mk hK ?_ (Frame.only fun p hp => by
        cases p <;> first
          | exact absurd hp (by with_unfolding_all decide) | exact rfl | exact ⟨rfl, rfl, rfl, rfl, rfl⟩))
    | apply keep_ite | split

theorem writeSetting_keeps {K : State → Prop} (hK : Free [.routing] K) {a : Nat} {v : BitVec 64} {s : State}
    (h0 : K s) : K (writeSetting a v s) := by
  unfold writeSetting
  with_reducible repeat' first
    | assumption | (fail_if_no_progress refine Free.mk hK ?_ (Frame.only fun p hp => by
        cases p <;> first
          | exact absurd hp (by with_unfolding_all decide) | exact rfl | exact ⟨rfl, rfl, rfl, rfl, rfl⟩))

theorem updQueue_keeps {K : State → Prop} (hK : Free [.ports] K) {p : Nat} {sub : Nat}
    {f : List QPkt → List QPkt} {s : State} (h0 : K s) : K (updQueue p sub f s) := by
  unfold updQueue
  with_reducible repeat' first
    | assumption | apply updPort_keeps (hK.sub rfl)
    | (fail_if_no_progress refine Free.mk hK ?_ (Frame.only fun p hp => by
        cases p <;> first
          | exact absurd hp (by with_unfolding_all decide) | exact rfl | exact ⟨rfl, rfl, rfl, rfl, rfl⟩))

theorem releaseBuf_keeps {K : State → Prop}
    (hK : Free [.host, .pools, .ports, .routing, .perf, .blocked, .out] K) {q : QPkt} {s : State} (h0 : K s) :
    K (releaseBuf q s) := by
  unfold releaseBuf
  try dsimp -proj only
  with_reducible repeat' first
    | assumption | apply freeCell_keeps (hK.sub rfl) | apply updPort_keeps (hK.sub rfl)
    | (fail_if_no_progress refine Free.mk hK ?_ (Frame.only fun p hp => by
        cases p <;> first
          | exact absurd hp (by with_unfolding_all decide) | exact rfl | exact ⟨rfl, rfl, rfl, rfl, rfl⟩))
    | apply keep_ite | split

theorem flush_keeps {K : State → Prop}
    (hK : Free [.host, .pools, .ports, .routing, .perf, .blocked, .drops, .out] K) {port : Nat} {sub : Nat}
    {q : QPkt} {s : State} (h0 : K s) : K (flush port sub q s) := by
  unfold flush
  try dsimp -proj only
  with_reducible repeat' first
    | assumption | apply updPort_keeps (hK.sub rfl) | apply releaseBuf_keeps (hK.sub rfl)
    | apply drop_keeps (hK.sub rfl) | apply count_keeps (hK.sub rfl)
    | (fail_if_no_progress refine Free.mk hK ?_ (Frame.only fun p hp => by
        cases p <;> first
          | exact absurd hp (by with_unfolding_all decide) | exact rfl | exact ⟨rfl, rfl, rfl, rfl, rfl⟩))
    | apply keep_ite | split

theorem enqueue_keeps {K : State → Prop}
    (hK : Free [.host, .pools, .ports, .routing, .traffic, .perf, .blocked, .drops, .out] K) {port : Nat}
    {sub : Nat} {q : QPkt} {s : State} (h0 : K s) : K (enqueue port sub q s) := by
  unfold enqueue
  try dsimp -proj only
  with_reducible repeat' first
    | assumption | apply updQueue_keeps (hK.sub rfl) | apply updPort_keeps (hK.sub rfl)
    | apply releaseBuf_keeps (hK.sub rfl) | apply drop_keeps (hK.sub rfl)
    | (fail_if_no_progress refine Free.mk hK ?_ (Frame.only fun p hp => by
        cases p <;> first
          | exact absurd hp (by with_unfolding_all decide) | exact rfl | exact ⟨rfl, rfl, rfl, rfl, rfl⟩))
    | apply keep_ite | split

theorem deliver_keeps {K : State → Prop}
    (hK : Free [.host, .pools, .ports, .routing, .perf, .blocked, .drops, .out] K) {q : QPkt} {s : State}
    (h0 : K s) : K (deliver q s) := by
  unfold deliver
  with_reducible repeat' first
    | assumption | apply releaseBuf_keeps (hK.sub rfl) | apply drop_keeps (hK.sub rfl)
    | (fail_if_no_progress refine Free.mk hK ?_ (Frame.only fun p hp => by
        cases p <;> first
          | exact absurd hp (by with_unfolding_all decide) | exact rfl | exact ⟨rfl, rfl, rfl, rfl, rfl⟩))
    | apply keep_ite | split

theorem countStale_keeps {K : State → Prop} (hK : Free [.perf] K) {q : QPkt} {injected : Bool} {s : State}
    (h0 : K s) : K (countStale q injected s) := by
  unfold countStale
  with_reducible repeat' first
    | assumption | apply count_keeps (hK.sub rfl) | apply keep_ite | split

theorem routeOnce_keeps {K : State → Prop}
    (hK : Free [.host, .pools, .ports, .routing, .traffic, .perf, .blocked, .drops, .out] K) {q : QPkt}
    {injected : Bool} {escOnly : Bool} {s : State} (h0 : K s) {r1} {st1 : State}
    (he : routeOnce q injected escOnly s = (st1, r1)) : K st1 := by
  unfold routeOnce at he
  try dsimp -proj only at he
  repeat' (split at he)
  all_goals (try first | contradiction | cases he)
  try dsimp -proj only
  with_reducible repeat' first
    | assumption | apply countStale_keeps (hK.sub rfl) | apply deliver_keeps (hK.sub rfl)
    | apply releaseBuf_keeps (hK.sub rfl) | apply drop_keeps (hK.sub rfl) | apply count_keeps (hK.sub rfl)
    | apply enqueue_keeps (hK.sub rfl) | apply flush_keeps (hK.sub rfl)
    | (fail_if_no_progress refine Free.mk hK ?_ (Frame.only fun p hp => by
        cases p <;> first
          | exact absurd hp (by with_unfolding_all decide) | exact rfl | exact ⟨rfl, rfl, rfl, rfl, rfl⟩))
    | apply keep_ite | split

theorem sendOwn_keeps {K : State → Prop}
    (hK : Free [.host, .pools, .ports, .routing, .traffic, .perf, .blocked, .drops, .out] K) {p : Packet}
    {s : State} (h0 : K s) : K (sendOwn p s) := by
  unfold sendOwn
  with_reducible repeat' first
    | assumption | refine routeOnce_keeps (hK.sub rfl) ?_ (by first | assumption | rfl)

theorem sendCtl_keeps {K : State → Prop}
    (hK : Free [.host, .pools, .ports, .routing, .traffic, .perf, .blocked, .drops, .out] K) {p : Packet}
    {s : State} (h0 : K s) : K (sendCtl p s) := by
  unfold sendCtl
  with_reducible repeat' first
    | assumption | refine allocUnreserved_keeps (hK.sub rfl) ?_ (by first | assumption | rfl)
    | refine routeOnce_keeps (hK.sub rfl) ?_ (by first | assumption | rfl) | split

theorem sendNackCum_keeps {K : State → Prop}
    (hK : Free [.host, .pools, .ports, .routing, .traffic, .perf, .blocked, .drops, .out] K) {p : Packet}
    {port : Nat} {code : Nat} {cum : Nat} {s : State} (h0 : K s) : K (sendNackCum p port code cum s) := by
  unfold sendNackCum
  try dsimp -proj only
  with_reducible repeat' first
    | assumption | apply count_keeps (hK.sub rfl) | apply deliver_keeps (hK.sub rfl)
    | refine routeOnce_keeps (hK.sub rfl) ?_ (by first | assumption | rfl)
    | (fail_if_no_progress refine Free.mk hK ?_ (Frame.only fun p hp => by
        cases p <;> first
          | exact absurd hp (by with_unfolding_all decide) | exact rfl | exact ⟨rfl, rfl, rfl, rfl, rfl⟩))
    | apply keep_ite | split

theorem sendNack_keeps {K : State → Prop}
    (hK : Free [.host, .pools, .ports, .routing, .traffic, .perf, .blocked, .drops, .out] K) {p : Packet}
    {port : Nat} {code : Nat} {s : State} (h0 : K s) : K (sendNack p port code s) := by
  unfold sendNack
  with_reducible repeat' first
    | assumption | apply sendNackCum_keeps (hK.sub rfl)

theorem route_keeps {K : State → Prop}
    (hK : Free [.host, .pools, .ports, .routing, .traffic, .perf, .blocked, .drops, .out] K) {q : QPkt}
    {injected : Bool} {escOnly : Bool} {s : State} (h0 : K s) : K (route q injected escOnly s) := by
  unfold route
  with_reducible repeat' first
    | assumption | refine routeOnce_keeps (hK.sub rfl) ?_ (by first | assumption | rfl)
    | apply sendNack_keeps (hK.sub rfl) | split

theorem originateOwn_keeps {K : State → Prop}
    (hK : Free [.host, .pools, .ports, .routing, .traffic, .perf, .blocked, .drops, .out] K) {p : Packet}
    {s : State} (h0 : K s) : K (originateOwn p s) := by
  unfold originateOwn
  with_reducible repeat' first
    | assumption | apply route_keeps (hK.sub rfl)

theorem originate_keeps {K : State → Prop}
    (hK : Free [.host, .pools, .ports, .routing, .traffic, .perf, .blocked, .drops, .out] K) {priv : Nat}
    {p : Packet} {s : State} (h0 : K s) : K (originate priv p s) := by
  unfold originate
  with_reducible repeat' first
    | assumption | refine allocUnreserved_keeps (hK.sub rfl) ?_ (by first | assumption | rfl)
    | apply route_keeps (hK.sub rfl) | split

theorem originateIn_keeps {K : State → Prop}
    (hK : Free [.host, .pools, .ports, .routing, .traffic, .perf, .blocked, .drops, .out] K)
    {cell : Option (Nat × Nat)} {priv : Nat} {p : Packet} {s : State} (h0 : K s) : K (originateIn cell priv p s) := by
  unfold originateIn
  with_reducible repeat' first
    | assumption | apply route_keeps (hK.sub rfl) | apply originate_keeps (hK.sub rfl) | split

theorem consume_keeps {K : State → Prop} (hK : Free [.host, .pools, .ports, .routing, .perf, .blocked, .out] K)
    {p : Packet} {s : State} (h0 : K s) : K (consume p s) := by
  unfold consume
  with_reducible repeat' first
    | assumption | apply releaseBuf_keeps (hK.sub rfl)
    | (fail_if_no_progress refine Free.mk hK ?_ (Frame.only fun p hp => by
        cases p <;> first
          | exact absurd hp (by with_unfolding_all decide) | exact rfl | exact ⟨rfl, rfl, rfl, rfl, rfl⟩)) | split

theorem setRow_keeps {K : State → Prop} (hK : Free [.rows] K) {n : Nat} {v : Nat} {s : State} (h0 : K s) :
    K (setRow n v s) := by
  unfold setRow
  with_reducible repeat' first
    | assumption | (fail_if_no_progress refine Free.mk hK ?_ (Frame.only fun p hp => by
        cases p <;> first
          | exact absurd hp (by with_unfolding_all decide) | exact rfl | exact ⟨rfl, rfl, rfl, rfl, rfl⟩))

theorem rowNotify_keeps {K : State → Prop}
    (hK : Free [.host, .pools, .ports, .routing, .traffic, .perf, .blocked, .drops, .out] K) {src : Nat}
    {row : Nat} {tag : Nat} {code : Nat} {value : Nat} {s : State} (h0 : K s) :
    K (rowNotify src row tag code value s) := by
  unfold rowNotify
  with_reducible repeat' first
    | assumption | apply sendCtl_keeps (hK.sub rfl)

theorem wakeRow_keeps {K : State → Prop}
    (hK : Free [.host, .rows, .pools, .ports, .routing, .traffic, .perf, .blocked, .drops, .out] K) {n : Nat}
    {s : State} (h0 : K s) : K (wakeRow n s) := by
  unfold wakeRow
  try dsimp -proj only
  with_reducible repeat' first
    | assumption | apply ok_keeps (hK.sub rfl) | apply rowNotify_keeps (hK.sub rfl) | intro _ | apply keep_forEach
    | intro _ | (fail_if_no_progress refine Free.mk hK ?_ (Frame.only fun p hp => by
        cases p <;> first
          | exact absurd hp (by with_unfolding_all decide) | exact rfl | exact ⟨rfl, rfl, rfl, rfl, rfl⟩))

theorem addRow_keeps {K : State → Prop}
    (hK : Free [.host, .rows, .pools, .ports, .routing, .traffic, .perf, .blocked, .drops, .out] K) {n : Nat}
    {inc : Nat} {s : State} (h0 : K s) : K (addRow n inc s) := by
  unfold addRow
  with_reducible repeat' first
    | assumption | apply wakeRow_keeps (hK.sub rfl) | apply setRow_keeps (hK.sub rfl)

theorem releaseHostRows_keeps {K : State → Prop} (hK : Free [.host, .rows, .blocked, .out] K) {base : Nat}
    {n : Nat} {s : State} (h0 : K s) : K (releaseHostRows base n s) := by
  unfold releaseHostRows
  try dsimp -proj only
  with_reducible repeat' first
    | assumption | apply ok_keeps (hK.sub rfl) | intro _ | apply keep_forEach | intro _
    | (fail_if_no_progress refine Free.mk hK ?_ (Frame.only fun p hp => by
        cases p <;> first
          | exact absurd hp (by with_unfolding_all decide) | exact rfl | exact ⟨rfl, rfl, rfl, rfl, rfl⟩))

theorem releaseRows_keeps {K : State → Prop}
    (hK : Free [.host, .rows, .pools, .ports, .routing, .traffic, .perf, .blocked, .drops, .out] K) {base : Nat}
    {n : Nat} {s : State} (h0 : K s) : K (releaseRows base n s) := by
  unfold releaseRows
  try dsimp -proj only
  with_reducible repeat' first
    | assumption | apply releaseHostRows_keeps (hK.sub rfl) | apply rowNotify_keeps (hK.sub rfl) | intro _
    | apply keep_forEach | intro _ | (fail_if_no_progress refine Free.mk hK ?_ (Frame.only fun p hp => by
        cases p <;> first
          | exact absurd hp (by with_unfolding_all decide) | exact rfl | exact ⟨rfl, rfl, rfl, rfl, rfl⟩))

theorem fwResult_keeps {K : State → Prop} (hK : Free [.boot] K) {op : Nat} {r : Nat} {s : State} (h0 : K s) :
    K (fwResult op r s) := by
  unfold fwResult
  with_reducible repeat' first
    | assumption | (fail_if_no_progress refine Free.mk hK ?_ (Frame.only fun p hp => by
        cases p <;> first
          | exact absurd hp (by with_unfolding_all decide) | exact rfl | exact ⟨rfl, rfl, rfl, rfl, rfl⟩))

theorem hostInterfaceReset_keeps {K : State → Prop}
    (hK : Free [.host, .pools, .traffic, .perf, .boot, .blocked, .out] K) {s : State} (h0 : K s) :
    K (hostInterfaceReset s) := by
  unfold hostInterfaceReset
  try dsimp -proj only
  with_reducible repeat' first
    | assumption | apply freeCell_keeps (hK.sub rfl) | apply fwResult_keeps (hK.sub rfl) | intro _
    | apply keep_forEach | intro _ | (fail_if_no_progress refine Free.mk hK ?_ (Frame.only fun p hp => by
        cases p <;> first
          | exact absurd hp (by with_unfolding_all decide) | exact rfl | exact ⟨rfl, rfl, rfl, rfl, rfl⟩))
    | apply keep_ite | split

theorem moduleReset_keeps {K : State → Prop} (hK : Free [.flash, .host, .rows, .slots, .pools, .skeinMem, .hanks, .groups, .bed, .ports, .drones, .clock, .routing, .traffic, .flows, .course, .perf, .slotCounts, .boot, .blocked, .power, .drops] K) {code : Nat} {s : State} (h0 : K s) :
    K (moduleReset code s) :=
  hK.keep h0 (by intro p hp; cases p <;> first | exact absurd hp (by decide) | rfl)

theorem poweredReset_keeps {K : State → Prop}
    (hK : Free [.flash, .host, .rows, .slots, .pools, .skeinMem, .hanks, .groups, .bed, .ports, .drones, .clock, .routing, .traffic, .flows, .course, .perf, .slotCounts, .boot, .blocked, .power, .drops] K)
    {code : Nat} {s : State} (h0 : K s) : K (poweredReset code s) := by
  unfold poweredReset
  with_reducible repeat' first
    | assumption | apply moduleReset_keeps (hK.sub rfl) | apply keep_ite | split

theorem writeControl_keeps {K : State → Prop} (hK : Free [.flash] K) {g : BootControl → BootControl}
    {s : State} (h0 : K s) : K (writeControl g s) := by
  unfold writeControl
  try dsimp -proj only
  with_reducible repeat' first
    | assumption | (fail_if_no_progress refine Free.mk hK ?_ (Frame.only fun p hp => by
        cases p <;> first
          | exact absurd hp (by with_unfolding_all decide) | exact rfl | exact ⟨rfl, rfl, rfl, rfl, rfl⟩))
    | apply keep_ite | split

theorem firmwareStart_keeps {K : State → Prop} (hK : Free [.host, .slots, .hanks] K) {s : State} (h0 : K s) :
    K (firmwareStart s) := by
  unfold firmwareStart
  try dsimp -proj only
  with_reducible repeat' first
    | assumption | apply setHank_keeps (hK.sub rfl) | apply updSlot_keeps (hK.sub rfl) | apply keep_foldl
    | apply keep_foldl_fst | intro _ | (fail_if_no_progress refine Free.mk hK ?_ (Frame.only fun p hp => by
        cases p <;> first
          | exact absurd hp (by with_unfolding_all decide) | exact rfl | exact ⟨rfl, rfl, rfl, rfl, rfl⟩))

theorem bootRecords_keeps {K : State → Prop} (hK : Free [.flash, .boot] K) {s : State} (h0 : K s) {r1 r2}
    {st1 : State} (he : bootRecords s = (st1, r1, r2)) : K st1 := by
  unfold bootRecords at he
  try dsimp -proj only at he
  repeat' (split at he)
  all_goals (try first | contradiction | cases he)
  try dsimp -proj only
  with_reducible repeat' first
    | assumption | apply writeControl_keeps (hK.sub rfl)
    | (fail_if_no_progress refine Free.mk hK ?_ (Frame.only fun p hp => by
        cases p <;> first
          | exact absurd hp (by with_unfolding_all decide) | exact rfl | exact ⟨rfl, rfl, rfl, rfl, rfl⟩))
    | apply keep_ite | split

theorem setResult_keeps {K : State → Prop} (hK : Free [.boot, .blocked] K) {slot : Bool} {r : Nat} {s : State}
    (h0 : K s) : K (setResult slot r s) := by
  unfold setResult
  with_reducible repeat' first
    | assumption | (fail_if_no_progress refine Free.mk hK ?_ (Frame.only fun p hp => by
        cases p <;> first
          | exact absurd hp (by with_unfolding_all decide) | exact rfl | exact ⟨rfl, rfl, rfl, rfl, rfl⟩))
    | apply keep_ite | split

theorem startSlot_keeps {K : State → Prop} (hK : Free [.host, .slots, .hanks, .boot] K) {slot : Bool}
    {trial : Bool} {fell : Bool} {s : State} (h0 : K s) : K (startSlot slot trial fell s) := by
  unfold startSlot
  try dsimp -proj only
  with_reducible repeat' first
    | assumption | apply firmwareStart_keeps (hK.sub rfl)
    | (fail_if_no_progress refine Free.mk hK ?_ (Frame.only fun p hp => by
        cases p <;> first
          | exact absurd hp (by with_unfolding_all decide) | exact rfl | exact ⟨rfl, rfl, rfl, rfl, rfl⟩))

theorem bootRom_keeps {K : State → Prop} (hK : Free [.flash, .host, .slots, .hanks, .boot, .blocked, .power] K)
    {s : State} (h0 : K s) : K (bootRom s) := by
  unfold bootRom
  try dsimp -proj only
  with_reducible repeat' first
    | assumption | refine bootRecords_keeps (hK.sub rfl) ?_ (by first | assumption | rfl)
    | apply setResult_keeps (hK.sub rfl) | apply startSlot_keeps (hK.sub rfl)
    | (fail_if_no_progress refine Free.mk hK ?_ (Frame.only fun p hp => by
        cases p <;> first
          | exact absurd hp (by with_unfolding_all decide) | exact rfl | exact ⟨rfl, rfl, rfl, rfl, rfl⟩))
    | apply keep_ite | split

theorem useTurn_keeps {K : State → Prop} (hK : Free [.host] K) {n : Nat} {s : State} (h0 : K s) :
    K (useTurn n s) := by
  unfold useTurn
  try dsimp -proj only
  with_reducible repeat' first
    | assumption | (fail_if_no_progress refine Free.mk hK ?_ (Frame.only fun p hp => by
        cases p <;> first
          | exact absurd hp (by with_unfolding_all decide) | exact rfl | exact ⟨rfl, rfl, rfl, rfl, rfl⟩))
    | apply keep_ite | split

theorem takeDesc_keeps {K : State → Prop} (hK : Free [.host, .perf] K) {n : Nat} {d : Desc} {s : State}
    (h0 : K s) : K (takeDesc n d s) := by
  unfold takeDesc
  try dsimp -proj only
  with_reducible repeat' first
    | assumption | apply updSq_keeps (hK.sub rfl) | apply useTurn_keeps (hK.sub rfl)
    | apply updCq_keeps (hK.sub rfl) | apply count_keeps (hK.sub rfl)
    | (fail_if_no_progress refine Free.mk hK ?_ (Frame.only fun p hp => by
        cases p <;> first
          | exact absurd hp (by with_unfolding_all decide) | exact rfl | exact ⟨rfl, rfl, rfl, rfl, rfl⟩))

theorem fetchError_keeps {K : State → Prop} (hK : Free [.host, .blocked, .out] K) {n : Nat} {s : State}
    (h0 : K s) : K (fetchError n s) := by
  unfold fetchError
  with_reducible repeat' first
    | assumption | apply ringError_keeps (hK.sub rfl) | apply updSq_keeps (hK.sub rfl)
    | (fail_if_no_progress refine Free.mk hK ?_ (Frame.only fun p hp => by
        cases p <;> first
          | exact absurd hp (by with_unfolding_all decide) | exact rfl | exact ⟨rfl, rfl, rfl, rfl, rfl⟩))

theorem notTaken_keeps {K : State → Prop} (hK : Free [.host, .blocked, .out] K) {n : Nat} {d : Desc}
    {s : State} (h0 : K s) : K (notTaken n d s) := by
  unfold notTaken
  with_reducible repeat' first
    | assumption | apply fetchError_keeps (hK.sub rfl) | apply updSq_keeps (hK.sub rfl)
    | apply ringError_keeps (hK.sub rfl) | (fail_if_no_progress refine Free.mk hK ?_ (Frame.only fun p hp => by
        cases p <;> first
          | exact absurd hp (by with_unfolding_all decide) | exact rfl | exact ⟨rfl, rfl, rfl, rfl, rfl⟩))
    | apply keep_ite | split

theorem runCommand_keeps {K : State → Prop} (hK : Free [.host, .perf, .blocked, .out] K) {op : Nat} {sq : BitVec 8} {d : Desc} {s : State}
    {body : Tok → State → State} (h0 : K s) (hb : ∀ t s, K s → K (body t s)) : K (runCommand op sq d body s) := by
  have h1 : K (takeDesc sq.toNat d s) := takeDesc_keeps (hK.sub rfl) h0
  unfold runCommand
  split
  · show K (if _ then _ else _)
    split
    · exact hb _ _ h1
    · exact bad_keeps (hK.sub rfl) h1
  · exact notTaken_keeps (hK.sub rfl) h0

theorem fetchFails_keeps {K : State → Prop} (hK : Free [.host, .blocked, .out] K) {n : Nat} {s : State}
    (h0 : K s) : K (fetchFails n s) := by
  unfold fetchFails
  with_reducible repeat' first
    | assumption | apply fetchError_keeps (hK.sub rfl) | apply setAer_keeps (hK.sub rfl) | apply keep_ite | split

theorem execNop_keeps {K : State → Prop} (hK : Free [.host, .perf, .blocked, .out] K) {sq : BitVec 8}
    {d : Fetched} {s : State} (h0 : K s) {st1 : State} (he : execNop sq d s = .next st1) : K st1 := by
  unfold execNop at he
  repeat' (split at he)
  all_goals (injection he with he; subst he)
  with_reducible repeat' first
    | assumption | apply ok_keeps (hK.sub rfl) | apply bad_keeps (hK.sub rfl) | apply fetchFails_keeps (hK.sub rfl)
    | intro _ | apply runCommand_keeps (hK.sub rfl) | intro _ | apply keep_ite | split

theorem enableSq_keeps {K : State → Prop} (hK : Free [.host] K) {n : Nat} {v : Nat} {s : State} (h0 : K s) :
    K (enableSq n v s) := by
  unfold enableSq
  try dsimp -proj only
  with_reducible repeat' first
    | assumption | apply updSq_keeps (hK.sub rfl)
    | (fail_if_no_progress refine Free.mk hK ?_ (Frame.only fun p hp => by
        cases p <;> first
          | exact absurd hp (by with_unfolding_all decide) | exact rfl | exact ⟨rfl, rfl, rfl, rfl, rfl⟩))
    | apply keep_ite | split

theorem disableSq_keeps {K : State → Prop} (hK : Free [.host] K) {n : Nat} {v : Nat} {s : State} (h0 : K s) :
    K (disableSq n v s) := by
  unfold disableSq
  with_reducible repeat' first
    | assumption | apply updSq_keeps (hK.sub rfl)
    | (fail_if_no_progress refine Free.mk hK ?_ (Frame.only fun p hp => by
        cases p <;> first
          | exact absurd hp (by with_unfolding_all decide) | exact rfl | exact ⟨rfl, rfl, rfl, rfl, rfl⟩))
    | apply keep_ite | split

theorem writeSqCtrl_keeps {K : State → Prop} (hK : Free [.host] K) {n : Nat} {v : Nat} {s : State} (h0 : K s) :
    K (writeSqCtrl n v s) := by
  unfold writeSqCtrl
  with_reducible repeat' first
    | assumption | apply enableSq_keeps (hK.sub rfl) | apply disableSq_keeps (hK.sub rfl) | apply keep_ite | split

theorem execSqEnable_keeps {K : State → Prop} (hK : Free [.host] K) {ring : BitVec 8} {value : BitVec 32}
    {s : State} (h0 : K s) {st1 : State} (he : execSqEnable ring value s = .next st1) : K st1 := by
  unfold execSqEnable at he
  repeat' (split at he)
  all_goals (injection he with he; subst he)
  with_reducible repeat' first
    | assumption | apply hostAccess_keeps (hK.sub rfl) | apply enableSq_keeps (hK.sub rfl) | intro _

theorem execSqDisable_keeps {K : State → Prop} (hK : Free [.host] K) {ring : BitVec 8} {value : BitVec 32}
    {s : State} (h0 : K s) {st1 : State} (he : execSqDisable ring value s = .next st1) : K st1 := by
  unfold execSqDisable at he
  repeat' (split at he)
  all_goals (injection he with he; subst he)
  with_reducible repeat' first
    | assumption | apply hostAccess_keeps (hK.sub rfl) | apply disableSq_keeps (hK.sub rfl) | intro _

theorem enableCq_keeps {K : State → Prop} (hK : Free [.host, .out] K) {n : Nat} {v : Nat} {s : State}
    (h0 : K s) : K (enableCq n v s) := by
  unfold enableCq
  try dsimp -proj only
  with_reducible repeat' first
    | assumption | apply cqModerate_keeps (hK.sub rfl) | apply updCq_keeps (hK.sub rfl)
    | (fail_if_no_progress refine Free.mk hK ?_ (Frame.only fun p hp => by
        cases p <;> first
          | exact absurd hp (by with_unfolding_all decide) | exact rfl | exact ⟨rfl, rfl, rfl, rfl, rfl⟩))
    | apply keep_ite | split

theorem discardTag_keeps {K : State → Prop} (hK : Free [.host, .blocked, .out] K) {n : Nat} {tag : Nat}
    {s : State} (h0 : K s) : K (discardTag n tag s) := by
  unfold discardTag
  with_reducible repeat' first
    | assumption | apply ringError_keeps (hK.sub rfl) | apply updCq_keeps (hK.sub rfl)
    | (fail_if_no_progress refine Free.mk hK ?_ (Frame.only fun p hp => by
        cases p <;> first
          | exact absurd hp (by with_unfolding_all decide) | exact rfl | exact ⟨rfl, rfl, rfl, rfl, rfl⟩))

theorem disableCq_keeps {K : State → Prop} (hK : Free [.host, .blocked, .out] K) {n : Nat} {v : Nat}
    {s : State} (h0 : K s) : K (disableCq n v s) := by
  unfold disableCq
  try dsimp -proj only
  with_reducible repeat' first
    | assumption | apply updCq_keeps (hK.sub rfl) | apply discardTag_keeps (hK.sub rfl) | intro _
    | apply keep_forEach | intro _ | apply keep_foldl | apply keep_foldl_fst | intro _
    | (fail_if_no_progress refine Free.mk hK ?_ (Frame.only fun p hp => by
        cases p <;> first
          | exact absurd hp (by with_unfolding_all decide) | exact rfl | exact ⟨rfl, rfl, rfl, rfl, rfl⟩))
    | apply keep_ite | split

theorem writeCqCtrl_keeps {K : State → Prop} (hK : Free [.host, .blocked, .out] K) {n : Nat} {v : Nat}
    {s : State} (h0 : K s) : K (writeCqCtrl n v s) := by
  unfold writeCqCtrl
  with_reducible repeat' first
    | assumption | apply enableCq_keeps (hK.sub rfl) | apply disableCq_keeps (hK.sub rfl) | apply keep_ite | split

theorem execCqEnable_keeps {K : State → Prop} (hK : Free [.host, .out] K) {ring : BitVec 8} {value : BitVec 64}
    {s : State} (h0 : K s) {st1 : State} (he : execCqEnable ring value s = .next st1) : K st1 := by
  unfold execCqEnable at he
  repeat' (split at he)
  all_goals (injection he with he; subst he)
  with_reducible repeat' first
    | assumption | apply hostAccess_keeps (hK.sub rfl) | apply enableCq_keeps (hK.sub rfl) | intro _

theorem execCqDisable_keeps {K : State → Prop} (hK : Free [.host, .blocked, .out] K) {ring : BitVec 8}
    {value : BitVec 64} {s : State} (h0 : K s) {st1 : State} (he : execCqDisable ring value s = .next st1) : K st1 := by
  unfold execCqDisable at he
  repeat' (split at he)
  all_goals (injection he with he; subst he)
  with_reducible repeat' first
    | assumption | apply hostAccess_keeps (hK.sub rfl) | apply disableCq_keeps (hK.sub rfl) | intro _

theorem writeSampleCtrl_keeps {K : State → Prop} (hK : Free [.host] K) {v : Nat} {s : State} (h0 : K s) :
    K (writeSampleCtrl v s) := by
  unfold writeSampleCtrl
  try dsimp -proj only
  with_reducible repeat' first
    | assumption | (fail_if_no_progress refine Free.mk hK ?_ (Frame.only fun p hp => by
        cases p <;> first
          | exact absurd hp (by with_unfolding_all decide) | exact rfl | exact ⟨rfl, rfl, rfl, rfl, rfl⟩))
    | apply keep_ite | split

theorem execSampleRingEnable_keeps {K : State → Prop} (hK : Free [.host] K) {value : BitVec 32} {s : State}
    (h0 : K s) {st1 : State} (he : execSampleRingEnable value s = .next st1) : K st1 := by
  unfold execSampleRingEnable at he
  repeat' (split at he)
  all_goals (injection he with he; subst he)
  with_reducible repeat' first
    | assumption | apply hostAccess_keeps (hK.sub rfl) | apply writeSampleCtrl_keeps (hK.sub rfl) | intro _

theorem sqDoorbell_keeps {K : State → Prop} (hK : Free [.host, .blocked, .out] K) {n : Nat} {v : Nat}
    {s : State} (h0 : K s) : K (sqDoorbell n v s) := by
  unfold sqDoorbell
  with_reducible repeat' first
    | assumption | apply ringError_keeps (hK.sub rfl) | apply updSq_keeps (hK.sub rfl)
    | (fail_if_no_progress refine Free.mk hK ?_ (Frame.only fun p hp => by
        cases p <;> first
          | exact absurd hp (by with_unfolding_all decide) | exact rfl | exact ⟨rfl, rfl, rfl, rfl, rfl⟩))
    | apply keep_ite | split

theorem cqDoorbell_keeps {K : State → Prop} (hK : Free [.host, .blocked, .out] K) {n : Nat} {v : Nat}
    {s : State} (h0 : K s) : K (cqDoorbell n v s) := by
  unfold cqDoorbell
  try dsimp -proj only
  with_reducible repeat' first
    | assumption | apply updCq_keeps (hK.sub rfl) | apply ringError_keeps (hK.sub rfl)
    | (fail_if_no_progress refine Free.mk hK ?_ (Frame.only fun p hp => by
        cases p <;> first
          | exact absurd hp (by with_unfolding_all decide) | exact rfl | exact ⟨rfl, rfl, rfl, rfl, rfl⟩))
    | apply keep_ite | split

theorem sampleDoorbell_keeps {K : State → Prop} (hK : Free [.host, .blocked, .out] K) {v : Nat} {s : State}
    (h0 : K s) : K (sampleDoorbell v s) := by
  unfold sampleDoorbell
  try dsimp -proj only
  with_reducible repeat' first
    | assumption | apply postEvent_keeps (hK.sub rfl)
    | (fail_if_no_progress refine Free.mk hK ?_ (Frame.only fun p hp => by
        cases p <;> first
          | exact absurd hp (by with_unfolding_all decide) | exact rfl | exact ⟨rfl, rfl, rfl, rfl, rfl⟩))
    | apply keep_ite | split

theorem execSqTailDoorbell_keeps {K : State → Prop} (hK : Free [.host, .blocked, .out] K) {ring : BitVec 8}
    {value : BitVec 32} {s : State} (h0 : K s) {st1 : State} (he : execSqTailDoorbell ring value s = .next st1) : K
    st1 := by
  unfold execSqTailDoorbell at he
  repeat' (split at he)
  all_goals (injection he with he; subst he)
  with_reducible repeat' first
    | assumption | apply hostAccess_keeps (hK.sub rfl) | apply sqDoorbell_keeps (hK.sub rfl) | intro _

theorem execCqHeadDoorbell_keeps {K : State → Prop} (hK : Free [.host, .blocked, .out] K) {ring : BitVec 8}
    {value : BitVec 32} {s : State} (h0 : K s) {st1 : State} (he : execCqHeadDoorbell ring value s = .next st1) : K
    st1 := by
  unfold execCqHeadDoorbell at he
  repeat' (split at he)
  all_goals (injection he with he; subst he)
  with_reducible repeat' first
    | assumption | apply hostAccess_keeps (hK.sub rfl) | apply cqDoorbell_keeps (hK.sub rfl) | intro _

theorem execSampleHeadDoorbell_keeps {K : State → Prop} (hK : Free [.host, .blocked, .out] K)
    {value : BitVec 32} {s : State} (h0 : K s) {st1 : State} (he : execSampleHeadDoorbell value s = .next st1) : K
    st1 := by
  unfold execSampleHeadDoorbell at he
  repeat' (split at he)
  all_goals (injection he with he; subst he)
  with_reducible repeat' first
    | assumption | apply hostAccess_keeps (hK.sub rfl) | apply sampleDoorbell_keeps (hK.sub rfl) | intro _

theorem doorbell_keeps {K : State → Prop} (hK : Free [.host, .blocked, .out] K) {off : Nat} {v : Nat}
    {s : State} (h0 : K s) : K (doorbell off v s) := by
  unfold doorbell
  with_reducible repeat' first
    | assumption | apply sqDoorbell_keeps (hK.sub rfl) | apply cqDoorbell_keeps (hK.sub rfl)
    | apply sampleDoorbell_keeps (hK.sub rfl) | apply keep_ite | split

theorem execIrqModerationTimeout_keeps {K : State → Prop} (hK : Free [.host, .out] K) {ring : BitVec 8}
    {s : State} (h0 : K s) {st1 : State} (he : execIrqModerationTimeout ring s = .next st1) : K st1 := by
  unfold execIrqModerationTimeout at he
  repeat' (split at he)
  all_goals (injection he with he; subst he)
  with_reducible repeat' first
    | assumption | apply cqModerate_keeps (hK.sub rfl)

theorem maskVector_keeps {K : State → Prop} (hK : Free [.host, .out] K) {v : Nat} {on : Bool} {s : State}
    (h0 : K s) : K (maskVector v on s) := by
  unfold maskVector
  with_reducible repeat' first
    | assumption | apply releaseVector_keeps (hK.sub rfl)
    | (fail_if_no_progress refine Free.mk hK ?_ (Frame.only fun p hp => by
        cases p <;> first
          | exact absurd hp (by with_unfolding_all decide) | exact rfl | exact ⟨rfl, rfl, rfl, rfl, rfl⟩))

theorem execVectorUnmask_keeps {K : State → Prop} (hK : Free [.host, .out] K) {vector : BitVec 11} {s : State}
    (h0 : K s) {st1 : State} (he : execVectorUnmask vector s = .next st1) : K st1 := by
  unfold execVectorUnmask at he
  repeat' (split at he)
  all_goals (injection he with he; subst he)
  with_reducible repeat' first
    | assumption | apply hostAccess_keeps (hK.sub rfl) | apply maskVector_keeps (hK.sub rfl) | intro _

theorem releaseVectors_keeps {K : State → Prop} (hK : Free [.host, .out] K) {s : State} (h0 : K s) :
    K (releaseVectors s) := by
  unfold releaseVectors
  with_reducible repeat' first
    | assumption | apply releaseVector_keeps (hK.sub rfl) | intro _ | apply keep_forEach | intro _

theorem setD3_keeps {K : State → Prop} (hK : Free [.host, .pools, .traffic, .perf, .boot, .blocked, .out] K)
    {on : Bool} {s : State} (h0 : K s) : K (setD3 on s) := by
  unfold setD3
  try dsimp -proj only
  with_reducible repeat' first
    | assumption | apply hostInterfaceReset_keeps (hK.sub rfl)
    | (fail_if_no_progress refine Free.mk hK ?_ (Frame.only fun p hp => by
        cases p <;> first
          | exact absurd hp (by with_unfolding_all decide) | exact rfl | exact ⟨rfl, rfl, rfl, rfl, rfl⟩))
    | apply keep_ite | split

theorem configWrite_keeps {K : State → Prop}
    (hK : Free [.host, .pools, .traffic, .perf, .boot, .blocked, .out] K) {w : ConfigWrite} {s : State}
    (h0 : K s) : K (configWrite w s) := by
  unfold configWrite
  try dsimp -proj only
  with_reducible repeat' first
    | assumption | apply releaseVectors_keeps (hK.sub rfl) | apply flushWaiting_keeps (hK.sub rfl)
    | apply setD3_keeps (hK.sub rfl) | (fail_if_no_progress refine Free.mk hK ?_ (Frame.only fun p hp => by
        cases p <;> first
          | exact absurd hp (by with_unfolding_all decide) | exact rfl | exact ⟨rfl, rfl, rfl, rfl, rfl⟩))
    | apply keep_ite | split

theorem execBusMasterEnable_keeps {K : State → Prop}
    (hK : Free [.host, .pools, .traffic, .perf, .boot, .blocked, .out] K) {field : ConfigWrite} {s : State}
    (h0 : K s) {st1 : State} (he : execBusMasterEnable field s = .next st1) : K st1 := by
  unfold execBusMasterEnable at he
  repeat' (split at he)
  all_goals (injection he with he; subst he)
  with_reducible repeat' first
    | assumption | apply hostAccess_keeps (hK.sub rfl) | apply configWrite_keeps (hK.sub rfl) | intro _

theorem setRingsEn_keeps {K : State → Prop} (hK : Free [.host, .perf, .blocked, .out] K) {on : Bool}
    {s : State} (h0 : K s) : K (setRingsEn on s) := by
  unfold setRingsEn
  with_reducible repeat' first
    | assumption | apply flushWaiting_keeps (hK.sub rfl)
    | (fail_if_no_progress refine Free.mk hK ?_ (Frame.only fun p hp => by
        cases p <;> first
          | exact absurd hp (by with_unfolding_all decide) | exact rfl | exact ⟨rfl, rfl, rfl, rfl, rfl⟩))

theorem execRingsEn_keeps {K : State → Prop} (hK : Free [.host, .perf, .blocked, .out] K) {on : Bool}
    {s : State} (h0 : K s) {st1 : State} (he : execRingsEn on s = .next st1) : K st1 := by
  unfold execRingsEn at he
  repeat' (split at he)
  all_goals (injection he with he; subst he)
  with_reducible repeat' first
    | assumption | apply hostAccess_keeps (hK.sub rfl) | apply setRingsEn_keeps (hK.sub rfl) | intro _

theorem execIfReset_keeps {K : State → Prop}
    (hK : Free [.host, .pools, .traffic, .perf, .boot, .blocked, .out] K) {s : State} (h0 : K s) {st1 : State}
    (he : execIfReset s = .next st1) : K st1 := by
  unfold execIfReset at he
  repeat' (split at he)
  all_goals (injection he with he; subst he)
  with_reducible repeat' first
    | assumption | apply hostAccess_keeps (hK.sub rfl) | apply hostInterfaceReset_keeps (hK.sub rfl) | intro _

theorem linkReset_keeps {K : State → Prop}
    (hK : Free [.host, .pools, .traffic, .perf, .boot, .blocked, .out] K) {cause : LinkEvent} {s : State}
    (h0 : K s) : K (linkReset cause s) := by
  unfold linkReset
  try dsimp -proj only
  with_reducible repeat' first
    | assumption | apply hostInterfaceReset_keeps (hK.sub rfl)
    | (fail_if_no_progress refine Free.mk hK ?_ (Frame.only fun p hp => by
        cases p <;> first
          | exact absurd hp (by with_unfolding_all decide) | exact rfl | exact ⟨rfl, rfl, rfl, rfl, rfl⟩))

theorem execHostInterfaceReset_keeps {K : State → Prop}
    (hK : Free [.host, .pools, .traffic, .perf, .boot, .blocked, .out] K) {cause : LinkEvent} {s : State}
    (h0 : K s) {st1 : State} (he : execHostInterfaceReset cause s = .next st1) : K st1 := by
  unfold execHostInterfaceReset at he
  repeat' (split at he)
  all_goals (injection he with he; subst he)
  with_reducible repeat' first
    | assumption | apply linkReset_keeps (hK.sub rfl)

theorem execModuleReset_keeps {K : State → Prop}
    (hK : Free [.flash, .host, .rows, .slots, .pools, .skeinMem, .hanks, .groups, .bed, .ports, .drones, .clock, .routing, .traffic, .flows, .course, .perf, .slotCounts, .boot, .blocked, .power, .drops] K)
    {s : State} (h0 : K s) {st1 : State} (he : execModuleReset s = .next st1) : K st1 := by
  unfold execModuleReset at he
  repeat' (split at he)
  all_goals (injection he with he; subst he)
  with_reducible repeat' first
    | assumption | apply hostAccess_keeps (hK.sub rfl) | apply poweredReset_keeps (hK.sub rfl) | intro _

theorem progBad_keeps {K : State → Prop} (hK : Free [.host, .blocked, .out] K) {t : Tok} {code : Nat}
    {s : State} (h0 : K s) : K (progBad t code s) := by
  unfold progBad
  with_reducible repeat' first
    | assumption | apply complete_keeps (hK.sub rfl)

theorem installImage_keeps {K : State → Prop} (hK : Free [.host, .slots, .blocked, .out] K) {n : Nat}
    {i : Image} {t : Tok} {s : State} (h0 : K s) : K (installImage n i t s) := by
  unfold installImage
  with_reducible repeat' first
    | assumption | apply ok_keeps (hK.sub rfl) | apply updSlot_keeps (hK.sub rfl)
    | (fail_if_no_progress refine Free.mk hK ?_ (Frame.only fun p hp => by
        cases p <;> first
          | exact absurd hp (by with_unfolding_all decide) | exact rfl | exact ⟨rfl, rfl, rfl, rfl, rfl⟩))

theorem programLoad_keeps {K : State → Prop} (hK : Free [.host, .slots, .blocked, .out] K) {d : Desc}
    {h : HostRead} {t : Tok} {s : State} (h0 : K s) : K (programLoad d h t s) := by
  unfold programLoad
  try dsimp -proj only
  with_reducible repeat' first
    | assumption | apply progBad_keeps (hK.sub rfl) | apply installImage_keeps (hK.sub rfl)
    | apply noteRead_keeps (hK.sub rfl) | apply keep_ite | split

theorem execProgramLoad_keeps {K : State → Prop} (hK : Free [.host, .slots, .perf, .blocked, .out] K)
    {sq : BitVec 8} {d : Desc} {host : HostRead} {s : State} (h0 : K s) {st1 : State}
    (he : execProgramLoad sq d host s = .next st1) : K st1 := by
  unfold execProgramLoad at he
  repeat' (split at he)
  all_goals (injection he with he; subst he)
  with_reducible repeat' first
    | assumption | apply programLoad_keeps (hK.sub rfl) | intro _ | apply runCommand_keeps (hK.sub rfl) | intro _

theorem programClear_keeps {K : State → Prop} (hK : Free [.host, .slots, .blocked, .out] K) {d : Desc}
    {t : Tok} {s : State} (h0 : K s) : K (programClear d t s) := by
  unfold programClear
  try dsimp -proj only
  with_reducible repeat' first
    | assumption | apply progBad_keeps (hK.sub rfl) | apply ok_keeps (hK.sub rfl)
    | apply updSlot_keeps (hK.sub rfl) | (fail_if_no_progress refine Free.mk hK ?_ (Frame.only fun p hp => by
        cases p <;> first
          | exact absurd hp (by with_unfolding_all decide) | exact rfl | exact ⟨rfl, rfl, rfl, rfl, rfl⟩))
    | apply keep_ite | split

theorem execProgramClear_keeps {K : State → Prop} (hK : Free [.host, .slots, .perf, .blocked, .out] K)
    {sq : BitVec 8} {d : Desc} {s : State} (h0 : K s) {st1 : State} (he : execProgramClear sq d s = .next st1) : K
    st1 := by
  unfold execProgramClear at he
  repeat' (split at he)
  all_goals (injection he with he; subst he)
  with_reducible repeat' first
    | assumption | apply programClear_keeps (hK.sub rfl) | intro _ | apply runCommand_keeps (hK.sub rfl) | intro _

theorem programQuery_keeps {K : State → Prop} (hK : Free [.host, .blocked, .out] K) {d : Desc} {t : Tok}
    {s : State} (h0 : K s) : K (programQuery d t s) := by
  unfold programQuery
  try dsimp -proj only
  with_reducible repeat' first
    | assumption | apply progBad_keeps (hK.sub rfl) | apply ok_keeps (hK.sub rfl) | apply keep_ite | split

theorem execProgramQuery_keeps {K : State → Prop} (hK : Free [.host, .perf, .blocked, .out] K) {sq : BitVec 8}
    {d : Desc} {s : State} (h0 : K s) {st1 : State} (he : execProgramQuery sq d s = .next st1) : K st1 := by
  unfold execProgramQuery at he
  repeat' (split at he)
  all_goals (injection he with he; subst he)
  with_reducible repeat' first
    | assumption | apply programQuery_keeps (hK.sub rfl) | intro _ | apply runCommand_keeps (hK.sub rfl) | intro _

theorem refEvent_keeps {K : State → Prop} (hK : Free [.host, .blocked, .out] K) {code : Nat} {lane : Nat}
    {s : State} (h0 : K s) : K (refEvent code lane s) := by
  unfold refEvent
  with_reducible repeat' first
    | assumption | apply postEvent_keeps (hK.sub rfl)

theorem takeUpstream_keeps {K : State → Prop} (hK : Free [.host, .clock, .blocked, .out] K) {m : Nat}
    {s : State} (h0 : K s) : K (takeUpstream m s) := by
  unfold takeUpstream
  try dsimp -proj only
  with_reducible repeat' first
    | assumption | apply refEvent_keeps (hK.sub rfl)
    | (fail_if_no_progress refine Free.mk hK ?_ (Frame.only fun p hp => by
        cases p <;> first
          | exact absurd hp (by with_unfolding_all decide) | exact rfl | exact ⟨rfl, rfl, rfl, rfl, rfl⟩))
    | apply keep_ite | split

theorem setBank_keeps {K : State → Prop} (hK : Free [.routing] K) {b : Bool} {st : BankState} {s : State}
    (h0 : K s) : K (setBank b st s) := by
  unfold setBank
  with_reducible repeat' first
    | assumption | (fail_if_no_progress refine Free.mk hK ?_ (Frame.only fun p hp => by
        cases p <;> first
          | exact absurd hp (by with_unfolding_all decide) | exact rfl | exact ⟨rfl, rfl, rfl, rfl, rfl⟩))
    | apply keep_ite | split

theorem retireBank_keeps {K : State → Prop} (hK : Free [.routing] K) {s : State} (h0 : K s) : K (retireBank s) := by
  unfold retireBank
  try dsimp -proj only
  with_reducible repeat' first
    | assumption | apply setBank_keeps (hK.sub rfl) | apply keep_ite | split

theorem switchEpoch_keeps {K : State → Prop} (hK : Free [.routing] K) {s : State} (h0 : K s) {t' : State}
    (he : switchEpoch s = some t') : K t' := by
  unfold switchEpoch at he
  dsimp only at he
  generalize (if s.routing.bank0 = BankState.current then some false else _ : Option Bool) = cur at he
  split at he
  · cases he
  · split at he
    · cases he
    · injection he with he
      subst he
      have h1 : ∀ i, K (match cur with
          | some c => setBank c .draining (setBank i .current s)
          | none => setBank i .current s) := by
        intro i
        split
        · exact setBank_keeps (hK.sub rfl) (setBank_keeps (hK.sub rfl) h0)
        · exact setBank_keeps (hK.sub rfl) h0
      exact hK.keep (h1 _) (by intro p hp; cases p <;> first | exact absurd hp (by decide) | rfl | exact ⟨rfl, rfl, rfl, rfl, rfl⟩)

theorem armBit_keeps {K : State → Prop} (hK : Free [.routing] K) {k : Nat} {s : State} (h0 : K s) {t' : State}
    (he : armBit k s = .inr t') : K t' := by
  unfold armBit at he
  dsimp only at he
  repeat' split at he
  all_goals (cases he)
  all_goals exact setBank_keeps (hK.sub rfl) h0

theorem retryHeld_keeps {K : State → Prop}
    (hK : Free [.host, .pools, .ports, .routing, .traffic, .perf, .blocked, .drops, .out] K) {s : State}
    (h0 : K s) : K (retryHeld s) := by
  unfold retryHeld
  with_reducible repeat' first
    | assumption | apply route_keeps (hK.sub rfl) | apply updQueue_keeps (hK.sub rfl) | apply keep_foldl
    | apply keep_foldl_fst | intro _ | (fail_if_no_progress refine Free.mk hK ?_ (Frame.only fun p hp => by
        cases p <;> first
          | exact absurd hp (by with_unfolding_all decide) | exact rfl | exact ⟨rfl, rfl, rfl, rfl, rfl⟩)) | split

theorem execBankRetire_keeps {K : State → Prop} (hK : Free [.routing] K) {s : State} (h0 : K s) {st1 : State}
    (he : execBankRetire s = .next st1) : K st1 := by
  unfold execBankRetire at he
  repeat' (split at he)
  all_goals (injection he with he; subst he)
  with_reducible repeat' first
    | assumption | apply retireBank_keeps (hK.sub rfl)

theorem settingEffect_keeps {K : State → Prop} (hK : Free [.host, .ports, .clock, .traffic, .blocked, .out] K)
    {a : Nat} {v : Nat} {s : State} (h0 : K s) : K (settingEffect a v s) := by
  unfold settingEffect
  try dsimp -proj only
  with_reducible repeat' first
    | assumption | apply updPort_keeps (hK.sub rfl) | apply takeUpstream_keeps (hK.sub rfl)
    | (fail_if_no_progress refine Free.mk hK ?_ (Frame.only fun p hp => by
        cases p <;> first
          | exact absurd hp (by with_unfolding_all decide) | exact rfl | exact ⟨rfl, rfl, rfl, rfl, rfl⟩))
    | apply keep_ite | split

theorem applyRecord_keeps {K : State → Prop} (hK : Free [.host, .ports, .clock, .routing, .traffic, .blocked, .out] K) {a v : Nat} {s : State} (h0 : K s) {t' : State}
    (he : applyRecord a v s = .inr t') : K t' := by
  unfold applyRecord at he
  split at he
  · split at he
    · cases he
    · cases he
      exact writeSetting_keeps (hK.sub rfl) h0
  · split at he
    · refine keep_foldl_any (K := fun r : (Nat × Nat) ⊕ State => ∀ t, r = .inr t → K t) ?_ ?_ _ he
      · intro t e
        cases e
        exact h0
      · intro r k hr t e
        match r, hr with
        | .inl _, _ => cases e
        | .inr u, hr =>
          dsimp only at e
          split at e
          · exact armBit_keeps (hK.sub rfl) (hr u rfl) e
          · cases e
            exact hr _ rfl
    · split at he
      · dsimp only at he
        split at he
        · split at he
          · cases he
            exact switchEpoch_keeps (hK.sub rfl) (writeSetting_keeps (hK.sub rfl) h0) ‹_›
          · cases he
        · cases he
          exact writeSetting_keeps (hK.sub rfl) h0
      · split at he
        · cases he
          exact settingEffect_keeps (hK.sub rfl) h0
        · cases he
          exact settingEffect_keeps (hK.sub rfl) (writeSetting_keeps (hK.sub rfl) h0)

theorem applyRecords_keeps {K : State → Prop} (hK : Free [.host, .ports, .clock, .routing, .traffic, .blocked, .out] K) : ∀ {l : List (BitVec 32 × BitVec 64)} {s : State}, K s →
    ∀ {t' : State}, applyRecords l s = .inr t' → K t' := by
  intro l
  induction l with
  | nil => intro s h0 t' he; cases he; exact h0
  | cons r l ih =>
    intro s h0 t' he
    unfold applyRecords at he
    split at he
    · exact ih (applyRecord_keeps hK h0 ‹_›) he
    · cases he

theorem checkEntries_keeps {K : State → Prop} (hK : Free [.routing] K) : ∀ {l : List (BitVec 32 × BitVec 64)} {s : State},
    K s → ∀ {t' : State}, checkEntries l s = .inr t' → K t' := by
  intro l
  induction l with
  | nil => intro s h0 t' he; cases he; exact h0
  | cons r l ih =>
    intro s h0 t' he
    unfold checkEntries at he
    dsimp only at he
    split at he
    · cases he
    · exact ih (writeSetting_keeps (hK.sub rfl) h0) he

theorem txnBad_keeps {K : State → Prop} (hK : Free [.host, .blocked, .out] K) {t : Tok} {detail : Nat}
    {arg : Nat} {s : State} (h0 : K s) : K (txnBad t detail arg s) := by
  unfold txnBad
  with_reducible repeat' first
    | assumption | apply complete_keeps (hK.sub rfl)

theorem clearTxn_keeps {K : State → Prop} (hK : Free [.routing] K) {s : State} (h0 : K s) : K (clearTxn s) := by
  unfold clearTxn
  with_reducible repeat' first
    | assumption | (fail_if_no_progress refine Free.mk hK ?_ (Frame.only fun p hp => by
        cases p <;> first
          | exact absurd hp (by with_unfolding_all decide) | exact rfl | exact ⟨rfl, rfl, rfl, rfl, rfl⟩))

theorem commitNow_keeps {K : State → Prop}
    (hK : Free [.host, .pools, .ports, .clock, .routing, .traffic, .perf, .blocked, .drops, .out] K) {t : Tok}
    {recs : List (BitVec 32 × BitVec 64)} {s : State} (h0 : K s) : K (commitNow t recs s) := by
  unfold commitNow
  try dsimp -proj only
  with_reducible repeat' first
    | assumption | apply retireBank_keeps (hK.sub rfl)
    | refine applyRecords_keeps (hK.sub rfl) ?_ (by first | assumption | rfl) | apply ok_keeps (hK.sub rfl)
    | apply retryHeld_keeps (hK.sub rfl) | apply clearTxn_keeps (hK.sub rfl) | apply txnBad_keeps (hK.sub rfl)
    | apply keep_ite | split

theorem commitDue_keeps {K : State → Prop}
    (hK : Free [.host, .pools, .ports, .clock, .routing, .traffic, .perf, .blocked, .drops, .out] K) {s : State}
    (h0 : K s) : K (commitDue s) := by
  unfold commitDue
  with_reducible repeat' first
    | assumption | apply commitNow_keeps (hK.sub rfl) | apply keep_ite | split

theorem execTxnCommitTick_keeps {K : State → Prop}
    (hK : Free [.host, .pools, .ports, .clock, .routing, .traffic, .perf, .blocked, .drops, .out] K) {s : State}
    (h0 : K s) {st1 : State} (he : execTxnCommitTick s = .next st1) : K st1 := by
  unfold execTxnCommitTick at he
  repeat' (split at he)
  all_goals (injection he with he; subst he)
  with_reducible repeat' first
    | assumption | apply commitDue_keeps (hK.sub rfl)

theorem txnBegin_keeps {K : State → Prop} (hK : Free [.host, .routing, .blocked, .out] K) {t : Tok} {s : State}
    (h0 : K s) : K (txnBegin t s) := by
  unfold txnBegin
  with_reducible repeat' first
    | assumption | apply txnBad_keeps (hK.sub rfl) | apply ok_keeps (hK.sub rfl)
    | (fail_if_no_progress refine Free.mk hK ?_ (Frame.only fun p hp => by
        cases p <;> first
          | exact absurd hp (by with_unfolding_all decide) | exact rfl | exact ⟨rfl, rfl, rfl, rfl, rfl⟩)) | split

theorem execTxnBegin_keeps {K : State → Prop} (hK : Free [.host, .routing, .perf, .blocked, .out] K)
    {sq : BitVec 8} {d : Desc} {s : State} (h0 : K s) {st1 : State} (he : execTxnBegin sq d s = .next st1) : K st1 := by
  unfold execTxnBegin at he
  repeat' (split at he)
  all_goals (injection he with he; subst he)
  with_reducible repeat' first
    | assumption | apply txnBegin_keeps (hK.sub rfl) | apply txnBad_keeps (hK.sub rfl) | intro _
    | apply runCommand_keeps (hK.sub rfl) | intro _ | apply keep_ite | split

theorem txnWrite_keeps {K : State → Prop} (hK : Free [.host, .routing, .blocked, .out] K) {d : Desc}
    {h : HostRead} {t : Tok} {s : State} (h0 : K s) : K (txnWrite d h t s) := by
  unfold txnWrite
  try dsimp -proj only
  with_reducible repeat' first
    | assumption | apply txnBad_keeps (hK.sub rfl) | apply noteRead_keeps (hK.sub rfl)
    | apply ok_keeps (hK.sub rfl) | (fail_if_no_progress refine Free.mk hK ?_ (Frame.only fun p hp => by
        cases p <;> first
          | exact absurd hp (by with_unfolding_all decide) | exact rfl | exact ⟨rfl, rfl, rfl, rfl, rfl⟩))
    | apply keep_ite | split

theorem execTxnWrite_keeps {K : State → Prop} (hK : Free [.host, .routing, .perf, .blocked, .out] K)
    {sq : BitVec 8} {d : Desc} {host : HostRead} {s : State} (h0 : K s) {st1 : State}
    (he : execTxnWrite sq d host s = .next st1) : K st1 := by
  unfold execTxnWrite at he
  repeat' (split at he)
  all_goals (injection he with he; subst he)
  with_reducible repeat' first
    | assumption | apply txnWrite_keeps (hK.sub rfl) | apply txnBad_keeps (hK.sub rfl) | intro _
    | apply runCommand_keeps (hK.sub rfl) | intro _ | apply keep_ite | split

theorem txnCommit_keeps {K : State → Prop}
    (hK : Free [.host, .pools, .ports, .clock, .routing, .traffic, .perf, .blocked, .drops, .out] K) {time : Nat}
    {t : Tok} {s : State} (h0 : K s) : K (txnCommit time t s) := by
  unfold txnCommit
  with_reducible repeat' first
    | assumption | apply txnBad_keeps (hK.sub rfl) | apply clearTxn_keeps (hK.sub rfl)
    | apply commitNow_keeps (hK.sub rfl) | (fail_if_no_progress refine Free.mk hK ?_ (Frame.only fun p hp => by
        cases p <;> first
          | exact absurd hp (by with_unfolding_all decide) | exact rfl | exact ⟨rfl, rfl, rfl, rfl, rfl⟩))
    | apply keep_ite | split

theorem execTxnCommit_keeps {K : State → Prop}
    (hK : Free [.host, .pools, .ports, .clock, .routing, .traffic, .perf, .blocked, .drops, .out] K)
    {sq : BitVec 8} {d : Desc} {s : State} (h0 : K s) {st1 : State} (he : execTxnCommit sq d s = .next st1) : K st1 := by
  unfold execTxnCommit at he
  repeat' (split at he)
  all_goals (injection he with he; subst he)
  with_reducible repeat' first
    | assumption | apply txnCommit_keeps (hK.sub rfl) | apply txnBad_keeps (hK.sub rfl) | intro _
    | apply runCommand_keeps (hK.sub rfl) | intro _ | apply keep_ite | split

theorem txnFrog_keeps {K : State → Prop} (hK : Free [.host, .routing, .blocked, .out] K) {t : Tok} {s : State}
    (h0 : K s) : K (txnFrog t s) := by
  unfold txnFrog
  with_reducible repeat' first
    | assumption | apply txnBad_keeps (hK.sub rfl) | apply ok_keeps (hK.sub rfl)
    | apply clearTxn_keeps (hK.sub rfl) | apply keep_ite | split

theorem execTxnFrog_keeps {K : State → Prop} (hK : Free [.host, .routing, .perf, .blocked, .out] K)
    {sq : BitVec 8} {d : Desc} {s : State} (h0 : K s) {st1 : State} (he : execTxnFrog sq d s = .next st1) : K st1 := by
  unfold execTxnFrog at he
  repeat' (split at he)
  all_goals (injection he with he; subst he)
  with_reducible repeat' first
    | assumption | apply txnFrog_keeps (hK.sub rfl) | apply txnBad_keeps (hK.sub rfl) | intro _
    | apply runCommand_keeps (hK.sub rfl) | intro _ | apply keep_ite | split

theorem settingRead_keeps {K : State → Prop} (hK : Free [.host, .blocked, .out] K) {a : Nat} {t : Tok}
    {s : State} (h0 : K s) : K (settingRead a t s) := by
  unfold settingRead
  with_reducible repeat' first
    | assumption | apply ok_keeps (hK.sub rfl) | apply txnBad_keeps (hK.sub rfl) | apply keep_ite | split

theorem execSettingRead_keeps {K : State → Prop} (hK : Free [.host, .perf, .blocked, .out] K) {sq : BitVec 8}
    {d : Desc} {s : State} (h0 : K s) {st1 : State} (he : execSettingRead sq d s = .next st1) : K st1 := by
  unfold execSettingRead at he
  repeat' (split at he)
  all_goals (injection he with he; subst he)
  with_reducible repeat' first
    | assumption | apply settingRead_keeps (hK.sub rfl) | apply txnBad_keeps (hK.sub rfl) | intro _
    | apply runCommand_keeps (hK.sub rfl) | intro _ | apply keep_ite | split

theorem loadBank_keeps {K : State → Prop} (hK : Free [.routing] K) {bank : Bool} {entries : List Nat}
    {s : State} (h0 : K s) : K (loadBank bank entries s) := by
  unfold loadBank
  try dsimp -proj only
  with_reducible repeat' first
    | assumption | (fail_if_no_progress refine Free.mk hK ?_ (Frame.only fun p hp => by
        cases p <;> first
          | exact absurd hp (by with_unfolding_all decide) | exact rfl | exact ⟨rfl, rfl, rfl, rfl, rfl⟩))

theorem routeLoad_keeps {K : State → Prop} (hK : Free [.host, .routing, .blocked, .out] K) {d : Desc}
    {h : HostRead} {t : Tok} {s : State} (h0 : K s) : K (routeLoad d h t s) := by
  unfold routeLoad
  try dsimp -proj only
  with_reducible repeat' first
    | assumption | apply txnBad_keeps (hK.sub rfl) | apply noteRead_keeps (hK.sub rfl)
    | apply ok_keeps (hK.sub rfl) | apply loadBank_keeps (hK.sub rfl) | apply keep_ite | split

theorem execRouteLoad_keeps {K : State → Prop} (hK : Free [.host, .routing, .perf, .blocked, .out] K)
    {sq : BitVec 8} {d : Desc} {host : HostRead} {s : State} (h0 : K s) {st1 : State}
    (he : execRouteLoad sq d host s = .next st1) : K st1 := by
  unfold execRouteLoad at he
  repeat' (split at he)
  all_goals (injection he with he; subst he)
  with_reducible repeat' first
    | assumption | apply routeLoad_keeps (hK.sub rfl) | apply txnBad_keeps (hK.sub rfl) | intro _
    | apply runCommand_keeps (hK.sub rfl) | intro _ | apply keep_ite | split

theorem allocShard_keeps {K : State → Prop} (hK : Free [.skeinMem, .hanks, .perf] K) {r : Record} {k : Nat} {owner : Bool} {s : State}
    (h0 : K s) {a'} {t' : State} (he : allocShard r k owner s = some (a', t')) : K t' := by
  unfold allocShard at he
  dsimp only at he
  refine keep_foldl_any (K := fun a : Option (Shard × State) => ∀ x, a = some x → K x.2) ?_ ?_ _ he
  · intro x e
    cases e
    exact h0
  · intro a x ha y e
    match a, ha with
    | none, _ => cases e
    | some (sh, u), ha =>
      dsimp only at e
      split at e
      · cases e
      · cases e
        exact allocArray_keeps (hK.sub rfl) (ha _ rfl) ‹_›

theorem keepShard_keeps {K : State → Prop} (hK : Free [.skeinMem, .hanks, .perf] K) {r : Record} {sh : Shard} {owner : Bool} {s : State}
    (h0 : K s) {a'} {t' : State} (he : keepShard r sh owner s = some (a', t')) : K t' := by
  unfold keepShard at he
  dsimp only at he
  refine keep_foldl_any (K := fun a : Option (Shard × State) => ∀ x, a = some x → K x.2) ?_ ?_ _ he
  · intro x e
    cases e
    refine keep_forEach h0 fun a s h => ?_
    split
    · exact h
    · exact setHank_keeps (hK.sub rfl) h
  · intro a x ha y e
    match a, ha with
    | none, _ => cases e
    | some (sh, u), ha =>
      obtain ⟨⟨hs, v⟩, e1, e2⟩ := Option.map_eq_some_iff.mp e
      cases e2
      exact allocArray_keeps (hK.sub rfl) (ha _ rfl) e1

theorem allocShards_keeps {K : State → Prop} (hK : Free [.skeinMem, .hanks, .perf] K) {r : Record} {kept : List Shard} {s : State}
    (h0 : K s) {a'} {t' : State} (he : allocShards r kept s = some (a', t')) : K t' := by
  unfold allocShards at he
  dsimp only at he
  refine keep_foldl_any (K := fun a : Option (List Shard × State) => ∀ x, a = some x → K x.2) ?_ ?_ _ he
  · intro x e
    cases e
    exact h0
  · intro a w ha y e
    match a, ha with
    | none, _ => cases e
    | some (l, u), ha =>
      obtain ⟨⟨sh, v⟩, e1, e2⟩ := Option.map_eq_some_iff.mp e
      cases e2
      split at e1
      · exact keepShard_keeps (hK.sub rfl) (ha _ rfl) e1
      · exact allocShard_keeps (hK.sub rfl) (ha _ rfl) e1

theorem reserveGroup_keeps {K : State → Prop} (hK : Free [.slots, .pools, .skeinMem, .hanks, .perf] K) {r : Record} {check : BitVec 64} {kept : List Shard}
    {s : State} (h0 : K s) {r1} {st1 : State} (he : reserveGroup r check kept s = some (r1, st1)) : K st1 := by
  have h1 : K (applyCarve s) := applyCarve_keeps (hK.sub rfl) h0
  unfold reserveGroup at he
  extract_lets insts short cells none' inCells at he
  split at he
  · cases he
  · have h2 : ∀ {x y}, inCells = some (x, y) → K y := by
      intro x y e
      simp only [inCells] at e
      split at e
      · cases e
        exact h0
      · split at e
        · cases e
          exact reserveCells_keeps (hK.sub rfl) h1 ‹_›
        · split at e
          · cases e
            exact h0
          · cases e
    clear_value inCells
    split at he
    · cases he
    · split at he
      · cases he
      · split at he
        · cases he
        · injection he with he
          injection he with _ he
          rw [← he]
          exact keep_forEach (allocShards_keeps (hK.sub rfl) (allocArray_keeps (hK.sub rfl) (h2 rfl) ‹_›) ‹_›)
            fun _ _ h => updSlot_keeps (hK.sub rfl) h

theorem freeBuffer_keeps {K : State → Prop} (hK : Free [.host, .pools, .perf, .blocked, .out] K) {b : Nat}
    {s : State} (h0 : K s) : K (freeBuffer b s) := by
  unfold freeBuffer
  try dsimp -proj only
  with_reducible repeat' first
    | assumption | apply freeCell_keeps (hK.sub rfl) | intro _ | apply keep_forEach | intro _
    | (fail_if_no_progress refine Free.mk hK ?_ (Frame.only fun p hp => by
        cases p <;> first
          | exact absurd hp (by with_unfolding_all decide) | exact rfl | exact ⟨rfl, rfl, rfl, rfl, rfl⟩))

theorem freeBuffers_keeps {K : State → Prop} (hK : Free [.host, .pools, .perf, .blocked, .out] K) {gid : Nat}
    {s : State} (h0 : K s) : K (freeBuffers gid s) := by
  unfold freeBuffers
  with_reducible repeat' first
    | assumption | apply freeBuffer_keeps (hK.sub rfl) | intro _ | apply keep_forEach | intro _

theorem releaseGroup_keeps {K : State → Prop}
    (hK : Free [.host, .slots, .pools, .hanks, .groups, .bed, .perf, .blocked, .out] K) {g : Group}
    {keep : List Nat} {s : State} (h0 : K s) : K (releaseGroup g keep s) := by
  unfold releaseGroup
  try dsimp -proj only
  with_reducible repeat' first
    | assumption | apply unreserveCells_keeps (hK.sub rfl) | apply freeBuffers_keeps (hK.sub rfl)
    | apply releaseHank_keeps (hK.sub rfl) | apply updSlot_keeps (hK.sub rfl) | intro _ | (unfold id; assumption)
    | apply keep_forEach | intro _ | (fail_if_no_progress refine Free.mk hK ?_ (Frame.only fun p hp => by
        cases p <;> first
          | exact absurd hp (by with_unfolding_all decide) | exact rfl | exact ⟨rfl, rfl, rfl, rfl, rfl⟩))

theorem setFlow_keeps {K : State → Prop} (hK : Free [.flows] K) {dst : Nat} {f : TxFlow} {s : State}
    (h0 : K s) : K (setFlow dst f s) := by
  unfold setFlow
  with_reducible repeat' first
    | assumption | (fail_if_no_progress refine Free.mk hK ?_ (Frame.only fun p hp => by
        cases p <;> first
          | exact absurd hp (by with_unfolding_all decide) | exact rfl | exact ⟨rfl, rfl, rfl, rfl, rfl⟩))

theorem pumpFlow_keeps {K : State → Prop}
    (hK : Free [.host, .pools, .ports, .routing, .traffic, .flows, .perf, .blocked, .drops, .out] K) {dst : Nat}
    {s : State} (h0 : K s) : K (pumpFlow dst s) := by
  unfold pumpFlow
  try dsimp -proj only
  with_reducible repeat' first
    | assumption | apply originateIn_keeps (hK.sub rfl) | apply setFlow_keeps (hK.sub rfl) | intro _
    | apply keep_forEach | intro _ | (fail_if_no_progress refine Free.mk hK ?_ (Frame.only fun p hp => by
        cases p <;> first
          | exact absurd hp (by with_unfolding_all decide) | exact rfl | exact ⟨rfl, rfl, rfl, rfl, rfl⟩))
    | apply keep_ite | split

theorem sendFlow_keeps {K : State → Prop}
    (hK : Free [.host, .pools, .ports, .routing, .traffic, .flows, .perf, .blocked, .drops, .out] K) {p : Packet}
    {cell : Option (Nat × Nat)} {why : Purpose} {s : State} (h0 : K s) : K (sendFlow p cell why s) := by
  unfold sendFlow
  try dsimp -proj only
  with_reducible repeat' first
    | assumption | apply pumpFlow_keeps (hK.sub rfl) | apply setFlow_keeps (hK.sub rfl)
    | (fail_if_no_progress refine Free.mk hK ?_ (Frame.only fun p hp => by
        cases p <;> first
          | exact absurd hp (by with_unfolding_all decide) | exact rfl | exact ⟨rfl, rfl, rfl, rfl, rfl⟩))

theorem resendNow_keeps {K : State → Prop}
    (hK : Free [.host, .pools, .ports, .routing, .traffic, .flows, .perf, .blocked, .drops, .out] K) {dst : Nat}
    {seq : BitVec 32} {s : State} (h0 : K s) : K (resendNow dst seq s) := by
  unfold resendNow
  try dsimp -proj only
  with_reducible repeat' first
    | assumption | apply originate_keeps (hK.sub rfl) | apply setFlow_keeps (hK.sub rfl)
    | (fail_if_no_progress refine Free.mk hK ?_ (Frame.only fun p hp => by
        cases p <;> first
          | exact absurd hp (by with_unfolding_all decide) | exact rfl | exact ⟨rfl, rfl, rfl, rfl, rfl⟩)) | split

theorem reportRefused_keeps {K : State → Prop} (hK : Free [.flows] K) {p : Packet} {code : Nat} {s : State}
    (h0 : K s) : K (reportRefused p code s) := by
  unfold reportRefused
  with_reducible repeat' first
    | assumption | (fail_if_no_progress refine Free.mk hK ?_ (Frame.only fun p hp => by
        cases p <;> first
          | exact absurd hp (by with_unfolding_all decide) | exact rfl | exact ⟨rfl, rfl, rfl, rfl, rfl⟩))

theorem updTx_keeps {K : State → Prop} (hK : Free [.flows] K) {dst : Nat} {seq : BitVec 32} {g : TxPkt → TxPkt}
    {s : State} (h0 : K s) : K (updTx dst seq g s) := by
  unfold updTx
  with_reducible repeat' first
    | assumption | apply setFlow_keeps (hK.sub rfl)
    | (fail_if_no_progress refine Free.mk hK ?_ (Frame.only fun p hp => by
        cases p <;> first
          | exact absurd hp (by with_unfolding_all decide) | exact rfl | exact ⟨rfl, rfl, rfl, rfl, rfl⟩)) | split

theorem freeUnsent_keeps {K : State → Prop} (hK : Free [.host, .pools, .perf, .blocked, .out] K)
    {l : List TxPkt} {s : State} (h0 : K s) : K (freeUnsent l s) := by
  unfold freeUnsent
  with_reducible repeat' first
    | assumption | apply freeCell_keeps (hK.sub rfl) | intro _ | apply keep_forEach | intro _

theorem dropTx_keeps {K : State → Prop} (hK : Free [.host, .pools, .flows, .perf, .blocked, .out] K)
    {dst : Nat} {seq : BitVec 32} {s : State} (h0 : K s) : K (dropTx dst seq s) := by
  unfold dropTx
  with_reducible repeat' first
    | assumption | apply setFlow_keeps (hK.sub rfl) | apply freeUnsent_keeps (hK.sub rfl)
    | (fail_if_no_progress refine Free.mk hK ?_ (Frame.only fun p hp => by
        cases p <;> first
          | exact absurd hp (by with_unfolding_all decide) | exact rfl | exact ⟨rfl, rfl, rfl, rfl, rfl⟩)) | split

theorem renewFlow_keeps {K : State → Prop}
    (hK : Free [.host, .pools, .ports, .routing, .traffic, .flows, .perf, .blocked, .drops, .out] K) {dst : Nat}
    {s : State} (h0 : K s) : K (renewFlow dst s) := by
  unfold renewFlow
  try dsimp -proj only
  with_reducible repeat' first
    | assumption | apply pumpFlow_keeps (hK.sub rfl) | apply setFlow_keeps (hK.sub rfl)
    | (fail_if_no_progress refine Free.mk hK ?_ (Frame.only fun p hp => by
        cases p <;> first
          | exact absurd hp (by with_unfolding_all decide) | exact rfl | exact ⟨rfl, rfl, rfl, rfl, rfl⟩)) | split

theorem setRx_keeps {K : State → Prop} (hK : Free [.flows] K) {key : Nat} {f : RxFlow} {s : State} (h0 : K s) :
    K (setRx key f s) := by
  unfold setRx
  with_reducible repeat' first
    | assumption | (fail_if_no_progress refine Free.mk hK ?_ (Frame.only fun p hp => by
        cases p <;> first
          | exact absurd hp (by with_unfolding_all decide) | exact rfl | exact ⟨rfl, rfl, rfl, rfl, rfl⟩))

theorem sendAck_keeps {K : State → Prop}
    (hK : Free [.host, .pools, .ports, .routing, .traffic, .perf, .blocked, .drops, .out] K) {p : Packet}
    {seq : Nat} {f : RxFlow} {s : State} (h0 : K s) : K (sendAck p seq f s) := by
  unfold sendAck
  with_reducible repeat' first
    | assumption | apply sendCtl_keeps (hK.sub rfl)

theorem execFlowStateExpiry_keeps {K : State → Prop} (hK : Free [.flows] K) {src : BitVec 16} {s : State}
    (h0 : K s) {st1 : State} (he : execFlowStateExpiry src s = .next st1) : K st1 := by
  unfold execFlowStateExpiry at he
  repeat' (split at he)
  all_goals (injection he with he; subst he)
  with_reducible repeat' first
    | assumption | (fail_if_no_progress refine Free.mk hK ?_ (Frame.only fun p hp => by
        cases p <;> first
          | exact absurd hp (by with_unfolding_all decide) | exact rfl | exact ⟨rfl, rfl, rfl, rfl, rfl⟩))

theorem resendTimeout_keeps {K : State → Prop}
    (hK : Free [.host, .pools, .ports, .routing, .traffic, .flows, .perf, .blocked, .drops, .out] K) {dst : Nat}
    {seq : BitVec 32} {s : State} (h0 : K s) : K (resendTimeout dst seq s) := by
  unfold resendTimeout
  with_reducible repeat' first
    | assumption | apply resendNow_keeps (hK.sub rfl) | apply keep_ite | split

theorem execResendTimeout_keeps {K : State → Prop}
    (hK : Free [.host, .pools, .ports, .routing, .traffic, .flows, .perf, .blocked, .drops, .out] K)
    {dst : BitVec 16} {seq : BitVec 32} {s : State} (h0 : K s) {st1 : State}
    (he : execResendTimeout dst seq s = .next st1) : K st1 := by
  unfold execResendTimeout at he
  repeat' (split at he)
  all_goals (injection he with he; subst he)
  with_reducible repeat' first
    | assumption | apply resendTimeout_keeps (hK.sub rfl)

theorem countSlots_keeps {K : State → Prop} (hK : Free [.slotCounts] K) {retired : Nat} {busy : Nat}
    {front : Nat} {back : Nat} {s : State} (h0 : K s) : K (countSlots retired busy front back s) := by
  unfold countSlots
  try dsimp -proj only
  with_reducible repeat' first
    | assumption | (fail_if_no_progress refine Free.mk hK ?_ (Frame.only fun p hp => by
        cases p <;> first
          | exact absurd hp (by with_unfolding_all decide) | exact rfl | exact ⟨rfl, rfl, rfl, rfl, rfl⟩))

theorem tickRails_keeps {K : State → Prop} (hK : Free [.power] K) {s : State} (h0 : K s) : K (tickRails s) := by
  unfold tickRails
  try dsimp -proj only
  with_reducible repeat' first
    | assumption | (fail_if_no_progress refine Free.mk hK ?_ (Frame.only fun p hp => by
        cases p <;> first
          | exact absurd hp (by with_unfolding_all decide) | exact rfl | exact ⟨rfl, rfl, rfl, rfl, rfl⟩))
    | apply keep_ite | split

theorem tickHandshakes_keeps {K : State → Prop} (hK : Free [.bed, .perf, .slotCounts] K) {s : State}
    (h0 : K s) : K (tickHandshakes s) := by
  unfold tickHandshakes
  try dsimp -proj only
  with_reducible repeat' first
    | assumption | apply countSlots_keeps (hK.sub rfl)
    | (fail_if_no_progress refine Free.mk hK ?_ (Frame.only fun p hp => by
        cases p <;> first
          | exact absurd hp (by with_unfolding_all decide) | exact rfl | exact ⟨rfl, rfl, rfl, rfl, rfl⟩))
    | apply keep_ite | split

theorem applySelectors_keeps {K : State → Prop} (hK : Free [.perf] K) {s : State} (h0 : K s) :
    K (applySelectors s) := by
  unfold applySelectors
  try dsimp -proj only
  with_reducible repeat' first
    | assumption | apply keep_foldl | apply keep_foldl_fst | intro _
    | (fail_if_no_progress refine Free.mk hK ?_ (Frame.only fun p hp => by
        cases p <;> first
          | exact absurd hp (by with_unfolding_all decide) | exact rfl | exact ⟨rfl, rfl, rfl, rfl, rfl⟩))

theorem tickRate_keeps {K : State → Prop} (hK : Free [.perf] K) {old : Nat} {s : State} (h0 : K s) :
    K (tickRate old s) := by
  unfold tickRate
  with_reducible repeat' first
    | assumption | (fail_if_no_progress refine Free.mk hK ?_ (Frame.only fun p hp => by
        cases p <;> first
          | exact absurd hp (by with_unfolding_all decide) | exact rfl | exact ⟨rfl, rfl, rfl, rfl, rfl⟩))
    | apply keep_ite | split

theorem rowRead_keeps {K : State → Prop} (hK : Free [.host, .blocked, .out] K) {d : Desc} {t : Tok} {s : State}
    (h0 : K s) : K (rowRead d t s) := by
  unfold rowRead
  with_reducible repeat' first
    | assumption | apply ok_keeps (hK.sub rfl)

theorem execRowRead_keeps {K : State → Prop} (hK : Free [.host, .perf, .blocked, .out] K) {sq : BitVec 8}
    {d : Desc} {s : State} (h0 : K s) {st1 : State} (he : execRowRead sq d s = .next st1) : K st1 := by
  unfold execRowRead at he
  repeat' (split at he)
  all_goals (injection he with he; subst he)
  with_reducible repeat' first
    | assumption | apply rowRead_keeps (hK.sub rfl) | apply bad_keeps (hK.sub rfl) | intro _
    | apply runCommand_keeps (hK.sub rfl) | intro _ | apply keep_ite | split

theorem rowWait_keeps {K : State → Prop} (hK : Free [.host, .rows, .blocked, .out] K) {d : Desc} {t : Tok}
    {s : State} (h0 : K s) : K (rowWait d t s) := by
  unfold rowWait
  try dsimp -proj only
  with_reducible repeat' first
    | assumption | apply ok_keeps (hK.sub rfl) | apply bad_keeps (hK.sub rfl)
    | (fail_if_no_progress refine Free.mk hK ?_ (Frame.only fun p hp => by
        cases p <;> first
          | exact absurd hp (by with_unfolding_all decide) | exact rfl | exact ⟨rfl, rfl, rfl, rfl, rfl⟩))
    | apply keep_ite | split

theorem execRowWait_keeps {K : State → Prop} (hK : Free [.host, .rows, .perf, .blocked, .out] K)
    {sq : BitVec 8} {d : Desc} {s : State} (h0 : K s) {st1 : State} (he : execRowWait sq d s = .next st1) : K st1 := by
  unfold execRowWait at he
  repeat' (split at he)
  all_goals (injection he with he; subst he)
  with_reducible repeat' first
    | assumption | apply rowWait_keeps (hK.sub rfl) | apply bad_keeps (hK.sub rfl) | intro _
    | apply runCommand_keeps (hK.sub rfl) | intro _ | apply keep_ite | split

theorem rowAdd_keeps {K : State → Prop}
    (hK : Free [.host, .rows, .pools, .ports, .routing, .traffic, .perf, .blocked, .drops, .out] K) {d : Desc}
    {t : Tok} {s : State} (h0 : K s) : K (rowAdd d t s) := by
  unfold rowAdd
  try dsimp -proj only
  with_reducible repeat' first
    | assumption | apply addRow_keeps (hK.sub rfl) | apply ok_keeps (hK.sub rfl)

theorem execRowAdd_keeps {K : State → Prop}
    (hK : Free [.host, .rows, .pools, .ports, .routing, .traffic, .perf, .blocked, .drops, .out] K) {sq : BitVec 8}
    {d : Desc} {s : State} (h0 : K s) {st1 : State} (he : execRowAdd sq d s = .next st1) : K st1 := by
  unfold execRowAdd at he
  repeat' (split at he)
  all_goals (injection he with he; subst he)
  with_reducible repeat' first
    | assumption | apply rowAdd_keeps (hK.sub rfl) | apply bad_keeps (hK.sub rfl) | intro _
    | apply runCommand_keeps (hK.sub rfl) | intro _ | apply keep_ite | split

theorem rowWaitPkt_keeps {K : State → Prop}
    (hK : Free [.host, .rows, .pools, .ports, .routing, .traffic, .perf, .blocked, .drops, .out] K) {p : Packet}
    {s : State} (h0 : K s) : K (rowWaitPkt p s) := by
  unfold rowWaitPkt
  try dsimp -proj only
  with_reducible repeat' first
    | assumption | apply rowNotify_keeps (hK.sub rfl)
    | (fail_if_no_progress refine Free.mk hK ?_ (Frame.only fun p hp => by
        cases p <;> first
          | exact absurd hp (by with_unfolding_all decide) | exact rfl | exact ⟨rfl, rfl, rfl, rfl, rfl⟩))
    | apply keep_ite | split

theorem execRowWaitPkt_keeps {K : State → Prop}
    (hK : Free [.host, .rows, .pools, .ports, .routing, .traffic, .perf, .blocked, .drops, .out] K) {p : Packet}
    {s : State} (h0 : K s) {st1 : State} (he : execRowWaitPkt p s = .next st1) : K st1 := by
  unfold execRowWaitPkt at he
  repeat' (split at he)
  all_goals (injection he with he; subst he)
  with_reducible repeat' first
    | assumption | apply rowWaitPkt_keeps (hK.sub rfl) | apply consume_keeps (hK.sub rfl)

end Sys2Proof.Machine
end

