-- ==== Sys2Proof/Laws/FrameCollective.lean ====
section
/-!
SUPPORT. Frames, of collectives, shards and stitches: for each
function, the parts of the state it may change; a property free of them is kept.
-/
set_option linter.unusedVariables false
set_option linter.unusedTactic false
set_option linter.unreachableTactic false

namespace Sys2Proof.Machine

theorem updInst_keeps {K : State → Prop} (hK : Free [.groups] K) {gid : Nat} {k : Nat × Option Nat}
    {f : Inst → Inst} {s : State} (h0 : K s) : K (updInst gid k f s) := by
  unfold updInst
  with_reducible repeat' first
    | assumption | apply updGroup_keeps (hK.sub rfl)
    | (fail_if_no_progress refine Free.mk hK ?_ (Frame.only fun p hp => by
        cases p <;> first
          | exact absurd hp (by with_unfolding_all decide) | exact rfl | exact ⟨rfl, rfl, rfl, rfl, rfl⟩))

theorem updOp_keeps {K : State → Prop} (hK : Free [.groups] K) {gid : Nat} {seq : Nat} {f : Op → Op}
    {s : State} (h0 : K s) : K (updOp gid seq f s) := by
  unfold updOp
  with_reducible repeat' first
    | assumption | apply updGroup_keeps (hK.sub rfl)
    | (fail_if_no_progress refine Free.mk hK ?_ (Frame.only fun p hp => by
        cases p <;> first
          | exact absurd hp (by with_unfolding_all decide) | exact rfl | exact ⟨rfl, rfl, rfl, rfl, rfl⟩))

theorem sendCredits_keeps {K : State → Prop}
    (hK : Free [.host, .pools, .groups, .ports, .routing, .traffic, .perf, .blocked, .drops, .out] K) {gid : Nat}
    {k : Nat × Option Nat} {s : State} (h0 : K s) : K (sendCredits gid k s) := by
  unfold sendCredits
  with_reducible repeat' first
    | assumption | apply updInst_keeps (hK.sub rfl) | apply sendCtl_keeps (hK.sub rfl) | intro _
    | apply keep_forEach | intro _ | (fail_if_no_progress refine Free.mk hK ?_ (Frame.only fun p hp => by
        cases p <;> first
          | exact absurd hp (by with_unfolding_all decide) | exact rfl | exact ⟨rfl, rfl, rfl, rfl, rfl⟩))
    | apply keep_ite | split

theorem advanceBase_keeps {K : State → Prop}
    (hK : Free [.host, .pools, .groups, .ports, .routing, .traffic, .perf, .blocked, .drops, .out] K) {gid : Nat}
    {k : Nat × Option Nat} {s : State} (h0 : K s) : K (advanceBase gid k s) := by
  unfold advanceBase
  try dsimp -proj only
  with_reducible repeat' first
    | assumption | apply sendCredits_keeps (hK.sub rfl) | apply updInst_keeps (hK.sub rfl)
    | (fail_if_no_progress refine Free.mk hK ?_ (Frame.only fun p hp => by
        cases p <;> first
          | exact absurd hp (by with_unfolding_all decide) | exact rfl | exact ⟨rfl, rfl, rfl, rfl, rfl⟩))
    | apply keep_ite | split

theorem markDone_keeps {K : State → Prop}
    (hK : Free [.host, .pools, .groups, .ports, .routing, .traffic, .perf, .blocked, .drops, .out] K) {gid : Nat}
    {k : Nat × Option Nat} {op : Op} {c : Nat} {s : State} (h0 : K s) : K (markDone gid k op c s) := by
  unfold markDone
  with_reducible repeat' first
    | assumption | apply advanceBase_keeps (hK.sub rfl) | apply updInst_keeps (hK.sub rfl)
    | (fail_if_no_progress refine Free.mk hK ?_ (Frame.only fun p hp => by
        cases p <;> first
          | exact absurd hp (by with_unfolding_all decide) | exact rfl | exact ⟨rfl, rfl, rfl, rfl, rfl⟩))
    | apply keep_ite | split

theorem popReserved_keeps {K : State → Prop} (hK : Free [.host, .pools, .perf, .blocked, .out] K) {pool : Nat} : ∀ {k : Nat} {s : State}, K s →
    ∀ {r1} {st1 : State}, popReserved pool k s = (r1, st1) → K st1 := by
  intro k
  induction k with
  | zero => intro s h0 r1 st1 he; cases he; exact h0
  | succ k ih =>
    intro s h0 r1 st1 he
    unfold popReserved at he
    split at he
    · cases he
      exact ih (allocReserved_keeps (hK.sub rfl) h0 ‹_›) rfl
    · cases he
      exact h0

theorem popCells_keeps {K : State → Prop} (hK : Free [.host, .pools, .perf, .blocked, .out] K) {g : Group} {s : State} (h0 : K s) {r1}
    {st1 : State} (he : popCells g s = (r1, st1)) : K st1 := by
  unfold popCells at he
  split at he
  · cases he
    exact h0
  · have h1 : K ((List.range 4).foldl (fun (a : List (Nat × Nat) × State) p =>
        let (l, s) := popReserved p ((bufferCells g.record.maxChunk).getD p 0) a.2
        (a.1 ++ l, s)) ([], s)).2 :=
      keep_foldl_any (K := fun a : List (Nat × Nat) × State => K a.2) h0 fun a p h => popReserved_keeps hK h rfl
    rw [he] at h1
    exact h1

theorem takeBuffer_keeps {K : State → Prop} (hK : Free [.host, .pools, .perf, .blocked, .out] K) {g : Group}
    {holders : Nat} {s : State} (h0 : K s) {r1} {st1 : State} (he : takeBuffer g holders s = (r1, st1)) : K st1 := by
  unfold takeBuffer at he
  try dsimp -proj only at he
  repeat' (split at he)
  all_goals (try first | contradiction | cases he)
  try dsimp -proj only
  with_reducible repeat' first
    | assumption | refine popCells_keeps (hK.sub rfl) ?_ (by first | assumption | rfl)
    | (fail_if_no_progress refine Free.mk hK ?_ (Frame.only fun p hp => by
        cases p <;> first
          | exact absurd hp (by with_unfolding_all decide) | exact rfl | exact ⟨rfl, rfl, rfl, rfl, rfl⟩))
    | apply keep_ite | split

theorem takeBuffers_keeps {K : State → Prop} (hK : Free [.host, .pools, .perf, .blocked, .out] K) {g : Group} : ∀ {k : Nat} {s : State}, K s →
    ∀ {r1} {st1 : State}, takeBuffers g k s = (r1, st1) → K st1 := by
  intro k
  induction k with
  | zero => intro s h0 r1 st1 he; cases he; exact h0
  | succ k ih =>
    intro s h0 r1 st1 he
    unfold takeBuffers at he
    cases he
    exact ih (takeBuffer_keeps hK h0 rfl) rfl

theorem releaseHolder_keeps {K : State → Prop} (hK : Free [.host, .pools, .perf, .blocked, .out] K) {b : Nat}
    {s : State} (h0 : K s) : K (releaseHolder b s) := by
  unfold releaseHolder
  try dsimp -proj only
  with_reducible repeat' first
    | assumption | apply doubleFree_keeps (hK.sub rfl) | apply freeBuffer_keeps (hK.sub rfl)
    | (fail_if_no_progress refine Free.mk hK ?_ (Frame.only fun p hp => by
        cases p <;> first
          | exact absurd hp (by with_unfolding_all decide) | exact rfl | exact ⟨rfl, rfl, rfl, rfl, rfl⟩))
    | apply keep_ite | split

theorem setHolders_keeps {K : State → Prop} (hK : Free [.pools] K) {b : Nat} {n : Nat} {s : State} (h0 : K s) :
    K (setHolders b n s) := by
  unfold setHolders
  try dsimp -proj only
  with_reducible repeat' first
    | assumption | (fail_if_no_progress refine Free.mk hK ?_ (Frame.only fun p hp => by
        cases p <;> first
          | exact absurd hp (by with_unfolding_all decide) | exact rfl | exact ⟨rfl, rfl, rfl, rfl, rfl⟩))

theorem countStaged_keeps {K : State → Prop} (hK : Free [.perf] K) {g : Group} {code : Nat} {b : Nat}
    {off : Nat} {n : Nat} {s : State} (h0 : K s) : K (countStaged g code b off n s) := by
  unfold countStaged
  with_reducible repeat' first
    | assumption | apply count_keeps (hK.sub rfl) | intro _ | apply keep_forEach | intro _ | apply keep_ite | split

theorem sendPackets_keeps {K : State → Prop}
    (hK : Free [.host, .pools, .ports, .routing, .traffic, .perf, .blocked, .drops, .out] K) {t : Transfer}
    {s : State} (h0 : K s) : K (sendPackets t s) := by
  unfold sendPackets
  with_reducible repeat' first
    | assumption | apply originateOwn_keeps (hK.sub rfl) | intro _ | apply keep_forEach | intro _ | apply keep_ite
    | split

theorem updTransfer_keeps {K : State → Prop} (hK : Free [.groups] K) {gid : Nat} {t : Transfer}
    {f : Transfer → Transfer} {s : State} (h0 : K s) : K (updTransfer gid t f s) := by
  unfold updTransfer
  with_reducible repeat' first
    | assumption | apply updGroup_keeps (hK.sub rfl)
    | (fail_if_no_progress refine Free.mk hK ?_ (Frame.only fun p hp => by
        cases p <;> first
          | exact absurd hp (by with_unfolding_all decide) | exact rfl | exact ⟨rfl, rfl, rfl, rfl, rfl⟩))

theorem putInBuffer_keeps {K : State → Prop} (hK : Free [.pools, .groups] K) {gid : Nat} {b : Nat}
    {t : Transfer} {s : State} (h0 : K s) : K (putInBuffer gid b t s) := by
  unfold putInBuffer
  try dsimp -proj only
  with_reducible repeat' first
    | assumption | apply setHolders_keeps (hK.sub rfl) | apply updGroup_keeps (hK.sub rfl)
    | (fail_if_no_progress refine Free.mk hK ?_ (Frame.only fun p hp => by
        cases p <;> first
          | exact absurd hp (by with_unfolding_all decide) | exact rfl | exact ⟨rfl, rfl, rfl, rfl, rfl⟩))
    | apply keep_ite | split

theorem countResult_keeps {K : State → Prop} (hK : Free [.perf] K) {g : Group} {b : Nat} {bytes : Nat}
    {s : State} (h0 : K s) : K (countResult g b bytes s) := by
  unfold countResult
  with_reducible repeat' first
    | assumption | apply countStaged_keeps (hK.sub rfl)

theorem giveBuffer_keeps {K : State → Prop} (hK : Free [.host, .pools, .groups, .perf, .blocked, .out] K)
    {g : Group} {t : Transfer} {s : State} (h0 : K s) : K (giveBuffer g t s) := by
  unfold giveBuffer
  try dsimp -proj only
  with_reducible repeat' first
    | assumption | refine takeBuffer_keeps (hK.sub rfl) ?_ (by first | assumption | rfl)
    | apply countResult_keeps (hK.sub rfl) | apply putInBuffer_keeps (hK.sub rfl) | apply keep_ite | split

theorem flushTransfers_keeps {K : State → Prop}
    (hK : Free [.host, .pools, .groups, .ports, .routing, .traffic, .perf, .blocked, .drops, .out] K) {gid : Nat}
    {s : State} (h0 : K s) : K (flushTransfers gid s) := by
  unfold flushTransfers
  try dsimp -proj only
  with_reducible repeat' first
    | assumption | apply giveBuffer_keeps (hK.sub rfl) | apply sendPackets_keeps (hK.sub rfl)
    | apply updTransfer_keeps (hK.sub rfl) | intro _ | apply keep_forEach | intro _
    | (fail_if_no_progress refine Free.mk hK ?_ (Frame.only fun p hp => by
        cases p <;> first
          | exact absurd hp (by with_unfolding_all decide) | exact rfl | exact ⟨rfl, rfl, rfl, rfl, rfl⟩))
    | apply keep_ite | split

theorem dropTransfer_keeps {K : State → Prop} (hK : Free [.host, .pools, .groups, .perf, .blocked, .out] K)
    {gid : Nat} {t : Transfer} {s : State} (h0 : K s) : K (dropTransfer gid t s) := by
  unfold dropTransfer
  try dsimp -proj only
  with_reducible repeat' first
    | assumption | apply updGroup_keeps (hK.sub rfl) | apply releaseHolder_keeps (hK.sub rfl)
    | (fail_if_no_progress refine Free.mk hK ?_ (Frame.only fun p hp => by
        cases p <;> first
          | exact absurd hp (by with_unfolding_all decide) | exact rfl | exact ⟨rfl, rfl, rfl, rfl, rfl⟩))
    | apply keep_ite | split

theorem addTransfers_keeps {K : State → Prop}
    (hK : Free [.host, .pools, .groups, .ports, .routing, .traffic, .perf, .blocked, .drops, .out] K) {gid : Nat}
    {src : Option Nat} {ts : List Transfer} {s : State} (h0 : K s) : K (addTransfers gid src ts s) := by
  unfold addTransfers
  try dsimp -proj only
  with_reducible repeat' first
    | assumption | apply dropTransfer_keeps (hK.sub rfl) | apply updGroup_keeps (hK.sub rfl)
    | apply releaseHolder_keeps (hK.sub rfl) | apply putInBuffer_keeps (hK.sub rfl)
    | apply flushTransfers_keeps (hK.sub rfl) | intro _ | apply keep_forEach | intro _
    | (fail_if_no_progress refine Free.mk hK ?_ (Frame.only fun p hp => by
        cases p <;> first
          | exact absurd hp (by with_unfolding_all decide) | exact rfl | exact ⟨rfl, rfl, rfl, rfl, rfl⟩)) | split

theorem sendUp_keeps {K : State → Prop}
    (hK : Free [.host, .pools, .groups, .ports, .routing, .traffic, .perf, .blocked, .drops, .out] K) {g : Group}
    {op : Op} {i : Inst} {c : Nat} {attempt : Nat} {fl : BitVec 6} {bs : List Byte} {src : Option Nat} {s : State}
    (h0 : K s) : K (sendUp g op i c attempt fl bs src s) := by
  unfold sendUp
  try dsimp -proj only
  with_reducible repeat' first
    | assumption | apply addTransfers_keeps (hK.sub rfl) | apply keep_ite | split

theorem sendDown_keeps {K : State → Prop}
    (hK : Free [.host, .pools, .groups, .ports, .routing, .traffic, .perf, .blocked, .drops, .out] K) {g : Group}
    {op : Op} {i : Inst} {c : Nat} {fmt : Nat} {fl : BitVec 6} {bs : List Byte} {src : Option Nat} {s : State}
    (h0 : K s) : K (sendDown g op i c fmt fl bs src s) := by
  unfold sendDown
  try dsimp -proj only
  with_reducible repeat' first
    | assumption | apply updOp_keeps (hK.sub rfl) | apply addTransfers_keeps (hK.sub rfl)
    | (fail_if_no_progress refine Free.mk hK ?_ (Frame.only fun p hp => by
        cases p <;> first
          | exact absurd hp (by with_unfolding_all decide) | exact rfl | exact ⟨rfl, rfl, rfl, rfl, rfl⟩))
    | apply keep_ite | split

theorem foldChunk_keeps {K : State → Prop} (hK : Free [.groups] K) {g : Group} {op : Op} {c : Nat}
    {outs : List (Nat × List Byte)} {s : State} (h0 : K s) : K (foldChunk g op c outs s) := by
  unfold foldChunk
  try dsimp -proj only
  with_reducible repeat' first
    | assumption | apply updOp_keeps (hK.sub rfl)
    | (fail_if_no_progress refine Free.mk hK ?_ (Frame.only fun p hp => by
        cases p <;> first
          | exact absurd hp (by with_unfolding_all decide) | exact rfl | exact ⟨rfl, rfl, rfl, rfl, rfl⟩))
    | apply keep_ite | split

theorem foldInput_keeps {K : State → Prop} (hK : Free [.groups] K) {g : Group} {op : Op} {pos : Nat} {c : Nat}
    {bs : List Byte} {s : State} (h0 : K s) : K (foldInput g op pos c bs s) := by
  unfold foldInput
  try dsimp -proj only
  with_reducible repeat' first
    | assumption | apply updOp_keeps (hK.sub rfl)
    | (fail_if_no_progress refine Free.mk hK ?_ (Frame.only fun p hp => by
        cases p <;> first
          | exact absurd hp (by with_unfolding_all decide) | exact rfl | exact ⟨rfl, rfl, rfl, rfl, rfl⟩))
    | apply keep_ite | split

theorem phaseX_keeps {K : State → Prop}
    (hK : Free [.host, .pools, .groups, .ports, .routing, .traffic, .perf, .blocked, .drops, .out] K) {g : Group}
    {op : Op} {i : Inst} {c : Nat} {src : Spec} {own : Bool} {fl : BitVec 6} {bs : List Byte} {s : State}
    (h0 : K s) : K (phaseX g op i c src own fl bs s) := by
  unfold phaseX
  try dsimp -proj only
  with_reducible repeat' first
    | assumption | apply updOp_keeps (hK.sub rfl) | apply foldChunk_keeps (hK.sub rfl)
    | apply sendDown_keeps (hK.sub rfl) | intro _ | (unfold id; assumption) | apply keep_forEach | intro _
    | (fail_if_no_progress refine Free.mk hK ?_ (Frame.only fun p hp => by
        cases p <;> first
          | exact absurd hp (by with_unfolding_all decide) | exact rfl | exact ⟨rfl, rfl, rfl, rfl, rfl⟩)) | split

theorem updShard_keeps {K : State → Prop} (hK : Free [.groups] K) {gid : Nat} {k : Nat} {f : Shard → Shard}
    {s : State} (h0 : K s) : K (updShard gid k f s) := by
  unfold updShard
  with_reducible repeat' first
    | assumption | apply updGroup_keeps (hK.sub rfl)
    | (fail_if_no_progress refine Free.mk hK ?_ (Frame.only fun p hp => by
        cases p <;> first
          | exact absurd hp (by with_unfolding_all decide) | exact rfl | exact ⟨rfl, rfl, rfl, rfl, rfl⟩))

theorem copyHank_keeps {K : State → Prop} (hK : Free [.skeinMem, .hanks, .groups, .perf] K) {h : Nat}
    {s : State} (h0 : K s) : K (copyHank h s) := by
  unfold copyHank
  try dsimp -proj only
  with_reducible repeat' first
    | assumption | apply count_keeps (hK.sub rfl)
    | (fail_if_no_progress refine Free.mk hK ?_ (Frame.only fun p hp => by
        cases p <;> first
          | exact absurd hp (by with_unfolding_all decide) | exact rfl | exact ⟨rfl, rfl, rfl, rfl, rfl⟩))
    | apply keep_ite | split

theorem guardedWrite_keeps {K : State → Prop} (hK : Free [.skeinMem, .hanks, .groups, .perf] K) {priv : Nat}
    {hanks : List Nat} {o : Nat} {bs : List Byte} {s : State} (h0 : K s) : K (guardedWrite priv hanks o bs s) := by
  unfold guardedWrite
  try dsimp -proj only
  with_reducible repeat' first
    | assumption | apply copyHank_keeps (hK.sub rfl) | apply countSkein_keeps (hK.sub rfl)
    | apply arrayWrite_keeps (hK.sub rfl) | intro _ | apply keep_forEach | intro _

theorem liftSecure_keeps {K : State → Prop} (hK : Free [.hanks, .groups] K) {gid : Nat} {s : State}
    (h0 : K s) : K (liftSecure gid s) := by
  unfold liftSecure
  try dsimp -proj only
  with_reducible repeat' first
    | assumption | apply releaseHank_keeps (hK.sub rfl) | apply updGroup_keeps (hK.sub rfl) | intro _
    | apply keep_forEach | intro _ | (fail_if_no_progress refine Free.mk hK ?_ (Frame.only fun p hp => by
        cases p <;> first
          | exact absurd hp (by with_unfolding_all decide) | exact rfl | exact ⟨rfl, rfl, rfl, rfl, rfl⟩)) | split

theorem reserveSnapshots_keeps {K : State → Prop} (hK : Free [.hanks] K) : ∀ {l : List Nat} {s : State}, K s →
    ∀ {r1} {st1 : State}, reserveSnapshots l s = some (r1, st1) → K st1 := by
  intro l
  induction l with
  | nil => intro s h0 r1 st1 he; cases he; exact h0
  | cons h l ih =>
    intro s h0 r1 st1 he
    unfold reserveSnapshots at he
    split at he
    · cases he
    · obtain ⟨q, e1, e2⟩ := Option.map_eq_some_iff.mp he
      cases e2
      exact ih (setHank_keeps (hK.sub rfl) h0) e1

theorem takeSecure_keeps {K : State → Prop} (hK : Free [.host, .hanks, .groups, .blocked, .out] K) {gid : Nat}
    {s : State} (h0 : K s) : K (takeSecure gid s) := by
  unfold takeSecure
  try dsimp -proj only
  with_reducible repeat' first
    | assumption | apply updGroup_keeps (hK.sub rfl)
    | refine reserveSnapshots_keeps (hK.sub rfl) ?_ (by first | assumption | rfl)
    | apply postEvent_keeps (hK.sub rfl) | apply liftSecure_keeps (hK.sub rfl)
    | (fail_if_no_progress refine Free.mk hK ?_ (Frame.only fun p hp => by
        cases p <;> first
          | exact absurd hp (by with_unfolding_all decide) | exact rfl | exact ⟨rfl, rfl, rfl, rfl, rfl⟩)) | split

theorem secureAtFlip_keeps {K : State → Prop} (hK : Free [.host, .hanks, .groups, .blocked, .out] K)
    {gid : Nat} {step : Nat} {s : State} (h0 : K s) : K (secureAtFlip gid step s) := by
  unfold secureAtFlip
  try dsimp -proj only
  with_reducible repeat' first
    | assumption | apply takeSecure_keeps (hK.sub rfl) | apply keep_ite | split

theorem secureCheck_keeps {K : State → Prop} (hK : Free [.host, .hanks, .groups, .blocked, .out] K) {gid : Nat}
    {s : State} (h0 : K s) : K (secureCheck gid s) := by
  unfold secureCheck
  with_reducible repeat' first
    | assumption | apply takeSecure_keeps (hK.sub rfl) | apply keep_ite | split

theorem requestSecure_keeps {K : State → Prop} (hK : Free [.host, .hanks, .groups, .blocked, .out] K)
    {gid : Nat} {s : State} (h0 : K s) : K (requestSecure gid s) := by
  unfold requestSecure
  with_reducible repeat' first
    | assumption | apply updGroup_keeps (hK.sub rfl) | apply takeSecure_keeps (hK.sub rfl)
    | (fail_if_no_progress refine Free.mk hK ?_ (Frame.only fun p hp => by
        cases p <;> first
          | exact absurd hp (by with_unfolding_all decide) | exact rfl | exact ⟨rfl, rfl, rfl, rfl, rfl⟩))
    | apply keep_ite | split

theorem verifyNote_keeps {K : State → Prop} (hK : Free [.course] K) {e : Nat} {step : Nat} {b : List Byte}
    {l : List StepRec} {s : State} (h0 : K s) : K (verifyNote e step b l s) := by
  unfold verifyNote
  with_reducible repeat' first
    | assumption | (fail_if_no_progress refine Free.mk hK ?_ (Frame.only fun p hp => by
        cases p <;> first
          | exact absurd hp (by with_unfolding_all decide) | exact rfl | exact ⟨rfl, rfl, rfl, rfl, rfl⟩)) | split

theorem keepEntry_keeps {K : State → Prop}
    (hK : Free [.host, .pools, .ports, .routing, .traffic, .flows, .course, .perf, .blocked, .drops, .out] K)
    {ep : Option Nat} {b : List Byte} {s : State} (h0 : K s) : K (keepEntry ep b s) := by
  unfold keepEntry
  try dsimp -proj only
  with_reducible repeat' first
    | assumption | apply verifyNote_keeps (hK.sub rfl) | apply sendFlow_keeps (hK.sub rfl)
    | (fail_if_no_progress refine Free.mk hK ?_ (Frame.only fun p hp => by
        cases p <;> first
          | exact absurd hp (by with_unfolding_all decide) | exact rfl | exact ⟨rfl, rfl, rfl, rfl, rfl⟩))
    | apply keep_ite | split

theorem sendReport_keeps {K : State → Prop}
    (hK : Free [.host, .pools, .ports, .routing, .traffic, .flows, .course, .perf, .blocked, .drops, .out] K)
    {b : List Byte} {s : State} (h0 : K s) : K (sendReport b s) := by
  unfold sendReport
  with_reducible repeat' first
    | assumption | apply keepEntry_keeps (hK.sub rfl) | apply sendFlow_keeps (hK.sub rfl) | apply keep_ite | split

theorem refillDone_keeps {K : State → Prop} (hK : Free [.host, .course, .blocked, .out] K) {s : State}
    (h0 : K s) : K (refillDone s) := by
  unfold refillDone
  with_reducible repeat' first
    | assumption | apply postEvent_keeps (hK.sub rfl)
    | (fail_if_no_progress refine Free.mk hK ?_ (Frame.only fun p hp => by
        cases p <;> first
          | exact absurd hp (by with_unfolding_all decide) | exact rfl | exact ⟨rfl, rfl, rfl, rfl, rfl⟩))
    | apply keep_ite | split

theorem flipRole_keeps {K : State → Prop} (hK : Free [.host, .hanks, .groups, .course, .blocked, .out] K)
    {gid : Nat} {owner : Bool} {step : Nat} {s : State} (h0 : K s) : K (flipRole gid owner step s) := by
  unfold flipRole
  try dsimp -proj only
  with_reducible repeat' first
    | assumption | apply updGroup_keeps (hK.sub rfl) | apply refillDone_keeps (hK.sub rfl)
    | apply secureAtFlip_keeps (hK.sub rfl) | (fail_if_no_progress refine Free.mk hK ?_ (Frame.only fun p hp => by
        cases p <;> first
          | exact absurd hp (by with_unfolding_all decide) | exact rfl | exact ⟨rfl, rfl, rfl, rfl, rfl⟩))
    | apply keep_ite | split

theorem reportHandover_keeps {K : State → Prop} (hK : Free [.host, .course, .blocked, .out] K) {gid : Nat}
    {s : State} (h0 : K s) : K (reportHandover gid s) := by
  unfold reportHandover
  with_reducible repeat' first
    | assumption | apply postEvent_keeps (hK.sub rfl)
    | (fail_if_no_progress refine Free.mk hK ?_ (Frame.only fun p hp => by
        cases p <;> first
          | exact absurd hp (by with_unfolding_all decide) | exact rfl | exact ⟨rfl, rfl, rfl, rfl, rfl⟩))

theorem assignHank_keeps {K : State → Prop} (hK : Free [.hanks] K) {st : HankState} {h : Nat} {s : State}
    (h0 : K s) : K (assignHank st h s) := by
  unfold assignHank
  with_reducible repeat' first
    | assumption | apply setHank_keeps (hK.sub rfl) | apply keep_ite | split

theorem swapRoles_keeps {K : State → Prop} (hK : Free [.host, .hanks, .groups, .course, .blocked, .out] K)
    {gid : Nat} {owner : Bool} {s : State} (h0 : K s) : K (swapRoles gid owner s) := by
  unfold swapRoles
  try dsimp -proj only
  with_reducible repeat' first
    | assumption | apply assignHank_keeps (hK.sub rfl) | apply reportHandover_keeps (hK.sub rfl)
    | apply updGroup_keeps (hK.sub rfl) | intro _ | apply keep_forEach | intro _
    | (fail_if_no_progress refine Free.mk hK ?_ (Frame.only fun p hp => by
        cases p <;> first
          | exact absurd hp (by with_unfolding_all decide) | exact rfl | exact ⟨rfl, rfl, rfl, rfl, rfl⟩))
    | apply keep_ite | split

theorem swapIfDue_keeps {K : State → Prop} (hK : Free [.host, .hanks, .groups, .course, .blocked, .out] K)
    {gid : Nat} {owner : Bool} {s : State} (h0 : K s) : K (swapIfDue gid owner s) := by
  unfold swapIfDue
  with_reducible repeat' first
    | assumption | apply swapRoles_keeps (hK.sub rfl) | apply keep_ite | split

theorem commitStep_keeps {K : State → Prop}
    (hK : Free [.host, .pools, .hanks, .groups, .ports, .routing, .traffic, .flows, .course, .perf, .blocked, .drops, .out] K)
    {gid : Nat} {step : Nat} {s : State} (h0 : K s) : K (commitStep gid step s) := by
  unfold commitStep
  try dsimp -proj only
  with_reducible repeat' first
    | assumption | apply updGroup_keeps (hK.sub rfl) | apply flipRole_keeps (hK.sub rfl)
    | apply updOp_keeps (hK.sub rfl) | apply sendReport_keeps (hK.sub rfl) | apply swapIfDue_keeps (hK.sub rfl)
    | (fail_if_no_progress refine Free.mk hK ?_ (Frame.only fun p hp => by
        cases p <;> first
          | exact absurd hp (by with_unfolding_all decide) | exact rfl | exact ⟨rfl, rfl, rfl, rfl, rfl⟩)) | split

theorem flipNow_keeps {K : State → Prop}
    (hK : Free [.host, .pools, .hanks, .groups, .ports, .routing, .traffic, .flows, .course, .perf, .blocked, .drops, .out] K)
    {gid : Nat} {s : State} (h0 : K s) : K (flipNow gid s) := by
  unfold flipNow
  with_reducible repeat' first
    | assumption | apply commitStep_keeps (hK.sub rfl) | apply keep_ite | split

theorem tryCommit_keeps {K : State → Prop}
    (hK : Free [.host, .pools, .hanks, .groups, .ports, .routing, .traffic, .flows, .course, .perf, .blocked, .drops, .out] K)
    {gid : Nat} {s : State} (h0 : K s) : K (tryCommit gid s) := by
  unfold tryCommit
  try dsimp -proj only
  with_reducible repeat' first
    | assumption | apply updOp_keeps (hK.sub rfl) | apply flipNow_keeps (hK.sub rfl)
    | apply updGroup_keeps (hK.sub rfl) | apply sendCtl_keeps (hK.sub rfl)
    | (fail_if_no_progress refine Free.mk hK ?_ (Frame.only fun p hp => by
        cases p <;> first
          | exact absurd hp (by with_unfolding_all decide) | exact rfl | exact ⟨rfl, rfl, rfl, rfl, rfl⟩))
    | apply keep_ite | split

theorem takeSealed_keeps {K : State → Prop}
    (hK : Free [.host, .pools, .hanks, .groups, .ports, .routing, .traffic, .flows, .course, .perf, .blocked, .drops, .out] K)
    {gid : Nat} {step : Nat} {s : State} (h0 : K s) : K (takeSealed gid step s) := by
  unfold takeSealed
  with_reducible repeat' first
    | assumption | apply swapIfDue_keeps (hK.sub rfl) | apply updOp_keeps (hK.sub rfl)
    | apply flipNow_keeps (hK.sub rfl) | apply updGroup_keeps (hK.sub rfl)
    | (fail_if_no_progress refine Free.mk hK ?_ (Frame.only fun p hp => by
        cases p <;> first
          | exact absurd hp (by with_unfolding_all decide) | exact rfl | exact ⟨rfl, rfl, rfl, rfl, rfl⟩))
    | apply keep_ite | split

theorem sealRetry_keeps {K : State → Prop}
    (hK : Free [.host, .pools, .groups, .ports, .routing, .traffic, .perf, .blocked, .drops, .out] K) {gid : Nat}
    {s : State} (h0 : K s) : K (sealRetry gid s) := by
  unfold sealRetry
  with_reducible repeat' first
    | assumption | apply sendCtl_keeps (hK.sub rfl) | apply updOp_keeps (hK.sub rfl)
    | (fail_if_no_progress refine Free.mk hK ?_ (Frame.only fun p hp => by
        cases p <;> first
          | exact absurd hp (by with_unfolding_all decide) | exact rfl | exact ⟨rfl, rfl, rfl, rfl, rfl⟩))
    | apply keep_ite | split

theorem execStepSealRetry_keeps {K : State → Prop}
    (hK : Free [.host, .pools, .groups, .ports, .routing, .traffic, .perf, .blocked, .drops, .out] K)
    {group : BitVec 24} {s : State} (h0 : K s) {st1 : State} (he : execStepSealRetry group s = .next st1) : K st1 := by
  unfold execStepSealRetry at he
  repeat' (split at he)
  all_goals (injection he with he; subst he)
  with_reducible repeat' first
    | assumption | apply sealRetry_keeps (hK.sub rfl)

theorem sendMirror_keeps {K : State → Prop}
    (hK : Free [.host, .pools, .ports, .routing, .traffic, .flows, .perf, .blocked, .drops, .out] K) {gid : Nat}
    {k : Nat} {x : Nat} {cur : Bool} {set : Bool} {u : Nat} {n : Nat} {why : Purpose} {s : State} (h0 : K s) :
    K (sendMirror gid k x cur set u n why s) := by
  unfold sendMirror
  try dsimp -proj only
  with_reducible repeat' first
    | assumption | apply sendFlow_keeps (hK.sub rfl) | intro _ | apply keep_forEach | intro _ | split

theorem sendSealed_keeps {K : State → Prop}
    (hK : Free [.host, .pools, .ports, .routing, .traffic, .perf, .blocked, .drops, .out] K) {gid : Nat}
    {step : Nat} {s : State} (h0 : K s) : K (sendSealed gid step s) := by
  unfold sendSealed
  with_reducible repeat' first
    | assumption | apply sendCtl_keeps (hK.sub rfl)

theorem keepSealed_keeps {K : State → Prop} (hK : Free [.groups] K) {gid : Nat} {step : Nat} {s : State}
    (h0 : K s) : K (keepSealed gid step s) := by
  unfold keepSealed
  try dsimp -proj only
  with_reducible repeat' first
    | assumption | apply updGroup_keeps (hK.sub rfl)
    | (fail_if_no_progress refine Free.mk hK ?_ (Frame.only fun p hp => by
        cases p <;> first
          | exact absurd hp (by with_unfolding_all decide) | exact rfl | exact ⟨rfl, rfl, rfl, rfl, rfl⟩)) | split

theorem sealNow_keeps {K : State → Prop}
    (hK : Free [.host, .pools, .hanks, .groups, .ports, .routing, .traffic, .course, .perf, .blocked, .drops, .out] K)
    {gid : Nat} {s : State} (h0 : K s) : K (sealNow gid s) := by
  unfold sealNow
  try dsimp -proj only
  with_reducible repeat' first
    | assumption | apply updGroup_keeps (hK.sub rfl) | apply sendSealed_keeps (hK.sub rfl)
    | apply swapIfDue_keeps (hK.sub rfl) | apply keepSealed_keeps (hK.sub rfl) | apply flipRole_keeps (hK.sub rfl)
    | (fail_if_no_progress refine Free.mk hK ?_ (Frame.only fun p hp => by
        cases p <;> first
          | exact absurd hp (by with_unfolding_all decide) | exact rfl | exact ⟨rfl, rfl, rfl, rfl, rfl⟩))
    | apply keep_ite | split

theorem mirrorWrite_keeps {K : State → Prop}
    (hK : Free [.host, .pools, .skeinMem, .hanks, .groups, .ports, .routing, .traffic, .course, .perf, .blocked, .drops, .out] K)
    {p : Packet} {s0 : State} (h0 : K s0) : K (mirrorWrite p s0) := by
  unfold mirrorWrite
  try dsimp -proj only
  with_reducible repeat' first
    | assumption | apply guardedWrite_keeps (hK.sub rfl) | apply sealNow_keeps (hK.sub rfl)
    | apply updShard_keeps (hK.sub rfl) | (fail_if_no_progress refine Free.mk hK ?_ (Frame.only fun p hp => by
        cases p <;> first
          | exact absurd hp (by with_unfolding_all decide) | exact rfl | exact ⟨rfl, rfl, rfl, rfl, rfl⟩))
    | apply keep_ite | split

theorem takeSeal_keeps {K : State → Prop}
    (hK : Free [.host, .pools, .hanks, .groups, .ports, .routing, .traffic, .course, .perf, .blocked, .drops, .out] K)
    {gid : Nat} {step : Nat} {abandon : Bool} {s : State} (h0 : K s) : K (takeSeal gid step abandon s) := by
  unfold takeSeal
  try dsimp -proj only
  with_reducible repeat' first
    | assumption | apply sendSealed_keeps (hK.sub rfl) | apply updGroup_keeps (hK.sub rfl)
    | apply swapIfDue_keeps (hK.sub rfl) | apply sealNow_keeps (hK.sub rfl)
    | (fail_if_no_progress refine Free.mk hK ?_ (Frame.only fun p hp => by
        cases p <;> first
          | exact absurd hp (by with_unfolding_all decide) | exact rfl | exact ⟨rfl, rfl, rfl, rfl, rfl⟩))
    | apply keep_ite | split

theorem sendOpComplete_keeps {K : State → Prop}
    (hK : Free [.host, .pools, .ports, .routing, .traffic, .perf, .blocked, .drops, .out] K) {g : Group}
    {part : List Byte} {s : State} (h0 : K s) : K (sendOpComplete g part s) := by
  unfold sendOpComplete
  with_reducible repeat' first
    | assumption | apply sendCtl_keeps (hK.sub rfl) | intro _ | (unfold id; assumption) | apply keep_forEach
    | intro _

theorem finishOpAs_keeps {K : State → Prop}
    (hK : Free [.host, .pools, .groups, .ports, .routing, .traffic, .perf, .blocked, .drops, .out] K)
    {status : Nat} {gid : Nat} {op : Op} {s : State} (h0 : K s) : K (finishOpAs status gid op s) := by
  unfold finishOpAs
  try dsimp -proj only
  with_reducible repeat' first
    | assumption | apply updGroup_keeps (hK.sub rfl) | apply complete_keeps (hK.sub rfl)
    | apply releaseHolder_keeps (hK.sub rfl) | apply sendOpComplete_keeps (hK.sub rfl) | intro _
    | apply keep_forEach | intro _ | (fail_if_no_progress refine Free.mk hK ?_ (Frame.only fun p hp => by
        cases p <;> first
          | exact absurd hp (by with_unfolding_all decide) | exact rfl | exact ⟨rfl, rfl, rfl, rfl, rfl⟩))
    | apply keep_ite | split

theorem finishOp_keeps {K : State → Prop}
    (hK : Free [.host, .pools, .groups, .ports, .routing, .traffic, .perf, .blocked, .drops, .out] K) {gid : Nat}
    {op : Op} {s : State} (h0 : K s) : K (finishOp gid op s) := by
  unfold finishOp
  with_reducible repeat' first
    | assumption | apply finishOpAs_keeps (hK.sub rfl) | split

theorem finishOps_keeps {K : State → Prop} (hK : Free [.host, .pools, .hanks, .groups, .ports, .routing, .traffic, .flows, .course, .perf, .blocked, .drops, .out] K) {gid : Nat} : ∀ {k : Nat} {s : State}, K s →
    K (finishOps gid k s) := by
  intro k
  induction k with
  | zero => intro s h0; exact h0
  | succ k ih =>
    intro s h0
    unfold finishOps
    try dsimp -proj only
    with_reducible repeat' first
      | assumption | apply ih | apply tryCommit_keeps (hK.sub rfl) | apply finishOp_keeps (hK.sub rfl)
      | apply keep_ite | split

theorem acceptOp_keeps {K : State → Prop}
    (hK : Free [.host, .rows, .pools, .groups, .ports, .routing, .traffic, .perf, .blocked, .drops, .out] K)
    {g : Group} {p : Posted} {s : State} (h0 : K s) : K (acceptOp g p s) := by
  unfold acceptOp
  try dsimp -proj only
  with_reducible repeat' first
    | assumption | apply updGroup_keeps (hK.sub rfl) | apply addRow_keeps (hK.sub rfl)
    | (fail_if_no_progress refine Free.mk hK ?_ (Frame.only fun p hp => by
        cases p <;> first
          | exact absurd hp (by with_unfolding_all decide) | exact rfl | exact ⟨rfl, rfl, rfl, rfl, rfl⟩))
    | apply keep_ite | split

theorem countChunkRead_keeps {K : State → Prop} (hK : Free [.perf] K) {g : Group} {sh : Shard} {x : Nat}
    {set : Bool} {op : Op} {c : Nat} {s : State} (h0 : K s) : K (countChunkRead g sh x set op c s) := by
  unfold countChunkRead
  try dsimp -proj only
  with_reducible repeat' first
    | assumption | apply countSkein_keeps (hK.sub rfl)

theorem sendWeights_keeps {K : State → Prop}
    (hK : Free [.host, .pools, .groups, .ports, .routing, .traffic, .perf, .blocked, .drops, .out] K) {gid : Nat}
    {seq : Nat} {resend : Bool} {c : Nat} {set : Shard → Bool} {reads : List Nat} {fl : BitVec 6} {s : State}
    (h0 : K s) : K (sendWeights gid seq resend c set reads fl s) := by
  unfold sendWeights
  try dsimp -proj only
  with_reducible repeat' first
    | assumption | apply phaseX_keeps (hK.sub rfl) | apply countChunkRead_keeps (hK.sub rfl) | intro _
    | apply keep_forEach | intro _ | split

theorem startResend_keeps {K : State → Prop}
    (hK : Free [.host, .pools, .groups, .ports, .routing, .traffic, .perf, .blocked, .drops, .out] K) {g : Group}
    {p : Posted} {s : State} (h0 : K s) : K (startResend g p s) := by
  unfold startResend
  try dsimp -proj only
  with_reducible repeat' first
    | assumption | apply bad_keeps (hK.sub rfl) | apply updGroup_keeps (hK.sub rfl)
    | apply sendWeights_keeps (hK.sub rfl) | intro _ | (unfold id; assumption) | apply keep_forEach | intro _
    | (fail_if_no_progress refine Free.mk hK ?_ (Frame.only fun p hp => by
        cases p <;> first
          | exact absurd hp (by with_unfolding_all decide) | exact rfl | exact ⟨rfl, rfl, rfl, rfl, rfl⟩))
    | apply keep_ite | split

theorem takeQueue_keeps {K : State → Prop} (hK : Free [.host, .rows, .pools, .groups, .ports, .routing, .traffic, .perf, .blocked, .drops, .out] K) {gid : Nat} : ∀ {k : Nat} {s : State}, K s →
    K (takeQueue gid k s) := by
  intro k
  induction k with
  | zero => intro s h0; exact h0
  | succ k ih =>
    intro s h0
    unfold takeQueue
    try dsimp -proj only
    with_reducible repeat' first
      | assumption | apply ih | apply noteRead_keeps (hK.sub rfl) | apply updGroup_keeps (hK.sub rfl) | apply bad_keeps (hK.sub rfl) | apply startResend_keeps (hK.sub rfl)
      | apply acceptOp_keeps (hK.sub rfl)
      | apply keep_ite | split

theorem updCtx_keeps {K : State → Prop} (hK : Free [.groups] K) {gid : Nat} {k : Nat × Option Nat} {seq : Nat}
    {c : Nat} {f : Ctx → Ctx} {s : State} (h0 : K s) : K (updCtx gid k seq c f s) := by
  unfold updCtx
  with_reducible repeat' first
    | assumption | apply updInst_keeps (hK.sub rfl)
    | (fail_if_no_progress refine Free.mk hK ?_ (Frame.only fun p hp => by
        cases p <;> first
          | exact absurd hp (by with_unfolding_all decide) | exact rfl | exact ⟨rfl, rfl, rfl, rfl, rfl⟩))

theorem countRetry_keeps {K : State → Prop} (hK : Free [.groups, .perf] K) {gid : Nat} {seq : Nat} {c : Nat}
    {attempt : Nat} {s : State} (h0 : K s) : K (countRetry gid seq c attempt s) := by
  unfold countRetry
  with_reducible repeat' first
    | assumption | apply count_keeps (hK.sub rfl) | apply updOp_keeps (hK.sub rfl)
    | (fail_if_no_progress refine Free.mk hK ?_ (Frame.only fun p hp => by
        cases p <;> first
          | exact absurd hp (by with_unfolding_all decide) | exact rfl | exact ⟨rfl, rfl, rfl, rfl, rfl⟩))
    | apply keep_ite | split

theorem freeHeld_keeps {K : State → Prop} (hK : Free [.host, .pools, .groups, .perf, .blocked, .out] K)
    {gid : Nat} {pick : List Nat → Bool} {s : State} (h0 : K s) : K (freeHeld gid pick s) := by
  unfold freeHeld
  with_reducible repeat' first
    | assumption | apply releaseHolder_keeps (hK.sub rfl) | apply updGroup_keeps (hK.sub rfl) | intro _
    | apply keep_forEach | intro _ | (fail_if_no_progress refine Free.mk hK ?_ (Frame.only fun p hp => by
        cases p <;> first
          | exact absurd hp (by with_unfolding_all decide) | exact rfl | exact ⟨rfl, rfl, rfl, rfl, rfl⟩)) | split

theorem openCtx_keeps {K : State → Prop} (hK : Free [.host, .pools, .groups, .perf, .blocked, .out] K)
    {g : Group} {op : Op} {i : Inst} {c : Nat} {attempt : Nat} {spare : Bool} {s : State} (h0 : K s) {st1 : State}
    (he : openCtx g op i c attempt spare s = some st1) : K st1 := by
  unfold openCtx at he
  try dsimp -proj only at he
  repeat' (split at he)
  all_goals (try first | contradiction | cases he)
  try dsimp -proj only
  with_reducible repeat' first
    | assumption | apply freeHeld_keeps (hK.sub rfl)
    | refine takeBuffers_keeps (hK.sub rfl) ?_ (by first | assumption | rfl) | apply countRetry_keeps (hK.sub rfl)
    | apply updInst_keeps (hK.sub rfl) | (fail_if_no_progress refine Free.mk hK ?_ (Frame.only fun p hp => by
        cases p <;> first
          | exact absurd hp (by with_unfolding_all decide) | exact rfl | exact ⟨rfl, rfl, rfl, rfl, rfl⟩))
    | apply keep_ite | split

theorem freeCtxCells_keeps {K : State → Prop} (hK : Free [.host, .pools, .groups, .perf, .blocked, .out] K)
    {gid : Nat} {k : Nat × Option Nat} {seq : Nat} {c : Nat} {s : State} (h0 : K s) :
    K (freeCtxCells gid k seq c s) := by
  unfold freeCtxCells
  with_reducible repeat' first
    | assumption | apply updCtx_keeps (hK.sub rfl) | apply releaseHolder_keeps (hK.sub rfl) | intro _
    | apply keep_forEach | intro _ | (fail_if_no_progress refine Free.mk hK ?_ (Frame.only fun p hp => by
        cases p <;> first
          | exact absurd hp (by with_unfolding_all decide) | exact rfl | exact ⟨rfl, rfl, rfl, rfl, rfl⟩)) | split

theorem closeCtx_keeps {K : State → Prop} (hK : Free [.host, .pools, .groups, .perf, .blocked, .out] K)
    {gid : Nat} {k : Nat × Option Nat} {seq : Nat} {c : Nat} {s : State} (h0 : K s) : K (closeCtx gid k seq c s) := by
  unfold closeCtx
  with_reducible repeat' first
    | assumption | apply updInst_keeps (hK.sub rfl) | apply freeCtxCells_keeps (hK.sub rfl)
    | (fail_if_no_progress refine Free.mk hK ?_ (Frame.only fun p hp => by
        cases p <;> first
          | exact absurd hp (by with_unfolding_all decide) | exact rfl | exact ⟨rfl, rfl, rfl, rfl, rfl⟩))

theorem ctxDone_keeps {K : State → Prop} (hK : Free [.host, .pools, .groups, .perf, .blocked, .out] K)
    {gid : Nat} {k : Nat × Option Nat} {seq : Nat} {c : Nat} {s : State} (h0 : K s) : K (ctxDone gid k seq c s) := by
  unfold ctxDone
  with_reducible repeat' first
    | assumption | apply updCtx_keeps (hK.sub rfl) | apply freeCtxCells_keeps (hK.sub rfl)
    | (fail_if_no_progress refine Free.mk hK ?_ (Frame.only fun p hp => by
        cases p <;> first
          | exact absurd hp (by with_unfolding_all decide) | exact rfl | exact ⟨rfl, rfl, rfl, rfl, rfl⟩))

theorem countValue_keeps {K : State → Prop} (hK : Free [.perf] K) {g : Group} {k : Nat × Option Nat}
    {seq : Nat} {c : Nat} {code : Nat} {bytes : Nat} {s : State} (h0 : K s) : K (countValue g k seq c code bytes s) := by
  unfold countValue
  with_reducible repeat' first
    | assumption | apply countStaged_keeps (hK.sub rfl) | apply keep_ite | split

theorem dispatch_keeps {K : State → Prop} (hK : Free [.bed] K) {x : Stitch} {s : State} (h0 : K s) :
    K (dispatch x s) := by
  unfold dispatch
  with_reducible repeat' first
    | assumption | (fail_if_no_progress refine Free.mk hK ?_ (Frame.only fun p hp => by
        cases p <;> first
          | exact absurd hp (by with_unfolding_all decide) | exact rfl | exact ⟨rfl, rfl, rfl, rfl, rfl⟩))

theorem startStitch_keeps {K : State → Prop} (hK : Free [.groups, .bed] K) {s : State} (h0 : K s) :
    K (startStitch s) := by
  unfold startStitch
  try dsimp -proj only
  with_reducible repeat' first
    | assumption | apply updCtx_keeps (hK.sub rfl)
    | (fail_if_no_progress refine Free.mk hK ?_ (Frame.only fun p hp => by
        cases p <;> first
          | exact absurd hp (by with_unfolding_all decide) | exact rfl | exact ⟨rfl, rfl, rfl, rfl, rfl⟩))
    | apply keep_ite | split

theorem execStitchDispatch_keeps {K : State → Prop} (hK : Free [.groups, .bed] K) {s : State} (h0 : K s)
    {st1 : State} (he : execStitchDispatch s = .next st1) : K st1 := by
  unfold execStitchDispatch at he
  repeat' (split at he)
  all_goals (injection he with he; subst he)
  with_reducible repeat' first
    | assumption | apply startStitch_keeps (hK.sub rfl)

theorem stallStitch_keeps {K : State → Prop} (hK : Free [.bed] K) {front : Nat} {back : Nat} {s : State}
    (h0 : K s) : K (stallStitch front back s) := by
  unfold stallStitch
  with_reducible repeat' first
    | assumption | (fail_if_no_progress refine Free.mk hK ?_ (Frame.only fun p hp => by
        cases p <;> first
          | exact absurd hp (by with_unfolding_all decide) | exact rfl | exact ⟨rfl, rfl, rfl, rfl, rfl⟩))

theorem settleStitch_keeps {K : State → Prop} (hK : Free [.bed] K) {front : Nat} {back : Nat} {s : State}
    (h0 : K s) : K (settleStitch front back s) := by
  unfold settleStitch
  try dsimp -proj only
  with_reducible repeat' first
    | assumption | apply stallStitch_keeps (hK.sub rfl)
    | (fail_if_no_progress refine Free.mk hK ?_ (Frame.only fun p hp => by
        cases p <;> first
          | exact absurd hp (by with_unfolding_all decide) | exact rfl | exact ⟨rfl, rfl, rfl, rfl, rfl⟩))

theorem addNondet_keeps {K : State → Prop} (hK : Free [.groups] K) {gid : Nat} {seq : Nat} {n : Nat}
    {s : State} (h0 : K s) : K (addNondet gid seq n s) := by
  unfold addNondet
  with_reducible repeat' first
    | assumption | apply updOp_keeps (hK.sub rfl) | apply updGroup_keeps (hK.sub rfl)
    | (fail_if_no_progress refine Free.mk hK ?_ (Frame.only fun p hp => by
        cases p <;> first
          | exact absurd hp (by with_unfolding_all decide) | exact rfl | exact ⟨rfl, rfl, rfl, rfl, rfl⟩))

theorem storeStream_keeps {K : State → Prop} (hK : Free [.skeinMem, .hanks, .groups, .perf] K) {g : Group}
    {op : Op} {sh : Shard} {c : Nat} {q : Nat × List Val} {s : State} (h0 : K s) {r1} {st1 : State}
    (he : storeStream g op sh c q s = (st1, r1)) : K st1 := by
  unfold storeStream at he
  try dsimp -proj only at he
  repeat' (split at he)
  all_goals (try first | contradiction | cases he)
  try dsimp -proj only
  with_reducible repeat' first
    | assumption | apply guardedWrite_keeps (hK.sub rfl) | split

theorem startMirror_keeps {K : State → Prop}
    (hK : Free [.host, .pools, .groups, .ports, .routing, .traffic, .flows, .perf, .blocked, .drops, .out] K)
    {g : Group} {op : Op} {sh : Shard} {c : Nat} {s : State} (h0 : K s) : K (startMirror g op sh c s) := by
  unfold startMirror
  try dsimp -proj only
  with_reducible repeat' first
    | assumption | apply sendMirror_keeps (hK.sub rfl) | apply updOp_keeps (hK.sub rfl) | intro _
    | (unfold id; assumption) | apply keep_forEach | intro _
    | (fail_if_no_progress refine Free.mk hK ?_ (Frame.only fun p hp => by
        cases p <;> first
          | exact absurd hp (by with_unfolding_all decide) | exact rfl | exact ⟨rfl, rfl, rfl, rfl, rfl⟩))
    | apply keep_ite | split

theorem rootCheck_keeps {K : State → Prop}
    (hK : Free [.host, .pools, .groups, .ports, .routing, .traffic, .perf, .blocked, .drops, .out] K) {gid : Nat}
    {k : Nat × Option Nat} {seq : Nat} {c : Nat} {s : State} (h0 : K s) : K (rootCheck gid k seq c s) := by
  unfold rootCheck
  with_reducible repeat' first
    | assumption | apply markDone_keeps (hK.sub rfl) | apply closeCtx_keeps (hK.sub rfl) | apply keep_ite | split

theorem finishApply_keeps {K : State → Prop}
    (hK : Free [.host, .pools, .groups, .ports, .routing, .traffic, .flows, .perf, .blocked, .drops, .out] K)
    {gid : Nat} {k : Nat × Option Nat} {seq : Nat} {c : Nat} {fl : BitVec 6} {s : State} (h0 : K s) :
    K (finishApply gid k seq c fl s) := by
  unfold finishApply
  try dsimp -proj only
  with_reducible repeat' first
    | assumption | apply updOp_keeps (hK.sub rfl) | apply startMirror_keeps (hK.sub rfl)
    | apply sendWeights_keeps (hK.sub rfl) | apply rootCheck_keeps (hK.sub rfl) | apply ctxDone_keeps (hK.sub rfl)
    | (fail_if_no_progress refine Free.mk hK ?_ (Frame.only fun p hp => by
        cases p <;> first
          | exact absurd hp (by with_unfolding_all decide) | exact rfl | exact ⟨rfl, rfl, rfl, rfl, rfl⟩)) | split

theorem releaseHeld_keeps {K : State → Prop}
    (hK : Free [.host, .pools, .groups, .bed, .ports, .routing, .traffic, .flows, .perf, .blocked, .drops, .out] K)
    {gid : Nat} {k : Nat × Option Nat} {seq : Nat} {img : Image} {s : State} (h0 : K s) :
    K (releaseHeld gid k seq img s) := by
  unfold releaseHeld
  try dsimp -proj only
  with_reducible repeat' first
    | assumption | apply updOp_keeps (hK.sub rfl) | apply dispatch_keeps (hK.sub rfl)
    | apply finishApply_keeps (hK.sub rfl) | intro _ | apply keep_forEach | intro _
    | (fail_if_no_progress refine Free.mk hK ?_ (Frame.only fun p hp => by
        cases p <;> first
          | exact absurd hp (by with_unfolding_all decide) | exact rfl | exact ⟨rfl, rfl, rfl, rfl, rfl⟩))
    | apply keep_ite | split

theorem endApply_keeps {K : State → Prop}
    (hK : Free [.host, .pools, .skeinMem, .hanks, .groups, .bed, .ports, .routing, .traffic, .flows, .perf, .blocked, .drops, .out] K)
    {g : Group} {op : Op} {sh : Shard} {x : Stitch} {time : Nat} {front : Nat} {back : Nat} {s : State}
    (h0 : K s) : K (endApply g op sh x time front back s) := by
  unfold endApply
  try dsimp -proj only
  with_reducible repeat' first
    | assumption | apply stallStitch_keeps (hK.sub rfl) | apply countChunkRead_keeps (hK.sub rfl)
    | refine storeStream_keeps (hK.sub rfl) ?_ (by first | assumption | rfl)
    | apply settleStitch_keeps (hK.sub rfl) | apply countValue_keeps (hK.sub rfl) | apply count_keeps (hK.sub rfl)
    | apply addNondet_keeps (hK.sub rfl) | apply finishApply_keeps (hK.sub rfl) | apply updOp_keeps (hK.sub rfl)
    | apply releaseHeld_keeps (hK.sub rfl) | intro _ | (unfold id; assumption) | apply keep_forEach | intro _
    | apply keep_foldl | apply keep_foldl_fst | intro _
    | (fail_if_no_progress refine Free.mk hK ?_ (Frame.only fun p hp => by
        cases p <;> first
          | exact absurd hp (by with_unfolding_all decide) | exact rfl | exact ⟨rfl, rfl, rfl, rfl, rfl⟩))
    | apply keep_ite | split

theorem afterReduce_keeps {K : State → Prop}
    (hK : Free [.host, .pools, .groups, .bed, .ports, .routing, .traffic, .perf, .blocked, .drops, .out] K)
    {g : Group} {op : Op} {i : Inst} {c : Nat} {attempt : Nat} {fl : BitVec 6} {bs : List Byte} {s : State}
    (h0 : K s) : K (afterReduce g op i c attempt fl bs s) := by
  unfold afterReduce
  try dsimp -proj only
  with_reducible repeat' first
    | assumption | apply sendUp_keeps (hK.sub rfl) | apply ctxDone_keeps (hK.sub rfl)
    | apply rootCheck_keeps (hK.sub rfl) | apply sendWeights_keeps (hK.sub rfl) | apply dispatch_keeps (hK.sub rfl)
    | apply updShard_keeps (hK.sub rfl) | apply countValue_keeps (hK.sub rfl) | apply phaseX_keeps (hK.sub rfl)
    | (fail_if_no_progress refine Free.mk hK ?_ (Frame.only fun p hp => by
        cases p <;> first
          | exact absurd hp (by with_unfolding_all decide) | exact rfl | exact ⟨rfl, rfl, rfl, rfl, rfl⟩))
    | apply keep_ite | split

theorem readSlots_keeps {K : State → Prop} (hK : Free [.perf] K) {g : Group} {c : Ctx} {s : State} (h0 : K s) :
    K (readSlots g c s) := by
  unfold readSlots
  with_reducible repeat' first
    | assumption | apply countStaged_keeps (hK.sub rfl) | intro _ | apply keep_forEach | intro _

theorem endReduce_keeps {K : State → Prop}
    (hK : Free [.host, .pools, .groups, .bed, .ports, .routing, .traffic, .perf, .blocked, .drops, .out] K)
    {g : Group} {op : Op} {i : Inst} {c : Ctx} {time : Nat} {front : Nat} {back : Nat} {s : State} (h0 : K s) :
    K (endReduce g op i c time front back s) := by
  unfold endReduce
  try dsimp -proj only
  with_reducible repeat' first
    | assumption | apply count_keeps (hK.sub rfl) | apply readSlots_keeps (hK.sub rfl)
    | apply settleStitch_keeps (hK.sub rfl) | apply addNondet_keeps (hK.sub rfl)
    | apply afterReduce_keeps (hK.sub rfl) | split

theorem endMap_keeps {K : State → Prop}
    (hK : Free [.host, .pools, .groups, .bed, .ports, .routing, .traffic, .perf, .blocked, .drops, .out] K)
    {g : Group} {op : Op} {i : Inst} {x : Stitch} {time : Nat} {front : Nat} {back : Nat} {s : State} (h0 : K s) :
    K (endMap g op i x time front back s) := by
  unfold endMap
  try dsimp -proj only
  with_reducible repeat' first
    | assumption | apply count_keeps (hK.sub rfl) | apply settleStitch_keeps (hK.sub rfl)
    | apply addNondet_keeps (hK.sub rfl) | apply countValue_keeps (hK.sub rfl) | apply phaseX_keeps (hK.sub rfl)
    | apply ctxDone_keeps (hK.sub rfl) | apply rootCheck_keeps (hK.sub rfl)
    | apply releaseHolder_keeps (hK.sub rfl) | apply keep_ite | split

theorem endVoid_keeps {K : State → Prop} (hK : Free [.groups, .bed] K) {front : Nat} {back : Nat} {x : Stitch}
    {s : State} (h0 : K s) : K (endVoid front back x s) := by
  unfold endVoid
  try dsimp -proj only
  with_reducible repeat' first
    | assumption | apply settleStitch_keeps (hK.sub rfl) | apply addNondet_keeps (hK.sub rfl) | apply keep_ite
    | split

theorem endStitch_keeps {K : State → Prop}
    (hK : Free [.host, .pools, .skeinMem, .hanks, .groups, .bed, .ports, .routing, .traffic, .flows, .perf, .blocked, .drops, .out] K)
    {front : Nat} {back : Nat} {s : State} (h0 : K s) : K (endStitch front back s) := by
  unfold endStitch
  with_reducible repeat' first
    | assumption | apply endVoid_keeps (hK.sub rfl) | apply endReduce_keeps (hK.sub rfl)
    | apply endMap_keeps (hK.sub rfl) | apply endApply_keeps (hK.sub rfl) | apply keep_ite | split

theorem fillCheck_keeps {K : State → Prop}
    (hK : Free [.host, .pools, .groups, .bed, .ports, .routing, .traffic, .perf, .blocked, .drops, .out] K)
    {gid : Nat} {k : Nat × Option Nat} {seq : Nat} {c : Nat} {s : State} (h0 : K s) : K (fillCheck gid k seq c s) := by
  unfold fillCheck
  try dsimp -proj only
  with_reducible repeat' first
    | assumption | apply sendDown_keeps (hK.sub rfl) | apply ctxDone_keeps (hK.sub rfl)
    | apply markDone_keeps (hK.sub rfl) | apply closeCtx_keeps (hK.sub rfl) | apply sendUp_keeps (hK.sub rfl)
    | apply afterReduce_keeps (hK.sub rfl) | apply updCtx_keeps (hK.sub rfl) | apply readSlots_keeps (hK.sub rfl)
    | apply dispatch_keeps (hK.sub rfl) | (fail_if_no_progress refine Free.mk hK ?_ (Frame.only fun p hp => by
        cases p <;> first
          | exact absurd hp (by with_unfolding_all decide) | exact rfl | exact ⟨rfl, rfl, rfl, rfl, rfl⟩))
    | apply keep_ite | split

theorem dupDrop_keeps {K : State → Prop} (hK : Free [.perf, .drops] K) {port : Nat} {p : Packet} {s : State}
    (h0 : K s) : K (dupDrop port p s) := by
  unfold dupDrop
  with_reducible repeat' first
    | assumption | apply drop_keeps (hK.sub rfl) | apply count_keeps (hK.sub rfl)

theorem malDrop_keeps {K : State → Prop} (hK : Free [.ports, .perf, .drops] K) {port : Nat} {p : Packet}
    {s : State} (h0 : K s) : K (malDrop port p s) := by
  unfold malDrop
  try dsimp -proj only
  with_reducible repeat' first
    | assumption | apply updPort_keeps (hK.sub rfl) | apply drop_keeps (hK.sub rfl)
    | apply count_keeps (hK.sub rfl) | (fail_if_no_progress refine Free.mk hK ?_ (Frame.only fun p hp => by
        cases p <;> first
          | exact absurd hp (by with_unfolding_all decide) | exact rfl | exact ⟨rfl, rfl, rfl, rfl, rfl⟩))
    | apply keep_ite | split

theorem inactiveDrop_keeps {K : State → Prop} (hK : Free [.drops] K) {port : Nat} {s : State} (h0 : K s) :
    K (inactiveDrop port s) := by
  unfold inactiveDrop
  with_reducible repeat' first
    | assumption | apply drop_keeps (hK.sub rfl)

theorem hold_keeps {K : State → Prop} (hK : Free [.host, .pools, .groups, .perf, .blocked, .drops, .out] K)
    {gid : Nat} {v : Via} {p : Packet} {s : State} (h0 : K s) : K (hold gid v p s) := by
  unfold hold
  try dsimp -proj only
  with_reducible repeat' first
    | assumption | apply dupDrop_keeps (hK.sub rfl)
    | refine takeBuffer_keeps (hK.sub rfl) ?_ (by first | assumption | rfl) | apply updGroup_keeps (hK.sub rfl)
    | (fail_if_no_progress refine Free.mk hK ?_ (Frame.only fun p hp => by
        cases p <;> first
          | exact absurd hp (by with_unfolding_all decide) | exact rfl | exact ⟨rfl, rfl, rfl, rfl, rfl⟩))
    | apply keep_ite | split

theorem reopenOp_keeps {K : State → Prop} (hK : Free [.groups] K) {gid : Nat} {lo : Nat} {s : State}
    (h0 : K s) : K (reopenOp gid lo s) := by
  unfold reopenOp
  try dsimp -proj only
  with_reducible repeat' first
    | assumption | apply updGroup_keeps (hK.sub rfl)
    | (fail_if_no_progress refine Free.mk hK ?_ (Frame.only fun p hp => by
        cases p <;> first
          | exact absurd hp (by with_unfolding_all decide) | exact rfl | exact ⟨rfl, rfl, rfl, rfl, rfl⟩)) | split

theorem nameAgain_keeps {K : State → Prop} (hK : Free [.groups] K) {g : Group} {lo : Nat} {s : State}
    (h0 : K s) {r1} {st1 : State} (he : nameAgain g lo s = (st1, r1)) : K st1 := by
  unfold nameAgain at he
  try dsimp -proj only at he
  repeat' (split at he)
  all_goals (try first | contradiction | cases he)
  try dsimp -proj only
  with_reducible repeat' first
    | assumption | apply reopenOp_keeps (hK.sub rfl) | split

theorem sendTack_keeps {K : State → Prop}
    (hK : Free [.host, .pools, .ports, .routing, .traffic, .perf, .blocked, .drops, .out] K) {dst : Nat}
    {gid : Nat} {dir : Nat} {fmt : Nat} {attempt : Nat} {node : Nat} {lo : Nat} {c : Nat} {slot : Nat} {src : Nat}
    {dstRank : Nat} {s : State} (h0 : K s) : K (sendTack dst gid dir fmt attempt node lo c slot src dstRank s) := by
  unfold sendTack
  with_reducible repeat' first
    | assumption | apply sendCtl_keeps (hK.sub rfl)

theorem sendAborts_keeps {K : State → Prop}
    (hK : Free [.host, .pools, .ports, .routing, .traffic, .perf, .blocked, .drops, .out] K) {gid : Nat} {i : Inst}
    {lo : Nat} {c : Nat} {a : Nat} {skip : Option Nat} {root : List Nat} {s : State} (h0 : K s) :
    K (sendAborts gid i lo c a skip root s) := by
  unfold sendAborts
  try dsimp -proj only
  with_reducible repeat' first
    | assumption | apply sendCtl_keeps (hK.sub rfl) | intro _ | apply keep_forEach | intro _ | apply keep_ite
    | split

theorem failChunk_keeps {K : State → Prop} (hK : Free [.groups, .bed] K) {gid : Nat} {seq : Nat} {c : Nat}
    {s : State} (h0 : K s) : K (failChunk gid seq c s) := by
  unfold failChunk
  try dsimp -proj only
  with_reducible repeat' first
    | assumption | apply updOp_keeps (hK.sub rfl)
    | (fail_if_no_progress refine Free.mk hK ?_ (Frame.only fun p hp => by
        cases p <;> first
          | exact absurd hp (by with_unfolding_all decide) | exact rfl | exact ⟨rfl, rfl, rfl, rfl, rfl⟩)) | split

theorem startRetry_keeps {K : State → Prop} (hK : Free [.host, .pools, .groups, .perf, .blocked, .out] K)
    {gid : Nat} {k : Nat × Option Nat} {s : State} (h0 : K s) : K (startRetry gid k s) := by
  unfold startRetry
  try dsimp -proj only
  with_reducible repeat' first
    | assumption | refine openCtx_keeps (hK.sub rfl) ?_ (by first | assumption | rfl)
    | apply updInst_keeps (hK.sub rfl) | apply keep_getD | intro _ _ | apply keep_foldl | apply keep_foldl_fst
    | intro _ | (fail_if_no_progress refine Free.mk hK ?_ (Frame.only fun p hp => by
        cases p <;> first
          | exact absurd hp (by with_unfolding_all decide) | exact rfl | exact ⟨rfl, rfl, rfl, rfl, rfl⟩))
    | apply keep_ite | split

theorem startRetries_keeps {K : State → Prop} (hK : Free [.host, .pools, .groups, .perf, .blocked, .out] K)
    {gid : Nat} {s : State} (h0 : K s) : K (startRetries gid s) := by
  unfold startRetries
  with_reducible repeat' first
    | assumption | apply startRetry_keeps (hK.sub rfl) | intro _ | apply keep_forEach | intro _ | split

theorem abortAttempt_keeps {K : State → Prop}
    (hK : Free [.host, .pools, .groups, .bed, .ports, .routing, .traffic, .perf, .blocked, .drops, .out] K)
    {gid : Nat} {k : Nat × Option Nat} {op : Op} {c : Nat} {a : Nat} {drop : Bool} {s : State} (h0 : K s) :
    K (abortAttempt gid k op c a drop s) := by
  unfold abortAttempt
  try dsimp -proj only
  with_reducible repeat' first
    | assumption | apply updInst_keeps (hK.sub rfl) | apply closeCtx_keeps (hK.sub rfl)
    | apply dropTransfer_keeps (hK.sub rfl) | apply markDone_keeps (hK.sub rfl)
    | apply failChunk_keeps (hK.sub rfl) | apply drop_keeps (hK.sub rfl) | apply startRetry_keeps (hK.sub rfl)
    | intro _ | apply keep_forEach | intro _ | (fail_if_no_progress refine Free.mk hK ?_ (Frame.only fun p hp => by
        cases p <;> first
          | exact absurd hp (by with_unfolding_all decide) | exact rfl | exact ⟨rfl, rfl, rfl, rfl, rfl⟩))
    | apply keep_ite | split

theorem takeAbort_keeps {K : State → Prop}
    (hK : Free [.host, .pools, .groups, .bed, .ports, .routing, .traffic, .perf, .blocked, .drops, .out] K)
    {gid : Nat} {k : Nat × Option Nat} {op : Op} {c : Nat} {a : Nat} {skip : Option Nat} {drop : Bool} {s : State}
    (h0 : K s) : K (takeAbort gid k op c a skip drop s) := by
  unfold takeAbort
  try dsimp -proj only
  with_reducible repeat' first
    | assumption | apply sendAborts_keeps (hK.sub rfl) | apply abortAttempt_keeps (hK.sub rfl)
    | apply drop_keeps (hK.sub rfl) | apply keep_ite | split

theorem applyAbort_keeps {K : State → Prop}
    (hK : Free [.host, .pools, .groups, .bed, .ports, .routing, .traffic, .perf, .blocked, .drops, .out] K)
    {gid : Nat} {k : Nat × Option Nat} {op : Op} {c : Nat} {a : Nat} {s : State} (h0 : K s) :
    K (applyAbort gid k op c a s) := by
  unfold applyAbort
  with_reducible repeat' first
    | assumption | apply abortAttempt_keeps (hK.sub rfl) | apply keep_ite | split

theorem recvAbort_keeps {K : State → Prop}
    (hK : Free [.host, .pools, .groups, .bed, .ports, .routing, .traffic, .perf, .blocked, .drops, .out] K)
    {v : Via} {p : Packet} {s : State} (h0 : K s) : K (recvAbort v p s) := by
  unfold recvAbort
  try dsimp -proj only
  with_reducible repeat' first
    | assumption | apply inactiveDrop_keeps (hK.sub rfl)
    | refine nameAgain_keeps (hK.sub rfl) ?_ (by first | assumption | rfl) | apply takeAbort_keeps (hK.sub rfl)
    | apply sendAborts_keeps (hK.sub rfl) | apply updGroup_keeps (hK.sub rfl) | intro _ | apply keep_forEach
    | intro _ | (fail_if_no_progress refine Free.mk hK ?_ (Frame.only fun p hp => by
        cases p <;> first
          | exact absurd hp (by with_unfolding_all decide) | exact rfl | exact ⟨rfl, rfl, rfl, rfl, rfl⟩))
    | apply keep_ite | split

theorem laterAbort_keeps {K : State → Prop}
    (hK : Free [.host, .pools, .groups, .bed, .ports, .routing, .traffic, .perf, .blocked, .drops, .out] K)
    {p : Packet} {s : State} (h0 : K s) : K (laterAbort p s) := by
  unfold laterAbort
  try dsimp -proj only
  with_reducible repeat' first
    | assumption | apply applyAbort_keeps (hK.sub rfl) | intro _ | apply keep_forEach | intro _ | split

theorem fillOrDrop_keeps {K : State → Prop}
    (hK : Free [.host, .pools, .groups, .bed, .ports, .routing, .traffic, .perf, .blocked, .drops, .out] K)
    {gid : Nat} {k : Nat × Option Nat} {op : Op} {c : Nat} {slot : Nat} {s : State} (h0 : K s) :
    K (fillOrDrop gid k op c slot s) := by
  unfold fillOrDrop
  with_reducible repeat' first
    | assumption | apply takeAbort_keeps (hK.sub rfl) | apply count_keeps (hK.sub rfl)
    | apply fillCheck_keeps (hK.sub rfl) | apply keep_getD | intro _ _ | apply keep_ite | split

theorem intoCtx_keeps {K : State → Prop}
    (hK : Free [.host, .pools, .groups, .bed, .ports, .routing, .traffic, .perf, .blocked, .drops, .out] K)
    {gid : Nat} {k : Nat × Option Nat} {op : Op} {c : Nat} {slot : Nat} {off : Nat} {total : Nat} {v : Via}
    {p : Packet} {s : State} (h0 : K s) : K (intoCtx gid k op c slot off total v p s) := by
  unfold intoCtx
  try dsimp -proj only
  with_reducible repeat' first
    | assumption | apply dupDrop_keeps (hK.sub rfl) | apply updCtx_keeps (hK.sub rfl)
    | apply countStaged_keeps (hK.sub rfl) | apply sendTack_keeps (hK.sub rfl) | apply foldInput_keeps (hK.sub rfl)
    | apply fillOrDrop_keeps (hK.sub rfl) | apply keep_getD | intro _ _
    | (fail_if_no_progress refine Free.mk hK ?_ (Frame.only fun p hp => by
        cases p <;> first
          | exact absurd hp (by with_unfolding_all decide) | exact rfl | exact ⟨rfl, rfl, rfl, rfl, rfl⟩))
    | apply keep_ite | split

theorem contribute_keeps {K : State → Prop}
    (hK : Free [.host, .pools, .groups, .bed, .ports, .routing, .traffic, .perf, .blocked, .drops, .out] K)
    {gid : Nat} {k : Nat × Option Nat} {op : Op} {c : Nat} {a : Nat} {slot : Nat} {off : Nat} {total : Nat}
    {v : Via} {p : Packet} {s : State} (h0 : K s) : K (contribute gid k op c a slot off total v p s) := by
  unfold contribute
  try dsimp -proj only
  with_reducible repeat' first
    | assumption | apply takeAbort_keeps (hK.sub rfl) | apply dupDrop_keeps (hK.sub rfl)
    | apply intoCtx_keeps (hK.sub rfl) | apply hold_keeps (hK.sub rfl) | apply drop_keeps (hK.sub rfl)
    | refine openCtx_keeps (hK.sub rfl) ?_ (by first | assumption | rfl) | apply keep_ite | split

theorem openBuf_keeps {K : State → Prop} (hK : Free [.host, .pools, .groups, .perf, .blocked, .out] K) {gid : Nat} {p : Packet} {s : State} (h0 : K s) {r1}
    {st1 : State} (he : openBuf gid p s = some (r1, st1)) : K st1 := by
  unfold openBuf at he
  extract_lets u at he
  have hu : K u := by
    simp only [u]
    split
    · exact freeHeld_keeps (hK.sub rfl) h0
    · exact h0
  split at he
  · split at he
    · injection he with he
      exact takeBuffer_keeps (hK.sub rfl) hu he
    · cases he
  · cases he

theorem bufferFor_keeps {K : State → Prop} (hK : Free [.host, .pools, .groups, .perf, .blocked, .out] K)
    {gid : Nat} {b : PartBuf} {p : Packet} {s : State} (h0 : K s) {r1} {st1 : State}
    (he : bufferFor gid b p s = some (r1, st1)) : K st1 := by
  unfold bufferFor at he
  repeat' (split at he)
  all_goals (try first | contradiction | cases he)
  with_reducible repeat' first
    | assumption | refine openBuf_keeps (hK.sub rfl) ?_ (by first | assumption | rfl) | split

theorem intoBuf_keeps {K : State → Prop} (hK : Free [.host, .pools, .groups, .perf, .blocked, .drops, .out] K)
    {gid : Nat} {k : Nat × Option Nat} {key : PartBuf} {off : Nat} {total : Nat} {v : Via} {p : Packet} {s : State}
    (h0 : K s) {r1} {st1 : State} (he : intoBuf gid k key off total v p s = (st1, r1)) : K st1 := by
  unfold intoBuf at he
  try dsimp -proj only at he
  repeat' (split at he)
  all_goals (try first | contradiction | cases he)
  try dsimp -proj only
  with_reducible repeat' first
    | assumption | apply dupDrop_keeps (hK.sub rfl)
    | refine bufferFor_keeps (hK.sub rfl) ?_ (by first | assumption | rfl) | apply hold_keeps (hK.sub rfl)
    | apply countStaged_keeps (hK.sub rfl) | apply updInst_keeps (hK.sub rfl)
    | (fail_if_no_progress refine Free.mk hK ?_ (Frame.only fun p hp => by
        cases p <;> first
          | exact absurd hp (by with_unfolding_all decide) | exact rfl | exact ⟨rfl, rfl, rfl, rfl, rfl⟩))
    | apply keep_ite | split

theorem foldCounts_keeps {K : State → Prop} (hK : Free [.groups] K) {gid : Nat} {seq : Nat} {s : State}
    (h0 : K s) : K (foldCounts gid seq s) := by
  unfold foldCounts
  try dsimp -proj only
  with_reducible repeat' first
    | assumption | apply updOp_keeps (hK.sub rfl)
    | (fail_if_no_progress refine Free.mk hK ?_ (Frame.only fun p hp => by
        cases p <;> first
          | exact absurd hp (by with_unfolding_all decide) | exact rfl | exact ⟨rfl, rfl, rfl, rfl, rfl⟩))
    | apply keep_ite | split

theorem noteCounts_keeps {K : State → Prop} (hK : Free [.groups] K) {gid : Nat} {seq : Nat} {rank : Nat}
    {bs : List Byte} {s : State} (h0 : K s) : K (noteCounts gid seq rank bs s) := by
  unfold noteCounts
  with_reducible repeat' first
    | assumption | apply foldCounts_keeps (hK.sub rfl) | apply updOp_keeps (hK.sub rfl)
    | (fail_if_no_progress refine Free.mk hK ?_ (Frame.only fun p hp => by
        cases p <;> first
          | exact absurd hp (by with_unfolding_all decide) | exact rfl | exact ⟨rfl, rfl, rfl, rfl, rfl⟩))
    | apply keep_ite | split

theorem forward_keeps {K : State → Prop}
    (hK : Free [.host, .pools, .groups, .bed, .ports, .routing, .traffic, .perf, .blocked, .drops, .out] K)
    {g : Group} {op : Op} {i : Inst} {c : Nat} {fl : BitVec 6} {bs : List Byte} {src : Nat} {s : State}
    (h0 : K s) : K (forward g op i c fl bs src s) := by
  unfold forward
  try dsimp -proj only
  with_reducible repeat' first
    | assumption | apply updInst_keeps (hK.sub rfl) | apply sendUp_keeps (hK.sub rfl)
    | apply dispatch_keeps (hK.sub rfl) | apply noteCounts_keeps (hK.sub rfl)
    | apply releaseHolder_keeps (hK.sub rfl) | apply phaseX_keeps (hK.sub rfl)
    | (fail_if_no_progress refine Free.mk hK ?_ (Frame.only fun p hp => by
        cases p <;> first
          | exact absurd hp (by with_unfolding_all decide) | exact rfl | exact ⟨rfl, rfl, rfl, rfl, rfl⟩))
    | apply keep_ite | split

theorem contributeFwd_keeps {K : State → Prop}
    (hK : Free [.host, .pools, .groups, .bed, .ports, .routing, .traffic, .perf, .blocked, .drops, .out] K)
    {g : Group} {op : Op} {i : Inst} {c : Nat} {slot : Nat} {off : Nat} {v : Via} {p : Packet} {s : State}
    (h0 : K s) : K (contributeFwd g op i c slot off v p s) := by
  unfold contributeFwd
  try dsimp -proj only
  with_reducible repeat' first
    | assumption | apply dupDrop_keeps (hK.sub rfl) | apply hold_keeps (hK.sub rfl)
    | refine intoBuf_keeps (hK.sub rfl) ?_ (by first | assumption | rfl) | apply sendTack_keeps (hK.sub rfl)
    | apply foldInput_keeps (hK.sub rfl) | apply forward_keeps (hK.sub rfl) | apply keep_ite | split

theorem tackHeld_keeps {K : State → Prop}
    (hK : Free [.host, .pools, .groups, .ports, .routing, .traffic, .perf, .blocked, .drops, .out] K) {gid : Nat} {op : Op}
    {node : Nat} {c : Nat} {slot : Nat} {attempt : Nat} {total : Nat} {v : Via} {p : Packet} {s : State} (h0 : K s) :
    K (tackHeld gid op node c slot attempt total v p s) := by
  unfold tackHeld
  try dsimp -proj only
  with_reducible repeat' first
    | assumption | apply sendTack_keeps (hK.sub rfl) | apply updGroup_keeps (hK.sub rfl) | apply keep_ite | split

theorem nameUp_keeps {K : State → Prop} (hK : Free [.groups] K) {g : Group} {p : Packet} {s : State} (h0 : K s)
    {r1} {st1 : State} (he : nameUp g p s = (st1, r1)) : K st1 := by
  unfold nameUp at he
  repeat' (split at he)
  all_goals (try first | contradiction | cases he)
  with_reducible repeat' first
    | assumption | refine nameAgain_keeps (hK.sub rfl) ?_ (by first | assumption | rfl) | apply keep_ite | split

theorem recvUp_keeps {K : State → Prop}
    (hK : Free [.host, .pools, .groups, .bed, .ports, .routing, .traffic, .perf, .blocked, .drops, .out] K)
    {v : Via} {p : Packet} {s : State} (h0 : K s) : K (recvUp v p s) := by
  unfold recvUp
  try dsimp -proj only
  with_reducible repeat' first
    | assumption | apply inactiveDrop_keeps (hK.sub rfl) | apply malDrop_keeps (hK.sub rfl)
    | refine nameUp_keeps (hK.sub rfl) ?_ (by first | assumption | rfl) | apply dupDrop_keeps (hK.sub rfl)
    | apply hold_keeps (hK.sub rfl) | apply tackHeld_keeps (hK.sub rfl) | apply contribute_keeps (hK.sub rfl)
    | apply contributeFwd_keeps (hK.sub rfl) | apply keep_ite | split

theorem signalRelease_keeps {K : State → Prop}
    (hK : Free [.host, .rows, .pools, .groups, .ports, .routing, .traffic, .perf, .blocked, .drops, .out] K)
    {gid : Nat} {seq : Nat} {s : State} (h0 : K s) : K (signalRelease gid seq s) := by
  unfold signalRelease
  with_reducible repeat' first
    | assumption | apply addRow_keeps (hK.sub rfl) | apply updOp_keeps (hK.sub rfl)
    | (fail_if_no_progress refine Free.mk hK ?_ (Frame.only fun p hp => by
        cases p <;> first
          | exact absurd hp (by with_unfolding_all decide) | exact rfl | exact ⟨rfl, rfl, rfl, rfl, rfl⟩))
    | apply keep_ite | split

theorem recvArrive_keeps {K : State → Prop}
    (hK : Free [.host, .rows, .pools, .groups, .bed, .ports, .routing, .traffic, .perf, .blocked, .drops, .out] K)
    {v : Via} {p : Packet} {s : State} (h0 : K s) : K (recvArrive v p s) := by
  unfold recvArrive
  try dsimp -proj only
  with_reducible repeat' first
    | assumption | apply inactiveDrop_keeps (hK.sub rfl) | apply malDrop_keeps (hK.sub rfl)
    | apply dupDrop_keeps (hK.sub rfl) | apply hold_keeps (hK.sub rfl) | apply signalRelease_keeps (hK.sub rfl)
    | apply tackHeld_keeps (hK.sub rfl) | apply contribute_keeps (hK.sub rfl) | apply keep_ite | split

theorem sendDownCredit_keeps {K : State → Prop}
    (hK : Free [.host, .pools, .groups, .ports, .routing, .traffic, .perf, .blocked, .drops, .out] K) {gid : Nat}
    {k : Nat × Option Nat} {s : State} (h0 : K s) : K (sendDownCredit gid k s) := by
  unfold sendDownCredit
  with_reducible repeat' first
    | assumption | apply updInst_keeps (hK.sub rfl) | apply sendCtl_keeps (hK.sub rfl) | intro _
    | apply keep_forEach | intro _ | (fail_if_no_progress refine Free.mk hK ?_ (Frame.only fun p hp => by
        cases p <;> first
          | exact absurd hp (by with_unfolding_all decide) | exact rfl | exact ⟨rfl, rfl, rfl, rfl, rfl⟩))
    | apply keep_ite | split

theorem advanceDown_keeps {K : State → Prop}
    (hK : Free [.host, .pools, .groups, .ports, .routing, .traffic, .perf, .blocked, .drops, .out] K) {gid : Nat}
    {k : Nat × Option Nat} {s : State} (h0 : K s) : K (advanceDown gid k s) := by
  unfold advanceDown
  try dsimp -proj only
  with_reducible repeat' first
    | assumption | apply sendDownCredit_keeps (hK.sub rfl) | apply updInst_keeps (hK.sub rfl)
    | (fail_if_no_progress refine Free.mk hK ?_ (Frame.only fun p hp => by
        cases p <;> first
          | exact absurd hp (by with_unfolding_all decide) | exact rfl | exact ⟨rfl, rfl, rfl, rfl, rfl⟩))
    | apply keep_ite | split

theorem recvDown_keeps {K : State → Prop}
    (hK : Free [.host, .pools, .groups, .ports, .routing, .traffic, .perf, .blocked, .drops, .out] K) {v : Via}
    {p : Packet} {s : State} (h0 : K s) : K (recvDown v p s) := by
  unfold recvDown
  try dsimp -proj only
  with_reducible repeat' first
    | assumption | apply inactiveDrop_keeps (hK.sub rfl) | apply malDrop_keeps (hK.sub rfl)
    | apply hold_keeps (hK.sub rfl) | apply dupDrop_keeps (hK.sub rfl)
    | refine intoBuf_keeps (hK.sub rfl) ?_ (by first | assumption | rfl) | apply sendTack_keeps (hK.sub rfl)
    | apply noteCounts_keeps (hK.sub rfl) | apply advanceDown_keeps (hK.sub rfl)
    | apply sendDown_keeps (hK.sub rfl) | apply keep_ite | split

theorem recvRelease_keeps {K : State → Prop}
    (hK : Free [.host, .rows, .pools, .groups, .ports, .routing, .traffic, .perf, .blocked, .drops, .out] K)
    {v : Via} {p : Packet} {s : State} (h0 : K s) : K (recvRelease v p s) := by
  unfold recvRelease
  try dsimp -proj only
  with_reducible repeat' first
    | assumption | apply inactiveDrop_keeps (hK.sub rfl) | apply malDrop_keeps (hK.sub rfl)
    | apply hold_keeps (hK.sub rfl) | apply dupDrop_keeps (hK.sub rfl) | apply sendTack_keeps (hK.sub rfl)
    | apply signalRelease_keeps (hK.sub rfl) | apply sendDown_keeps (hK.sub rfl) | apply keep_ite | split

theorem sendA2a_keeps {K : State → Prop}
    (hK : Free [.host, .pools, .groups, .ports, .routing, .traffic, .perf, .blocked, .drops, .out] K) {g : Group}
    {op : Op} {i : Inst} {a : Nat} {b : Nat} {c : Nat} {bs : List Byte} {src : Nat} {s : State} (h0 : K s) :
    K (sendA2a g op i a b c bs src s) := by
  unfold sendA2a
  try dsimp -proj only
  with_reducible repeat' first
    | assumption | apply releaseHolder_keeps (hK.sub rfl) | apply addTransfers_keeps (hK.sub rfl) | apply keep_ite
    | split

theorem foldSegment_keeps {K : State → Prop} (hK : Free [.groups] K) {g : Group} {op : Op} {a : Nat} {b : Nat}
    {c : Nat} {bs : List Byte} {s : State} (h0 : K s) : K (foldSegment g op a b c bs s) := by
  unfold foldSegment
  try dsimp -proj only
  with_reducible repeat' first
    | assumption | apply updOp_keeps (hK.sub rfl)
    | (fail_if_no_progress refine Free.mk hK ?_ (Frame.only fun p hp => by
        cases p <;> first
          | exact absurd hp (by with_unfolding_all decide) | exact rfl | exact ⟨rfl, rfl, rfl, rfl, rfl⟩))
    | apply keep_ite | split

theorem recvA2a_keeps {K : State → Prop}
    (hK : Free [.host, .pools, .groups, .ports, .routing, .traffic, .perf, .blocked, .drops, .out] K) {down : Bool}
    {v : Via} {p : Packet} {s : State} (h0 : K s) : K (recvA2a down v p s) := by
  unfold recvA2a
  try dsimp -proj only
  with_reducible repeat' first
    | assumption | apply inactiveDrop_keeps (hK.sub rfl) | apply malDrop_keeps (hK.sub rfl)
    | apply hold_keeps (hK.sub rfl) | apply dupDrop_keeps (hK.sub rfl)
    | refine intoBuf_keeps (hK.sub rfl) ?_ (by first | assumption | rfl) | apply sendTack_keeps (hK.sub rfl)
    | apply foldSegment_keeps (hK.sub rfl) | apply sendA2a_keeps (hK.sub rfl) | apply keep_ite | split

theorem recvCredit_keeps {K : State → Prop}
    (hK : Free [.host, .pools, .groups, .ports, .routing, .traffic, .perf, .blocked, .drops, .out] K) {v : Via}
    {p : Packet} {s : State} (h0 : K s) : K (recvCredit v p s) := by
  unfold recvCredit
  try dsimp -proj only
  with_reducible repeat' first
    | assumption | apply inactiveDrop_keeps (hK.sub rfl) | apply updGroup_keeps (hK.sub rfl)
    | apply flushTransfers_keeps (hK.sub rfl) | (fail_if_no_progress refine Free.mk hK ?_ (Frame.only fun p hp => by
        cases p <;> first
          | exact absurd hp (by with_unfolding_all decide) | exact rfl | exact ⟨rfl, rfl, rfl, rfl, rfl⟩))
    | apply keep_ite | split

theorem afterTack_keeps {K : State → Prop}
    (hK : Free [.host, .rows, .pools, .groups, .ports, .routing, .traffic, .perf, .blocked, .drops, .out] K)
    {gid : Nat} {t : Transfer} {s : State} (h0 : K s) : K (afterTack gid t s) := by
  unfold afterTack
  try dsimp -proj only
  with_reducible repeat' first
    | assumption | apply startRetry_keeps (hK.sub rfl) | apply markDone_keeps (hK.sub rfl)
    | apply closeCtx_keeps (hK.sub rfl) | apply rootCheck_keeps (hK.sub rfl) | apply advanceDown_keeps (hK.sub rfl)
    | apply updOp_keeps (hK.sub rfl) | apply addRow_keeps (hK.sub rfl)
    | (fail_if_no_progress refine Free.mk hK ?_ (Frame.only fun p hp => by
        cases p <;> first
          | exact absurd hp (by with_unfolding_all decide) | exact rfl | exact ⟨rfl, rfl, rfl, rfl, rfl⟩))
    | apply keep_ite | split

theorem recvTack_keeps {K : State → Prop}
    (hK : Free [.host, .rows, .pools, .groups, .ports, .routing, .traffic, .perf, .blocked, .drops, .out] K)
    {v : Via} {p : Packet} {s : State} (h0 : K s) : K (recvTack v p s) := by
  unfold recvTack
  try dsimp -proj only
  with_reducible repeat' first
    | assumption | apply inactiveDrop_keeps (hK.sub rfl) | apply flushTransfers_keeps (hK.sub rfl)
    | apply afterTack_keeps (hK.sub rfl) | apply dropTransfer_keeps (hK.sub rfl) | split

theorem sendHeld_keeps {K : State → Prop}
    (hK : Free [.host, .pools, .ports, .routing, .traffic, .perf, .blocked, .drops, .out] K) {q : Packet}
    {s : State} (h0 : K s) : K (sendHeld q s) := by
  unfold sendHeld
  with_reducible repeat' first
    | assumption | apply originateOwn_keeps (hK.sub rfl) | apply keep_ite | split

theorem recvCNack_keeps {K : State → Prop}
    (hK : Free [.host, .pools, .groups, .ports, .routing, .traffic, .flows, .perf, .blocked, .drops, .out] K)
    {port : Nat} {p : Packet} {s : State} (h0 : K s) : K (recvCNack port p s) := by
  unfold recvCNack
  try dsimp -proj only
  with_reducible repeat' first
    | assumption | apply inactiveDrop_keeps (hK.sub rfl) | apply sendHeld_keeps (hK.sub rfl)
    | apply updGroup_keeps (hK.sub rfl) | apply reportRefused_keeps (hK.sub rfl) | apply keep_ite | split

theorem resendLeaving_keeps {K : State → Prop}
    (hK : Free [.host, .pools, .groups, .ports, .routing, .traffic, .perf, .blocked, .drops, .out] K) {gid : Nat}
    {s : State} (h0 : K s) : K (resendLeaving gid s) := by
  unfold resendLeaving
  try dsimp -proj only
  with_reducible repeat' first
    | assumption | apply sendHeld_keeps (hK.sub rfl) | apply updGroup_keeps (hK.sub rfl) | intro _
    | apply keep_forEach | intro _ | (fail_if_no_progress refine Free.mk hK ?_ (Frame.only fun p hp => by
        cases p <;> first
          | exact absurd hp (by with_unfolding_all decide) | exact rfl | exact ⟨rfl, rfl, rfl, rfl, rfl⟩))
    | apply keep_ite | split

theorem receive_keeps {K : State → Prop}
    (hK : Free [.host, .rows, .pools, .groups, .bed, .ports, .routing, .traffic, .perf, .blocked, .drops, .out] K)
    {v : Via} {p : Packet} {s : State} (h0 : K s) : K (receive v p s) := by
  unfold receive
  with_reducible repeat' first
    | assumption | apply recvUp_keeps (hK.sub rfl) | apply recvDown_keeps (hK.sub rfl)
    | apply recvA2a_keeps (hK.sub rfl) | apply recvArrive_keeps (hK.sub rfl) | apply recvRelease_keeps (hK.sub rfl)
    | split

theorem trimHeld_keeps {K : State → Prop} (hK : Free [.host, .pools, .groups, .perf, .blocked, .out] K)
    {gid : Nat} {s : State} (h0 : K s) : K (trimHeld gid s) := by
  unfold trimHeld
  with_reducible repeat' first
    | assumption | apply freeHeld_keeps (hK.sub rfl) | split

theorem replayHeld_keeps {K : State → Prop}
    (hK : Free [.host, .rows, .pools, .groups, .bed, .ports, .routing, .traffic, .perf, .blocked, .drops, .out] K)
    {gid : Nat} {s : State} (h0 : K s) : K (replayHeld gid s) := by
  unfold replayHeld
  try dsimp -proj only
  with_reducible repeat' first
    | assumption | apply updGroup_keeps (hK.sub rfl) | apply trimHeld_keeps (hK.sub rfl)
    | apply receive_keeps (hK.sub rfl) | apply laterAbort_keeps (hK.sub rfl) | intro _ | apply keep_forEach
    | intro _ | (fail_if_no_progress refine Free.mk hK ?_ (Frame.only fun p hp => by
        cases p <;> first
          | exact absurd hp (by with_unfolding_all decide) | exact rfl | exact ⟨rfl, rfl, rfl, rfl, rfl⟩)) | split

theorem pauseCheck_keeps {K : State → Prop} (hK : Free [.host, .groups, .blocked, .out] K) {gid : Nat}
    {s : State} (h0 : K s) : K (pauseCheck gid s) := by
  unfold pauseCheck
  with_reducible repeat' first
    | assumption | apply ok_keeps (hK.sub rfl) | apply updGroup_keeps (hK.sub rfl) | intro _ | apply keep_forEach
    | intro _ | (fail_if_no_progress refine Free.mk hK ?_ (Frame.only fun p hp => by
        cases p <;> first
          | exact absurd hp (by with_unfolding_all decide) | exact rfl | exact ⟨rfl, rfl, rfl, rfl, rfl⟩))
    | apply keep_ite | split

theorem sendLeave_keeps {K : State → Prop}
    (hK : Free [.host, .pools, .ports, .routing, .traffic, .perf, .blocked, .drops, .out] K) {g : Group}
    {s : State} (h0 : K s) : K (sendLeave g s) := by
  unfold sendLeave
  with_reducible repeat' first
    | assumption | apply sendCtl_keeps (hK.sub rfl) | intro _ | (unfold id; assumption) | apply keep_forEach
    | intro _

theorem endGroup_keeps {K : State → Prop}
    (hK : Free [.host, .rows, .slots, .pools, .hanks, .groups, .bed, .ports, .routing, .traffic, .perf, .blocked, .drops, .out] K)
    {g : Group} {keep : List Nat} {s : State} (h0 : K s) : K (endGroup g keep s) := by
  unfold endGroup
  with_reducible repeat' first
    | assumption | apply sendLeave_keeps (hK.sub rfl) | apply releaseGroup_keeps (hK.sub rfl)
    | apply releaseRows_keeps (hK.sub rfl)

theorem bindCheck_keeps {K : State → Prop}
    (hK : Free [.host, .rows, .slots, .pools, .hanks, .groups, .bed, .ports, .routing, .traffic, .perf, .blocked, .drops, .out] K)
    {gid : Nat} {s : State} (h0 : K s) : K (bindCheck gid s) := by
  unfold bindCheck
  with_reducible repeat' first
    | assumption | apply ok_keeps (hK.sub rfl) | apply endGroup_keeps (hK.sub rfl) | apply keep_ite | split

theorem settleOps_keeps {K : State → Prop} (hK : Free [.host, .rows, .pools, .hanks, .groups, .bed, .ports, .routing, .traffic, .flows, .course, .perf, .blocked, .drops, .out] K) {gid : Nat} : ∀ {k : Nat} {s : State}, K s →
    K (settleOps gid k s) := by
  intro k
  induction k with
  | zero => intro s h0; exact h0
  | succ k ih =>
    intro s h0
    unfold settleOps
    try dsimp -proj only
    with_reducible repeat' first
      | assumption | apply ih | apply finishOps_keeps (hK.sub rfl) | apply takeQueue_keeps (hK.sub rfl)
      | apply replayHeld_keeps (hK.sub rfl)
      | apply keep_ite | split

theorem settle_keeps {K : State → Prop}
    (hK : Free [.host, .rows, .slots, .pools, .hanks, .groups, .bed, .ports, .routing, .traffic, .flows, .course, .perf, .blocked, .drops, .out] K)
    {gid : Nat} {s : State} (h0 : K s) : K (settle gid s) := by
  unfold settle
  try dsimp -proj only
  with_reducible repeat' first
    | assumption | apply settleOps_keeps (hK.sub rfl) | apply startRetries_keeps (hK.sub rfl)
    | apply replayHeld_keeps (hK.sub rfl) | apply flushTransfers_keeps (hK.sub rfl)
    | apply pauseCheck_keeps (hK.sub rfl) | apply secureCheck_keeps (hK.sub rfl)
    | apply bindCheck_keeps (hK.sub rfl) | split

end Sys2Proof.Machine
end

