-- ==== Sys2Proof/Laws/FrameGroup.lean ====
section
/-!
SUPPORT. Frames, of groups, remote access and recovery: for each
function, the parts of the state it may change; a property free of them is kept.
-/
set_option linter.unusedVariables false
set_option linter.unusedTactic false
set_option linter.unreachableTactic false

namespace Sys2Proof.Machine

theorem castAll_keeps {K : State → Prop}
    (hK : Free [.host, .pools, .ports, .routing, .traffic, .perf, .blocked, .drops, .out] K) {type : Nat}
    {r : Record} {status : Nat} {s : State} (h0 : K s) : K (castAll type r status s) := by
  unfold castAll
  with_reducible repeat' first
    | assumption | apply sendCtl_keeps (hK.sub rfl) | intro _ | apply keep_forEach | intro _

theorem sendJoin_keeps {K : State → Prop}
    (hK : Free [.host, .pools, .ports, .routing, .traffic, .perf, .blocked, .drops, .out] K) {g : Group}
    {s : State} (h0 : K s) : K (sendJoin g s) := by
  unfold sendJoin
  try dsimp -proj only
  with_reducible repeat' first
    | assumption | apply sendCtl_keeps (hK.sub rfl) | intro _ | (unfold id; assumption) | apply keep_forEach
    | intro _ | split

theorem refillShards_keeps {K : State → Prop} (hK : Free [.groups, .course] K) {g : Group} {owner : Bool}
    {here : Bool} {s : State} (h0 : K s) : K (refillShards g owner here s) := by
  unfold refillShards
  with_reducible repeat' first
    | assumption | apply updGroup_keeps (hK.sub rfl)
    | (fail_if_no_progress refine Free.mk hK ?_ (Frame.only fun p hp => by
        cases p <;> first
          | exact absurd hp (by with_unfolding_all decide) | exact rfl | exact ⟨rfl, rfl, rfl, rfl, rfl⟩))
    | apply keep_ite | split

theorem startRefill_keeps {K : State → Prop} (hK : Free [.groups, .course] K) {g : Group} {s : State}
    (h0 : K s) : K (startRefill g s) := by
  unfold startRefill
  try dsimp -proj only
  with_reducible repeat' first
    | assumption | apply refillShards_keeps (hK.sub rfl) | apply keep_ite | split

theorem clearReturned_keeps {K : State → Prop} (hK : Free [.course] K) {g : Group} {s : State} (h0 : K s) :
    K (clearReturned g s) := by
  unfold clearReturned
  with_reducible repeat' first
    | assumption | intro _ | apply keep_forEach | intro _
    | (fail_if_no_progress refine Free.mk hK ?_ (Frame.only fun p hp => by
        cases p <;> first
          | exact absurd hp (by with_unfolding_all decide) | exact rfl | exact ⟨rfl, rfl, rfl, rfl, rfl⟩))

theorem castActive_keeps {K : State → Prop}
    (hK : Free [.host, .rows, .slots, .pools, .hanks, .groups, .bed, .ports, .routing, .traffic, .flows, .course, .perf, .blocked, .drops, .out] K)
    {gid : Nat} {s : State} (h0 : K s) : K (castActive gid s) := by
  unfold castActive
  try dsimp -proj only
  with_reducible repeat' first
    | assumption | apply updGroup_keeps (hK.sub rfl) | apply setRow_keeps (hK.sub rfl)
    | apply sendJoin_keeps (hK.sub rfl) | apply clearReturned_keeps (hK.sub rfl)
    | apply startRefill_keeps (hK.sub rfl) | apply settle_keeps (hK.sub rfl) | apply ok_keeps (hK.sub rfl)
    | intro _ | apply keep_forEach | intro _ | (fail_if_no_progress refine Free.mk hK ?_ (Frame.only fun p hp => by
        cases p <;> first
          | exact absurd hp (by with_unfolding_all decide) | exact rfl | exact ⟨rfl, rfl, rfl, rfl, rfl⟩)) | split

theorem castEnds_keeps {K : State → Prop}
    (hK : Free [.host, .slots, .pools, .hanks, .groups, .bed, .perf, .blocked, .out] K) {gid : Nat} {status : Nat}
    {s : State} (h0 : K s) : K (castEnds gid status s) := by
  unfold castEnds
  try dsimp -proj only
  with_reducible repeat' first
    | assumption | apply releaseGroup_keeps (hK.sub rfl) | apply bad_keeps (hK.sub rfl)
    | apply complete_keeps (hK.sub rfl) | intro _ | apply keep_forEach | intro _ | apply keep_ite | split

theorem castAborts_keeps {K : State → Prop}
    (hK : Free [.host, .slots, .pools, .hanks, .groups, .bed, .ports, .routing, .traffic, .perf, .blocked, .drops, .out] K)
    {gid : Nat} {status : Nat} {s : State} (h0 : K s) : K (castAborts gid status s) := by
  unfold castAborts
  with_reducible repeat' first
    | assumption | apply castEnds_keeps (hK.sub rfl) | apply castAll_keeps (hK.sub rfl) | split

theorem failsHere_keeps {K : State → Prop}
    (hK : Free [.host, .slots, .pools, .hanks, .groups, .bed, .ports, .routing, .traffic, .perf, .blocked, .drops, .out] K)
    {r : Record} {status : Nat} {s : State} (h0 : K s) : K (failsHere r status s) := by
  unfold failsHere
  with_reducible repeat' first
    | assumption | apply castAborts_keeps (hK.sub rfl) | apply castAll_keeps (hK.sub rfl) | apply keep_ite | split

theorem castFails_keeps {K : State → Prop}
    (hK : Free [.host, .slots, .pools, .hanks, .groups, .bed, .ports, .routing, .traffic, .perf, .blocked, .drops, .out] K)
    {t : Tok} {r : Record} {n : Nat} {s : State} (h0 : K s) : K (castFails t r n s) := by
  unfold castFails
  try dsimp -proj only
  with_reducible repeat' first
    | assumption | apply failsHere_keeps (hK.sub rfl) | apply sendCtl_keeps (hK.sub rfl)
    | apply complete_keeps (hK.sub rfl) | apply keep_ite | split

theorem castGoes_keeps {K : State → Prop}
    (hK : Free [.host, .rows, .slots, .pools, .hanks, .groups, .bed, .ports, .routing, .traffic, .flows, .course, .perf, .blocked, .drops, .out] K)
    {gid : Nat} {s : State} (h0 : K s) : K (castGoes gid s) := by
  unfold castGoes
  with_reducible repeat' first
    | assumption | apply castActive_keeps (hK.sub rfl) | apply castAll_keeps (hK.sub rfl)
    | apply updGroup_keeps (hK.sub rfl) | (fail_if_no_progress refine Free.mk hK ?_ (Frame.only fun p hp => by
        cases p <;> first
          | exact absurd hp (by with_unfolding_all decide) | exact rfl | exact ⟨rfl, rfl, rfl, rfl, rfl⟩))
    | apply keep_ite | split

theorem castReserved_keeps {K : State → Prop}
    (hK : Free [.host, .rows, .slots, .pools, .hanks, .groups, .bed, .ports, .routing, .traffic, .flows, .course, .perf, .blocked, .drops, .out] K)
    {t : Tok} {g : Group} {s : State} (h0 : K s) : K (castReserved t g s) := by
  unfold castReserved
  try dsimp -proj only
  with_reducible repeat' first
    | assumption | apply castGoes_keeps (hK.sub rfl) | apply sendCtl_keeps (hK.sub rfl)
    | (fail_if_no_progress refine Free.mk hK ?_ (Frame.only fun p hp => by
        cases p <;> first
          | exact absurd hp (by with_unfolding_all decide) | exact rfl | exact ⟨rfl, rfl, rfl, rfl, rfl⟩))
    | apply keep_ite | split

theorem castOn_keeps {K : State → Prop}
    (hK : Free [.host, .rows, .slots, .pools, .skeinMem, .hanks, .groups, .bed, .ports, .routing, .traffic, .flows, .course, .perf, .blocked, .drops, .out] K)
    {d : Desc} {h : HostRead} {t : Tok} {s : State} (h0 : K s) : K (castOn d h t s) := by
  unfold castOn
  try dsimp -proj only
  with_reducible repeat' first
    | assumption | apply complete_keeps (hK.sub rfl) | apply noteRead_keeps (hK.sub rfl)
    | apply castFails_keeps (hK.sub rfl) | refine reserveGroup_keeps (hK.sub rfl) ?_ (by first | assumption | rfl)
    | apply castReserved_keeps (hK.sub rfl) | apply keep_ite | split

theorem execCastOn_keeps {K : State → Prop}
    (hK : Free [.host, .rows, .slots, .pools, .skeinMem, .hanks, .groups, .bed, .ports, .routing, .traffic, .flows, .course, .perf, .blocked, .drops, .out] K)
    {sq : BitVec 8} {d : Desc} {host : HostRead} {s : State} (h0 : K s) {st1 : State}
    (he : execCastOn sq d host s = .next st1) : K st1 := by
  unfold execCastOn at he
  repeat' (split at he)
  all_goals (injection he with he; subst he)
  with_reducible repeat' first
    | assumption | apply castOn_keeps (hK.sub rfl) | intro _ | apply runCommand_keeps (hK.sub rfl) | intro _

theorem recvReady_keeps {K : State → Prop}
    (hK : Free [.host, .rows, .slots, .pools, .hanks, .groups, .bed, .ports, .routing, .traffic, .flows, .course, .perf, .blocked, .drops, .out] K)
    {p : Packet} {s : State} (h0 : K s) : K (recvReady p s) := by
  unfold recvReady
  try dsimp -proj only
  with_reducible repeat' first
    | assumption | apply sendCtl_keeps (hK.sub rfl) | apply castAborts_keeps (hK.sub rfl)
    | apply castGoes_keeps (hK.sub rfl) | apply updGroup_keeps (hK.sub rfl)
    | (fail_if_no_progress refine Free.mk hK ?_ (Frame.only fun p hp => by
        cases p <;> first
          | exact absurd hp (by with_unfolding_all decide) | exact rfl | exact ⟨rfl, rfl, rfl, rfl, rfl⟩))
    | apply keep_ite | split

theorem execCastReady_keeps {K : State → Prop}
    (hK : Free [.host, .rows, .slots, .pools, .hanks, .groups, .bed, .ports, .routing, .traffic, .flows, .course, .perf, .blocked, .drops, .out] K)
    {p : Packet} {s : State} (h0 : K s) {st1 : State} (he : execCastReady p s = .next st1) : K st1 := by
  unfold execCastReady at he
  repeat' (split at he)
  all_goals (injection he with he; subst he)
  with_reducible repeat' first
    | assumption | apply recvReady_keeps (hK.sub rfl) | apply consume_keeps (hK.sub rfl)

theorem recvFail_keeps {K : State → Prop}
    (hK : Free [.host, .slots, .pools, .hanks, .groups, .bed, .ports, .routing, .traffic, .perf, .blocked, .drops, .out] K)
    {p : Packet} {s : State} (h0 : K s) : K (recvFail p s) := by
  unfold recvFail
  with_reducible repeat' first
    | assumption | apply castAborts_keeps (hK.sub rfl) | apply keep_ite | split

theorem execCastFail_keeps {K : State → Prop}
    (hK : Free [.host, .slots, .pools, .hanks, .groups, .bed, .ports, .routing, .traffic, .perf, .blocked, .drops, .out] K)
    {p : Packet} {s : State} (h0 : K s) {st1 : State} (he : execCastFail p s = .next st1) : K st1 := by
  unfold execCastFail at he
  repeat' (split at he)
  all_goals (injection he with he; subst he)
  with_reducible repeat' first
    | assumption | apply recvFail_keeps (hK.sub rfl) | apply consume_keeps (hK.sub rfl)

theorem recvGo_keeps {K : State → Prop}
    (hK : Free [.host, .rows, .slots, .pools, .hanks, .groups, .bed, .ports, .routing, .traffic, .flows, .course, .perf, .blocked, .drops, .out] K)
    {p : Packet} {s : State} (h0 : K s) : K (recvGo p s) := by
  unfold recvGo
  with_reducible repeat' first
    | assumption | apply castActive_keeps (hK.sub rfl) | apply keep_ite | split

theorem execCastGo_keeps {K : State → Prop}
    (hK : Free [.host, .rows, .slots, .pools, .hanks, .groups, .bed, .ports, .routing, .traffic, .flows, .course, .perf, .blocked, .drops, .out] K)
    {p : Packet} {s : State} (h0 : K s) {st1 : State} (he : execCastGo p s = .next st1) : K st1 := by
  unfold execCastGo at he
  repeat' (split at he)
  all_goals (injection he with he; subst he)
  with_reducible repeat' first
    | assumption | apply recvGo_keeps (hK.sub rfl) | apply consume_keeps (hK.sub rfl)

theorem execCastAbort_keeps {K : State → Prop}
    (hK : Free [.host, .slots, .pools, .hanks, .groups, .bed, .ports, .routing, .perf, .blocked, .out] K)
    {p : Packet} {s : State} (h0 : K s) {st1 : State} (he : execCastAbort p s = .next st1) : K st1 := by
  unfold execCastAbort at he
  repeat' (split at he)
  all_goals (injection he with he; subst he)
  with_reducible repeat' first
    | assumption | apply castEnds_keeps (hK.sub rfl) | apply consume_keeps (hK.sub rfl)

theorem castExpiry_keeps {K : State → Prop}
    (hK : Free [.host, .slots, .pools, .hanks, .groups, .bed, .ports, .routing, .traffic, .perf, .blocked, .drops, .out] K)
    {gid : Nat} {s : State} (h0 : K s) : K (castExpiry gid s) := by
  unfold castExpiry
  with_reducible repeat' first
    | assumption | apply castAborts_keeps (hK.sub rfl) | apply castEnds_keeps (hK.sub rfl) | apply keep_ite | split

theorem execCastOnLimitExpiry_keeps {K : State → Prop}
    (hK : Free [.host, .slots, .pools, .hanks, .groups, .bed, .ports, .routing, .traffic, .perf, .blocked, .drops, .out] K)
    {group : BitVec 24} {s : State} (h0 : K s) {st1 : State} (he : execCastOnLimitExpiry group s = .next st1) : K
    st1 := by
  unfold execCastOnLimitExpiry at he
  repeat' (split at he)
  all_goals (injection he with he; subst he)
  with_reducible repeat' first
    | assumption | apply castExpiry_keeps (hK.sub rfl)

theorem reserveAgain_keeps {K : State → Prop} (hK : Free [.slots, .pools, .skeinMem, .hanks, .perf] K)
    {failed : Bool} {r : Record} {check : BitVec 64} {kept : List Shard} {s : State} (h0 : K s) {r1} {st1 : State}
    (he : reserveAgain failed r check kept s = some (r1, st1)) : K st1 := by
  unfold reserveAgain at he
  repeat' (split at he)
  all_goals (try first | contradiction | cases he)
  with_reducible repeat' first
    | assumption | refine reserveGroup_keeps (hK.sub rfl) ?_ (by first | assumption | rfl) | apply keep_ite | split

theorem recastNow_keeps {K : State → Prop}
    (hK : Free [.host, .rows, .slots, .pools, .skeinMem, .hanks, .groups, .bed, .ports, .routing, .traffic, .flows, .course, .perf, .blocked, .drops, .out] K)
    {gid : Nat} {s : State} (h0 : K s) : K (recastNow gid s) := by
  unfold recastNow
  try dsimp -proj only
  with_reducible repeat' first
    | assumption | apply bad_keeps (hK.sub rfl) | apply endGroup_keeps (hK.sub rfl)
    | refine reserveAgain_keeps (hK.sub rfl) ?_ (by first | assumption | rfl)
    | apply releaseHank_keeps (hK.sub rfl) | apply castFails_keeps (hK.sub rfl)
    | apply castReserved_keeps (hK.sub rfl) | intro _ | apply keep_forEach | intro _
    | (fail_if_no_progress refine Free.mk hK ?_ (Frame.only fun p hp => by
        cases p <;> first
          | exact absurd hp (by with_unfolding_all decide) | exact rfl | exact ⟨rfl, rfl, rfl, rfl, rfl⟩))
    | apply keep_ite | split

theorem recast_keeps {K : State → Prop}
    (hK : Free [.host, .rows, .slots, .pools, .hanks, .groups, .bed, .ports, .routing, .traffic, .flows, .course, .perf, .blocked, .drops, .out] K)
    {d : Desc} {h : HostRead} {t : Tok} {s : State} (h0 : K s) : K (recast d h t s) := by
  unfold recast
  try dsimp -proj only
  with_reducible repeat' first
    | assumption | apply complete_keeps (hK.sub rfl) | apply bad_keeps (hK.sub rfl)
    | apply noteRead_keeps (hK.sub rfl) | apply castFails_keeps (hK.sub rfl) | apply updGroup_keeps (hK.sub rfl)
    | apply settle_keeps (hK.sub rfl) | intro _ | (unfold id; assumption) | apply keep_forEach | intro _
    | (fail_if_no_progress refine Free.mk hK ?_ (Frame.only fun p hp => by
        cases p <;> first
          | exact absurd hp (by with_unfolding_all decide) | exact rfl | exact ⟨rfl, rfl, rfl, rfl, rfl⟩))
    | apply keep_ite | split

theorem recastCheck_keeps {K : State → Prop}
    (hK : Free [.host, .rows, .slots, .pools, .skeinMem, .hanks, .groups, .bed, .ports, .routing, .traffic, .flows, .course, .perf, .blocked, .drops, .out] K)
    {gid : Nat} {s : State} (h0 : K s) : K (recastCheck gid s) := by
  unfold recastCheck
  with_reducible repeat' first
    | assumption | apply recastNow_keeps (hK.sub rfl) | apply keep_ite | split

theorem settled_keeps {K : State → Prop}
    (hK : Free [.host, .rows, .slots, .pools, .skeinMem, .hanks, .groups, .bed, .ports, .routing, .traffic, .flows, .course, .perf, .blocked, .drops, .out] K)
    {gid : Nat} {s : State} (h0 : K s) : K (settled gid s) := by
  unfold settled
  with_reducible repeat' first
    | assumption | apply recastCheck_keeps (hK.sub rfl) | apply settle_keeps (hK.sub rfl)

theorem execRecast_keeps {K : State → Prop}
    (hK : Free [.host, .rows, .slots, .pools, .skeinMem, .hanks, .groups, .bed, .ports, .routing, .traffic, .flows, .course, .perf, .blocked, .drops, .out] K)
    {sq : BitVec 8} {d : Desc} {host : HostRead} {s : State} (h0 : K s) {st1 : State}
    (he : execRecast sq d host s = .next st1) : K st1 := by
  unfold execRecast at he
  repeat' (split at he)
  all_goals (injection he with he; subst he)
  with_reducible repeat' first
    | assumption | apply recastCheck_keeps (hK.sub rfl) | apply recast_keeps (hK.sub rfl) | intro _
    | apply runCommand_keeps (hK.sub rfl) | intro _

theorem resumeGroup_keeps {K : State → Prop}
    (hK : Free [.host, .rows, .slots, .pools, .hanks, .groups, .bed, .ports, .routing, .traffic, .flows, .course, .perf, .blocked, .drops, .out] K)
    {gid : Nat} {s : State} (h0 : K s) : K (resumeGroup gid s) := by
  unfold resumeGroup
  try dsimp -proj only
  with_reducible repeat' first
    | assumption | apply updGroup_keeps (hK.sub rfl) | apply sendCredits_keeps (hK.sub rfl)
    | apply sendDownCredit_keeps (hK.sub rfl) | apply advanceDown_keeps (hK.sub rfl)
    | apply settle_keeps (hK.sub rfl) | apply startRetry_keeps (hK.sub rfl) | intro _ | apply keep_forEach
    | intro _ | (fail_if_no_progress refine Free.mk hK ?_ (Frame.only fun p hp => by
        cases p <;> first
          | exact absurd hp (by with_unfolding_all decide) | exact rfl | exact ⟨rfl, rfl, rfl, rfl, rfl⟩)) | split

theorem groupPause_keeps {K : State → Prop}
    (hK : Free [.host, .rows, .slots, .pools, .hanks, .groups, .bed, .ports, .routing, .traffic, .flows, .course, .perf, .blocked, .drops, .out] K)
    {gid : Nat} {t : Tok} {s : State} (h0 : K s) : K (groupPause gid t s) := by
  unfold groupPause
  with_reducible repeat' first
    | assumption | apply bad_keeps (hK.sub rfl) | apply ok_keeps (hK.sub rfl) | apply settle_keeps (hK.sub rfl)
    | apply updGroup_keeps (hK.sub rfl) | (fail_if_no_progress refine Free.mk hK ?_ (Frame.only fun p hp => by
        cases p <;> first
          | exact absurd hp (by with_unfolding_all decide) | exact rfl | exact ⟨rfl, rfl, rfl, rfl, rfl⟩)) | split

theorem execGroupPause_keeps {K : State → Prop}
    (hK : Free [.host, .rows, .slots, .pools, .hanks, .groups, .bed, .ports, .routing, .traffic, .flows, .course, .perf, .blocked, .drops, .out] K)
    {sq : BitVec 8} {d : Desc} {s : State} (h0 : K s) {st1 : State} (he : execGroupPause sq d s = .next st1) : K
    st1 := by
  unfold execGroupPause at he
  repeat' (split at he)
  all_goals (injection he with he; subst he)
  with_reducible repeat' first
    | assumption | apply groupPause_keeps (hK.sub rfl) | apply bad_keeps (hK.sub rfl) | intro _
    | apply runCommand_keeps (hK.sub rfl) | intro _ | apply keep_ite | split

theorem groupResume_keeps {K : State → Prop}
    (hK : Free [.host, .rows, .slots, .pools, .hanks, .groups, .bed, .ports, .routing, .traffic, .flows, .course, .perf, .blocked, .drops, .out] K)
    {gid : Nat} {t : Tok} {s : State} (h0 : K s) : K (groupResume gid t s) := by
  unfold groupResume
  with_reducible repeat' first
    | assumption | apply bad_keeps (hK.sub rfl) | apply ok_keeps (hK.sub rfl)
    | apply resumeGroup_keeps (hK.sub rfl) | apply keep_ite | split

theorem execGroupResume_keeps {K : State → Prop}
    (hK : Free [.host, .rows, .slots, .pools, .hanks, .groups, .bed, .ports, .routing, .traffic, .flows, .course, .perf, .blocked, .drops, .out] K)
    {sq : BitVec 8} {d : Desc} {s : State} (h0 : K s) {st1 : State} (he : execGroupResume sq d s = .next st1) : K
    st1 := by
  unfold execGroupResume at he
  repeat' (split at he)
  all_goals (injection he with he; subst he)
  with_reducible repeat' first
    | assumption | apply groupResume_keeps (hK.sub rfl) | apply bad_keeps (hK.sub rfl) | intro _
    | apply runCommand_keeps (hK.sub rfl) | intro _ | apply keep_ite | split

theorem bindOff_keeps {K : State → Prop}
    (hK : Free [.host, .rows, .slots, .pools, .hanks, .groups, .bed, .ports, .routing, .traffic, .flows, .course, .perf, .blocked, .drops, .out] K)
    {gid : Nat} {t : Tok} {s : State} (h0 : K s) : K (bindOff gid t s) := by
  unfold bindOff
  try dsimp -proj only
  with_reducible repeat' first
    | assumption | apply bad_keeps (hK.sub rfl) | apply resumeGroup_keeps (hK.sub rfl)
    | apply updGroup_keeps (hK.sub rfl) | intro _ | apply keep_forEach | intro _
    | (fail_if_no_progress refine Free.mk hK ?_ (Frame.only fun p hp => by
        cases p <;> first
          | exact absurd hp (by with_unfolding_all decide) | exact rfl | exact ⟨rfl, rfl, rfl, rfl, rfl⟩))
    | apply keep_ite | split

theorem execBindOff_keeps {K : State → Prop}
    (hK : Free [.host, .rows, .slots, .pools, .hanks, .groups, .bed, .ports, .routing, .traffic, .flows, .course, .perf, .blocked, .drops, .out] K)
    {sq : BitVec 8} {d : Desc} {s : State} (h0 : K s) {st1 : State} (he : execBindOff sq d s = .next st1) : K st1 := by
  unfold execBindOff at he
  repeat' (split at he)
  all_goals (injection he with he; subst he)
  with_reducible repeat' first
    | assumption | apply bindOff_keeps (hK.sub rfl) | apply bad_keeps (hK.sub rfl) | intro _
    | apply runCommand_keeps (hK.sub rfl) | intro _ | apply keep_ite | split

theorem joinQueue_keeps {K : State → Prop}
    (hK : Free [.host, .rows, .slots, .pools, .hanks, .groups, .bed, .ports, .routing, .traffic, .flows, .course, .perf, .blocked, .drops, .out] K)
    {p : Posted} {s : State} (h0 : K s) : K (joinQueue p s) := by
  unfold joinQueue
  with_reducible repeat' first
    | assumption | apply bad_keeps (hK.sub rfl) | apply settle_keeps (hK.sub rfl)
    | apply updGroup_keeps (hK.sub rfl) | (fail_if_no_progress refine Free.mk hK ?_ (Frame.only fun p hp => by
        cases p <;> first
          | exact absurd hp (by with_unfolding_all decide) | exact rfl | exact ⟨rfl, rfl, rfl, rfl, rfl⟩))
    | apply keep_ite | split

theorem execCollective_keeps {K : State → Prop}
    (hK : Free [.host, .rows, .slots, .pools, .hanks, .groups, .bed, .ports, .routing, .traffic, .flows, .course, .perf, .blocked, .drops, .out] K)
    {sq : BitVec 8} {d : Desc} {host : HostRead} {s : State} (h0 : K s) {st1 : State}
    (he : execCollective sq d host s = .next st1) : K st1 := by
  unfold execCollective at he
  repeat' (split at he)
  all_goals (injection he with he; subst he)
  with_reducible repeat' first
    | assumption | apply joinQueue_keeps (hK.sub rfl) | intro _ | apply runCommand_keeps (hK.sub rfl) | intro _

theorem execShardResend_keeps {K : State → Prop}
    (hK : Free [.host, .rows, .slots, .pools, .hanks, .groups, .bed, .ports, .routing, .traffic, .flows, .course, .perf, .blocked, .drops, .out] K)
    {sq : BitVec 8} {d : Desc} {s : State} (h0 : K s) {st1 : State} (he : execShardResend sq d s = .next st1) : K
    st1 := by
  unfold execShardResend at he
  repeat' (split at he)
  all_goals (injection he with he; subst he)
  with_reducible repeat' first
    | assumption | apply joinQueue_keeps (hK.sub rfl) | intro _ | apply runCommand_keeps (hK.sub rfl) | intro _

theorem groupSave_keeps {K : State → Prop} (hK : Free [.host, .blocked, .out] K) {d : Desc} {t : Tok}
    {s : State} (h0 : K s) : K (groupSave d t s) := by
  unfold groupSave
  try dsimp -proj only
  with_reducible repeat' first
    | assumption | apply bad_keeps (hK.sub rfl) | apply ok_keeps (hK.sub rfl) | apply hostWrite_keeps (hK.sub rfl)
    | apply keep_ite | split

theorem execGroupSave_keeps {K : State → Prop} (hK : Free [.host, .perf, .blocked, .out] K) {sq : BitVec 8}
    {d : Desc} {s : State} (h0 : K s) {st1 : State} (he : execGroupSave sq d s = .next st1) : K st1 := by
  unfold execGroupSave at he
  repeat' (split at he)
  all_goals (injection he with he; subst he)
  with_reducible repeat' first
    | assumption | apply groupSave_keeps (hK.sub rfl) | apply bad_keeps (hK.sub rfl) | intro _
    | apply runCommand_keeps (hK.sub rfl) | intro _ | apply keep_ite | split

theorem groupRestore_keeps {K : State → Prop}
    (hK : Free [.host, .rows, .pools, .groups, .ports, .routing, .traffic, .perf, .blocked, .drops, .out] K)
    {d : Desc} {h : HostRead} {t : Tok} {s : State} (h0 : K s) : K (groupRestore d h t s) := by
  unfold groupRestore
  try dsimp -proj only
  with_reducible repeat' first
    | assumption | apply bad_keeps (hK.sub rfl) | apply noteRead_keeps (hK.sub rfl)
    | apply wakeRow_keeps (hK.sub rfl) | apply setRow_keeps (hK.sub rfl) | apply ok_keeps (hK.sub rfl)
    | apply updGroup_keeps (hK.sub rfl) | intro _ | (unfold id; assumption) | apply keep_forEach | intro _
    | (fail_if_no_progress refine Free.mk hK ?_ (Frame.only fun p hp => by
        cases p <;> first
          | exact absurd hp (by with_unfolding_all decide) | exact rfl | exact ⟨rfl, rfl, rfl, rfl, rfl⟩))
    | apply keep_ite | split

theorem execGroupRestore_keeps {K : State → Prop}
    (hK : Free [.host, .rows, .pools, .groups, .ports, .routing, .traffic, .perf, .blocked, .drops, .out] K)
    {sq : BitVec 8} {d : Desc} {host : HostRead} {s : State} (h0 : K s) {st1 : State}
    (he : execGroupRestore sq d host s = .next st1) : K st1 := by
  unfold execGroupRestore at he
  repeat' (split at he)
  all_goals (injection he with he; subst he)
  with_reducible repeat' first
    | assumption | apply groupRestore_keeps (hK.sub rfl) | apply bad_keeps (hK.sub rfl) | intro _
    | apply runCommand_keeps (hK.sub rfl) | intro _ | apply keep_ite | split

theorem stepRollback_keeps {K : State → Prop} (hK : Free [.host, .groups, .blocked, .out] K) {gid : Nat}
    {step : Nat} {t : Tok} {s : State} (h0 : K s) : K (stepRollback gid step t s) := by
  unfold stepRollback
  with_reducible repeat' first
    | assumption | apply bad_keeps (hK.sub rfl) | apply ok_keeps (hK.sub rfl) | apply updGroup_keeps (hK.sub rfl)
    | (fail_if_no_progress refine Free.mk hK ?_ (Frame.only fun p hp => by
        cases p <;> first
          | exact absurd hp (by with_unfolding_all decide) | exact rfl | exact ⟨rfl, rfl, rfl, rfl, rfl⟩))
    | apply keep_ite | split

theorem execStepRollback_keeps {K : State → Prop} (hK : Free [.host, .groups, .perf, .blocked, .out] K)
    {sq : BitVec 8} {d : Desc} {s : State} (h0 : K s) {st1 : State} (he : execStepRollback sq d s = .next st1) : K
    st1 := by
  unfold execStepRollback at he
  repeat' (split at he)
  all_goals (injection he with he; subst he)
  with_reducible repeat' first
    | assumption | apply stepRollback_keeps (hK.sub rfl) | apply bad_keeps (hK.sub rfl) | intro _
    | apply runCommand_keeps (hK.sub rfl) | intro _ | apply keep_ite | split

theorem provenance_keeps {K : State → Prop} (hK : Free [.host, .boot, .blocked, .out] K) {d : Desc} {t : Tok}
    {s : State} (h0 : K s) : K (provenance d t s) := by
  unfold provenance
  try dsimp -proj only
  with_reducible repeat' first
    | assumption | apply bad_keeps (hK.sub rfl) | apply ok_keeps (hK.sub rfl) | apply hostWrite_keeps (hK.sub rfl)
    | (fail_if_no_progress refine Free.mk hK ?_ (Frame.only fun p hp => by
        cases p <;> first
          | exact absurd hp (by with_unfolding_all decide) | exact rfl | exact ⟨rfl, rfl, rfl, rfl, rfl⟩))
    | apply keep_ite | split

theorem signStep_keeps {K : State → Prop} (hK : Free [.host, .boot, .blocked, .out] K) {s : State} (h0 : K s) :
    K (signStep s) := by
  unfold signStep
  with_reducible repeat' first
    | assumption | apply ok_keeps (hK.sub rfl) | apply hostWrite_keeps (hK.sub rfl) | intro _ | apply keep_forEach
    | intro _ | (fail_if_no_progress refine Free.mk hK ?_ (Frame.only fun p hp => by
        cases p <;> first
          | exact absurd hp (by with_unfolding_all decide) | exact rfl | exact ⟨rfl, rfl, rfl, rfl, rfl⟩))
    | apply keep_ite | split

theorem execProvenance_keeps {K : State → Prop} (hK : Free [.host, .perf, .boot, .blocked, .out] K)
    {sq : BitVec 8} {d : Desc} {s : State} (h0 : K s) {st1 : State} (he : execProvenance sq d s = .next st1) : K
    st1 := by
  unfold execProvenance at he
  repeat' (split at he)
  all_goals (injection he with he; subst he)
  with_reducible repeat' first
    | assumption | apply provenance_keeps (hK.sub rfl) | apply bad_keeps (hK.sub rfl) | intro _
    | apply runCommand_keeps (hK.sub rfl) | intro _ | apply keep_ite | split

theorem groupPacket_keeps {K : State → Prop}
    (hK : Free [.host, .rows, .slots, .pools, .skeinMem, .hanks, .groups, .bed, .ports, .routing, .traffic, .flows, .course, .perf, .blocked, .drops, .out] K)
    {gid : Nat} {p : Packet} {f : Via → Packet → State → State} {s : State} (h0 : K s)
    (hf : ∀ a b u, K u → K (f a b u)) : K (groupPacket gid p f s) := by
  unfold groupPacket
  with_reducible repeat' first
    | assumption | apply settled_keeps (hK.sub rfl) | apply consume_keeps (hK.sub rfl)
    | apply drop_keeps (hK.sub rfl) | apply count_keeps (hK.sub rfl) | apply hf | apply keep_ite | split

theorem execCollUp_keeps {K : State → Prop}
    (hK : Free [.host, .rows, .slots, .pools, .skeinMem, .hanks, .groups, .bed, .ports, .routing, .traffic, .flows, .course, .perf, .blocked, .drops, .out] K)
    {p : Packet} {s : State} (h0 : K s) {st1 : State} (he : execCollUp p s = .next st1) : K st1 := by
  unfold execCollUp at he
  repeat' (split at he)
  all_goals (injection he with he; subst he)
  with_reducible repeat' first
    | assumption | apply groupPacket_keeps (hK.sub rfl) | apply recvUp_keeps (hK.sub rfl) | intro _

theorem execCollDown_keeps {K : State → Prop}
    (hK : Free [.host, .rows, .slots, .pools, .skeinMem, .hanks, .groups, .bed, .ports, .routing, .traffic, .flows, .course, .perf, .blocked, .drops, .out] K)
    {p : Packet} {s : State} (h0 : K s) {st1 : State} (he : execCollDown p s = .next st1) : K st1 := by
  unfold execCollDown at he
  repeat' (split at he)
  all_goals (injection he with he; subst he)
  with_reducible repeat' first
    | assumption | apply groupPacket_keeps (hK.sub rfl) | apply recvDown_keeps (hK.sub rfl) | intro _

theorem execA2aUp_keeps {K : State → Prop}
    (hK : Free [.host, .rows, .slots, .pools, .skeinMem, .hanks, .groups, .bed, .ports, .routing, .traffic, .flows, .course, .perf, .blocked, .drops, .out] K)
    {p : Packet} {s : State} (h0 : K s) {st1 : State} (he : execA2aUp p s = .next st1) : K st1 := by
  unfold execA2aUp at he
  repeat' (split at he)
  all_goals (injection he with he; subst he)
  with_reducible repeat' first
    | assumption | apply groupPacket_keeps (hK.sub rfl) | apply recvA2a_keeps (hK.sub rfl) | intro _

theorem execA2aDown_keeps {K : State → Prop}
    (hK : Free [.host, .rows, .slots, .pools, .skeinMem, .hanks, .groups, .bed, .ports, .routing, .traffic, .flows, .course, .perf, .blocked, .drops, .out] K)
    {p : Packet} {s : State} (h0 : K s) {st1 : State} (he : execA2aDown p s = .next st1) : K st1 := by
  unfold execA2aDown at he
  repeat' (split at he)
  all_goals (injection he with he; subst he)
  with_reducible repeat' first
    | assumption | apply groupPacket_keeps (hK.sub rfl) | apply recvA2a_keeps (hK.sub rfl) | intro _

theorem execBarrierArrive_keeps {K : State → Prop}
    (hK : Free [.host, .rows, .slots, .pools, .skeinMem, .hanks, .groups, .bed, .ports, .routing, .traffic, .flows, .course, .perf, .blocked, .drops, .out] K)
    {p : Packet} {s : State} (h0 : K s) {st1 : State} (he : execBarrierArrive p s = .next st1) : K st1 := by
  unfold execBarrierArrive at he
  repeat' (split at he)
  all_goals (injection he with he; subst he)
  with_reducible repeat' first
    | assumption | apply groupPacket_keeps (hK.sub rfl) | apply recvArrive_keeps (hK.sub rfl) | intro _

theorem execBarrierRelease_keeps {K : State → Prop}
    (hK : Free [.host, .rows, .slots, .pools, .skeinMem, .hanks, .groups, .bed, .ports, .routing, .traffic, .flows, .course, .perf, .blocked, .drops, .out] K)
    {p : Packet} {s : State} (h0 : K s) {st1 : State} (he : execBarrierRelease p s = .next st1) : K st1 := by
  unfold execBarrierRelease at he
  repeat' (split at he)
  all_goals (injection he with he; subst he)
  with_reducible repeat' first
    | assumption | apply groupPacket_keeps (hK.sub rfl) | apply recvRelease_keeps (hK.sub rfl) | intro _

theorem execGcredit_keeps {K : State → Prop}
    (hK : Free [.host, .rows, .slots, .pools, .skeinMem, .hanks, .groups, .bed, .ports, .routing, .traffic, .flows, .course, .perf, .blocked, .drops, .out] K)
    {p : Packet} {s : State} (h0 : K s) {st1 : State} (he : execGcredit p s = .next st1) : K st1 := by
  unfold execGcredit at he
  repeat' (split at he)
  all_goals (injection he with he; subst he)
  with_reducible repeat' first
    | assumption | apply groupPacket_keeps (hK.sub rfl) | apply recvCredit_keeps (hK.sub rfl) | intro _

theorem execTack_keeps {K : State → Prop}
    (hK : Free [.host, .rows, .slots, .pools, .skeinMem, .hanks, .groups, .bed, .ports, .routing, .traffic, .flows, .course, .perf, .blocked, .drops, .out] K)
    {p : Packet} {s : State} (h0 : K s) {st1 : State} (he : execTack p s = .next st1) : K st1 := by
  unfold execTack at he
  repeat' (split at he)
  all_goals (injection he with he; subst he)
  with_reducible repeat' first
    | assumption | apply groupPacket_keeps (hK.sub rfl) | apply recvTack_keeps (hK.sub rfl) | intro _

theorem execChunkAbort_keeps {K : State → Prop}
    (hK : Free [.host, .rows, .slots, .pools, .skeinMem, .hanks, .groups, .bed, .ports, .routing, .traffic, .flows, .course, .perf, .blocked, .drops, .out] K)
    {p : Packet} {s : State} (h0 : K s) {st1 : State} (he : execChunkAbort p s = .next st1) : K st1 := by
  unfold execChunkAbort at he
  repeat' (split at he)
  all_goals (injection he with he; subst he)
  with_reducible repeat' first
    | assumption | apply groupPacket_keeps (hK.sub rfl) | apply recvAbort_keeps (hK.sub rfl) | intro _

theorem execCNack_keeps {K : State → Prop}
    (hK : Free [.host, .pools, .groups, .ports, .routing, .traffic, .flows, .perf, .blocked, .drops, .out] K)
    {p : Packet} {s : State} (h0 : K s) {st1 : State} (he : execCNack p s = .next st1) : K st1 := by
  unfold execCNack at he
  repeat' (split at he)
  all_goals (injection he with he; subst he)
  with_reducible repeat' first
    | assumption | apply recvCNack_keeps (hK.sub rfl) | apply consume_keeps (hK.sub rfl)

theorem execStepSeal_keeps {K : State → Prop}
    (hK : Free [.host, .rows, .slots, .pools, .skeinMem, .hanks, .groups, .bed, .ports, .routing, .traffic, .flows, .course, .perf, .blocked, .drops, .out] K)
    {p : Packet} {s : State} (h0 : K s) {st1 : State} (he : execStepSeal p s = .next st1) : K st1 := by
  unfold execStepSeal at he
  repeat' (split at he)
  all_goals (injection he with he; subst he)
  with_reducible repeat' first
    | assumption | apply groupPacket_keeps (hK.sub rfl) | apply inactiveDrop_keeps (hK.sub rfl)
    | apply takeSeal_keeps (hK.sub rfl) | intro _ | apply keep_ite | split

theorem execStepSealed_keeps {K : State → Prop}
    (hK : Free [.host, .rows, .slots, .pools, .skeinMem, .hanks, .groups, .bed, .ports, .routing, .traffic, .flows, .course, .perf, .blocked, .drops, .out] K)
    {p : Packet} {s : State} (h0 : K s) {st1 : State} (he : execStepSealed p s = .next st1) : K st1 := by
  unfold execStepSealed at he
  repeat' (split at he)
  all_goals (injection he with he; subst he)
  with_reducible repeat' first
    | assumption | apply groupPacket_keeps (hK.sub rfl) | apply inactiveDrop_keeps (hK.sub rfl)
    | apply takeSealed_keeps (hK.sub rfl) | intro _ | apply keep_ite | split

theorem execGenerationFlip_keeps {K : State → Prop}
    (hK : Free [.host, .rows, .slots, .pools, .skeinMem, .hanks, .groups, .bed, .ports, .routing, .traffic, .flows, .course, .perf, .blocked, .drops, .out] K)
    {group : BitVec 24} {s : State} (h0 : K s) {st1 : State} (he : execGenerationFlip group s = .next st1) : K st1 := by
  unfold execGenerationFlip at he
  repeat' (split at he)
  all_goals (injection he with he; subst he)
  with_reducible repeat' first
    | assumption | apply settled_keeps (hK.sub rfl) | apply flipNow_keeps (hK.sub rfl)

theorem failApply_keeps {K : State → Prop}
    (hK : Free [.host, .pools, .groups, .bed, .ports, .routing, .traffic, .perf, .blocked, .drops, .out] K)
    {g : Group} {op : Op} {i : Inst} {c : Nat} {s : State} (h0 : K s) : K (failApply g op i c s) := by
  unfold failApply
  try dsimp -proj only
  with_reducible repeat' first
    | assumption | apply markDone_keeps (hK.sub rfl) | apply closeCtx_keeps (hK.sub rfl)
    | apply failChunk_keeps (hK.sub rfl)

theorem dropRunning_keeps {K : State → Prop}
    (hK : Free [.host, .rows, .slots, .pools, .skeinMem, .hanks, .groups, .bed, .ports, .routing, .traffic, .flows, .course, .perf, .blocked, .drops, .out] K)
    {front : Nat} {back : Nat} {r : Group × Op × Inst × Stitch} {s : State} (h0 : K s) :
    K (dropRunning front back r s) := by
  unfold dropRunning
  try dsimp -proj only
  with_reducible repeat' first
    | assumption | apply count_keeps (hK.sub rfl) | apply endVoid_keeps (hK.sub rfl)
    | apply releaseHolder_keeps (hK.sub rfl) | apply settled_keeps (hK.sub rfl)
    | apply takeAbort_keeps (hK.sub rfl) | apply failApply_keeps (hK.sub rfl) | apply keep_ite | split

theorem dropLost_keeps {K : State → Prop}
    (hK : Free [.host, .rows, .slots, .pools, .skeinMem, .hanks, .groups, .bed, .ports, .routing, .traffic, .flows, .course, .perf, .blocked, .drops, .out] K)
    {front : Nat} {back : Nat} {s : State} (h0 : K s) : K (dropLost front back s) := by
  unfold dropLost
  with_reducible repeat' first
    | assumption | apply dropRunning_keeps (hK.sub rfl) | split

theorem stitchEnds_keeps {K : State → Prop}
    (hK : Free [.host, .rows, .slots, .pools, .skeinMem, .hanks, .groups, .bed, .ports, .routing, .traffic, .flows, .course, .perf, .blocked, .drops, .out] K)
    {front : Nat} {back : Nat} {s : State} (h0 : K s) : K (stitchEnds front back s) := by
  unfold stitchEnds
  with_reducible repeat' first
    | assumption | apply settled_keeps (hK.sub rfl) | apply failApply_keeps (hK.sub rfl)
    | apply endVoid_keeps (hK.sub rfl) | apply dropLost_keeps (hK.sub rfl) | apply flipNow_keeps (hK.sub rfl)
    | apply endStitch_keeps (hK.sub rfl) | apply keep_ite | split

theorem execStitchComplete_keeps {K : State → Prop}
    (hK : Free [.host, .rows, .slots, .pools, .skeinMem, .hanks, .groups, .bed, .ports, .routing, .traffic, .flows, .course, .perf, .blocked, .drops, .out] K)
    {front : BitVec 32} {back : BitVec 32} {s : State} (h0 : K s) {st1 : State}
    (he : execStitchComplete front back s = .next st1) : K st1 := by
  unfold execStitchComplete at he
  repeat' (split at he)
  all_goals (injection he with he; subst he)
  with_reducible repeat' first
    | assumption | apply stitchEnds_keeps (hK.sub rfl)

theorem dwellExpired_keeps {K : State → Prop}
    (hK : Free [.host, .rows, .slots, .pools, .skeinMem, .hanks, .groups, .bed, .ports, .routing, .traffic, .flows, .course, .perf, .blocked, .drops, .out] K)
    {gid : Nat} {node : Nat} {seq : Nat} {c : Nat} {s : State} (h0 : K s) : K (dwellExpired gid node seq c s) := by
  unfold dwellExpired
  with_reducible repeat' first
    | assumption | apply settled_keeps (hK.sub rfl) | apply takeAbort_keeps (hK.sub rfl)
    | apply count_keeps (hK.sub rfl) | apply keep_ite | split

theorem execDwellExpiry_keeps {K : State → Prop}
    (hK : Free [.host, .rows, .slots, .pools, .skeinMem, .hanks, .groups, .bed, .ports, .routing, .traffic, .flows, .course, .perf, .blocked, .drops, .out] K)
    {group : BitVec 24} {node : BitVec 16} {seq : BitVec 32} {chunk : BitVec 32} {s : State} (h0 : K s)
    {st1 : State} (he : execDwellExpiry group node seq chunk s = .next st1) : K st1 := by
  unfold execDwellExpiry at he
  repeat' (split at he)
  all_goals (injection he with he; subst he)
  with_reducible repeat' first
    | assumption | apply dwellExpired_keeps (hK.sub rfl)

theorem chunkCompletes_keeps {K : State → Prop}
    (hK : Free [.host, .rows, .slots, .pools, .skeinMem, .hanks, .groups, .bed, .ports, .routing, .traffic, .flows, .course, .perf, .blocked, .drops, .out] K)
    {gid : Nat} {seq : Nat} {c : Nat} {s : State} (h0 : K s) : K (chunkCompletes gid seq c s) := by
  unfold chunkCompletes
  try dsimp -proj only
  with_reducible repeat' first
    | assumption | apply updOp_keeps (hK.sub rfl) | apply complete_keeps (hK.sub rfl)
    | apply addRow_keeps (hK.sub rfl) | apply settled_keeps (hK.sub rfl)
    | (fail_if_no_progress refine Free.mk hK ?_ (Frame.only fun p hp => by
        cases p <;> first
          | exact absurd hp (by with_unfolding_all decide) | exact rfl | exact ⟨rfl, rfl, rfl, rfl, rfl⟩))
    | apply keep_ite | split

theorem execChunkComplete_keeps {K : State → Prop}
    (hK : Free [.host, .rows, .slots, .pools, .skeinMem, .hanks, .groups, .bed, .ports, .routing, .traffic, .flows, .course, .perf, .blocked, .drops, .out] K)
    {group : BitVec 24} {seq : BitVec 32} {chunk : BitVec 32} {s : State} (h0 : K s) {st1 : State}
    (he : execChunkComplete group seq chunk s = .next st1) : K st1 := by
  unfold execChunkComplete at he
  repeat' (split at he)
  all_goals (injection he with he; subst he)
  with_reducible repeat' first
    | assumption | apply chunkCompletes_keeps (hK.sub rfl)

theorem shardWrite_keeps {K : State → Prop}
    (hK : Free [.host, .pools, .skeinMem, .hanks, .groups, .ports, .routing, .traffic, .flows, .perf, .blocked, .drops, .out] K)
    {d : Desc} {h : HostRead} {t : Tok} {s : State} (h0 : K s) : K (shardWrite d h t s) := by
  unfold shardWrite
  try dsimp -proj only
  with_reducible repeat' first
    | assumption | apply bad_keeps (hK.sub rfl) | apply ok_keeps (hK.sub rfl) | apply noteRead_keeps (hK.sub rfl)
    | apply guardedWrite_keeps (hK.sub rfl) | apply sendMirror_keeps (hK.sub rfl) | apply keep_ite | split

theorem execShardWrite_keeps {K : State → Prop}
    (hK : Free [.host, .pools, .skeinMem, .hanks, .groups, .ports, .routing, .traffic, .flows, .perf, .blocked, .drops, .out] K)
    {sq : BitVec 8} {d : Desc} {host : HostRead} {s : State} (h0 : K s) {st1 : State}
    (he : execShardWrite sq d host s = .next st1) : K st1 := by
  unfold execShardWrite at he
  repeat' (split at he)
  all_goals (injection he with he; subst he)
  with_reducible repeat' first
    | assumption | apply shardWrite_keeps (hK.sub rfl) | apply bad_keeps (hK.sub rfl) | intro _
    | apply runCommand_keeps (hK.sub rfl) | intro _ | apply keep_ite | split

theorem shardRead_keeps {K : State → Prop} (hK : Free [.host, .perf, .blocked, .out] K) {d : Desc} {t : Tok}
    {s : State} (h0 : K s) : K (shardRead d t s) := by
  unfold shardRead
  try dsimp -proj only
  with_reducible repeat' first
    | assumption | apply bad_keeps (hK.sub rfl) | apply ok_keeps (hK.sub rfl) | apply count_keeps (hK.sub rfl)
    | apply hostWrite_keeps (hK.sub rfl) | apply countSkein_keeps (hK.sub rfl) | apply keep_ite | split

theorem execShardRead_keeps {K : State → Prop} (hK : Free [.host, .perf, .blocked, .out] K) {sq : BitVec 8}
    {d : Desc} {s : State} (h0 : K s) {st1 : State} (he : execShardRead sq d s = .next st1) : K st1 := by
  unfold execShardRead at he
  repeat' (split at he)
  all_goals (injection he with he; subst he)
  with_reducible repeat' first
    | assumption | apply shardRead_keeps (hK.sub rfl) | apply bad_keeps (hK.sub rfl) | intro _
    | apply runCommand_keeps (hK.sub rfl) | intro _ | apply keep_ite | split

theorem execSecurePoint_keeps {K : State → Prop} (hK : Free [.host, .hanks, .groups, .perf, .blocked, .out] K)
    {sq : BitVec 8} {d : Desc} {s : State} (h0 : K s) {st1 : State} (he : execSecurePoint sq d s = .next st1) : K
    st1 := by
  unfold execSecurePoint at he
  repeat' (split at he)
  all_goals (injection he with he; subst he)
  with_reducible repeat' first
    | assumption | apply bad_keeps (hK.sub rfl) | apply ok_keeps (hK.sub rfl)
    | apply requestSecure_keeps (hK.sub rfl) | intro _ | (unfold id; assumption)
    | apply runCommand_keeps (hK.sub rfl) | intro _ | apply keep_ite | split

theorem execReleaseSecure_keeps {K : State → Prop}
    (hK : Free [.host, .hanks, .groups, .perf, .blocked, .out] K) {sq : BitVec 8} {d : Desc} {s : State} (h0 : K s)
    {st1 : State} (he : execReleaseSecure sq d s = .next st1) : K st1 := by
  unfold execReleaseSecure at he
  repeat' (split at he)
  all_goals (injection he with he; subst he)
  with_reducible repeat' first
    | assumption | apply bad_keeps (hK.sub rfl) | apply ok_keeps (hK.sub rfl) | apply liftSecure_keeps (hK.sub rfl)
    | intro _ | (unfold id; assumption) | apply runCommand_keeps (hK.sub rfl) | intro _ | apply keep_ite | split

theorem stepRecordRead_keeps {K : State → Prop} (hK : Free [.host, .blocked, .out] K) {d : Desc} {t : Tok}
    {s : State} (h0 : K s) : K (stepRecordRead d t s) := by
  unfold stepRecordRead
  try dsimp -proj only
  with_reducible repeat' first
    | assumption | apply bad_keeps (hK.sub rfl) | apply hostWrite_keeps (hK.sub rfl) | apply ok_keeps (hK.sub rfl)
    | apply keep_ite | split

theorem execStepRecordRead_keeps {K : State → Prop} (hK : Free [.host, .perf, .blocked, .out] K)
    {sq : BitVec 8} {d : Desc} {s : State} (h0 : K s) {st1 : State} (he : execStepRecordRead sq d s = .next st1) :
    K st1 := by
  unfold execStepRecordRead at he
  repeat' (split at he)
  all_goals (injection he with he; subst he)
  with_reducible repeat' first
    | assumption | apply stepRecordRead_keeps (hK.sub rfl) | apply bad_keeps (hK.sub rfl) | intro _
    | apply runCommand_keeps (hK.sub rfl) | intro _ | apply keep_ite | split

theorem placePut_keeps {K : State → Prop}
    (hK : Free [.host, .rows, .slots, .pools, .skeinMem, .hanks, .groups, .bed, .ports, .routing, .traffic, .flows, .course, .perf, .blocked, .drops, .out] K)
    {p : Packet} {s : State} (h0 : K s) : K (placePut p s) := by
  unfold placePut
  with_reducible repeat' first
    | assumption | apply countSkein_keeps (hK.sub rfl) | apply arrayWrite_keeps (hK.sub rfl)
    | apply keepEntry_keeps (hK.sub rfl) | apply settled_keeps (hK.sub rfl) | apply mirrorWrite_keeps (hK.sub rfl)
    | apply keep_ite | split

theorem recvPut_keeps {K : State → Prop}
    (hK : Free [.host, .rows, .slots, .pools, .skeinMem, .hanks, .groups, .bed, .ports, .routing, .traffic, .flows, .course, .perf, .blocked, .drops, .out] K)
    {port : Nat} {p : Packet} {s : State} (h0 : K s) : K (recvPut port p s) := by
  unfold recvPut
  try dsimp -proj only
  with_reducible repeat' first
    | assumption | apply sendNack_keeps (hK.sub rfl) | apply setRx_keeps (hK.sub rfl)
    | apply drop_keeps (hK.sub rfl) | apply count_keeps (hK.sub rfl) | apply sendAck_keeps (hK.sub rfl)
    | apply sendNackCum_keeps (hK.sub rfl) | apply placePut_keeps (hK.sub rfl) | apply addRow_keeps (hK.sub rfl)
    | (fail_if_no_progress refine Free.mk hK ?_ (Frame.only fun p hp => by
        cases p <;> first
          | exact absurd hp (by with_unfolding_all decide) | exact rfl | exact ⟨rfl, rfl, rfl, rfl, rfl⟩))
    | apply keep_ite | split

theorem execPut_keeps {K : State → Prop}
    (hK : Free [.host, .rows, .slots, .pools, .skeinMem, .hanks, .groups, .bed, .ports, .routing, .traffic, .flows, .course, .perf, .blocked, .drops, .out] K)
    {p : Packet} {s : State} (h0 : K s) {st1 : State} (he : execPut p s = .next st1) : K st1 := by
  unfold execPut at he
  repeat' (split at he)
  all_goals (injection he with he; subst he)
  with_reducible repeat' first
    | assumption | apply recvPut_keeps (hK.sub rfl) | apply consume_keeps (hK.sub rfl)

theorem snapshotCopied_keeps {K : State → Prop}
    (hK : Free [.host, .rows, .slots, .pools, .skeinMem, .hanks, .groups, .bed, .ports, .routing, .traffic, .flows, .course, .perf, .blocked, .drops, .out] K)
    {h : Nat} {s : State} (h0 : K s) : K (snapshotCopied h s) := by
  unfold snapshotCopied
  try dsimp -proj only
  with_reducible repeat' first
    | assumption | apply copyHank_keeps (hK.sub rfl) | apply recvPut_keeps (hK.sub rfl) | intro _
    | apply keep_forEach | intro _ | (fail_if_no_progress refine Free.mk hK ?_ (Frame.only fun p hp => by
        cases p <;> first
          | exact absurd hp (by with_unfolding_all decide) | exact rfl | exact ⟨rfl, rfl, rfl, rfl, rfl⟩))
    | apply keep_ite | split

theorem execSnapshotCopy_keeps {K : State → Prop}
    (hK : Free [.host, .rows, .slots, .pools, .skeinMem, .hanks, .groups, .bed, .ports, .routing, .traffic, .flows, .course, .perf, .blocked, .drops, .out] K)
    {hank : BitVec 19} {s : State} (h0 : K s) {st1 : State} (he : execSnapshotCopy hank s = .next st1) : K st1 := by
  unfold execSnapshotCopy at he
  repeat' (split at he)
  all_goals (injection he with he; subst he)
  with_reducible repeat' first
    | assumption | apply snapshotCopied_keeps (hK.sub rfl)

theorem serveGet_keeps {K : State → Prop}
    (hK : Free [.host, .pools, .ports, .routing, .traffic, .perf, .blocked, .drops, .out] K) {p : Packet}
    {f : RxFlow} {hs : List Nat} {o : Nat} {s : State} (h0 : K s) : K (serveGet p f hs o s) := by
  unfold serveGet
  try dsimp -proj only
  with_reducible repeat' first
    | assumption | apply sendAck_keeps (hK.sub rfl) | apply originateOwn_keeps (hK.sub rfl)
    | apply countSkein_keeps (hK.sub rfl) | intro _ | apply keep_forEach | intro _ | apply keep_ite | split

theorem recvGet_keeps {K : State → Prop}
    (hK : Free [.host, .pools, .ports, .routing, .traffic, .flows, .perf, .blocked, .drops, .out] K) {port : Nat}
    {p : Packet} {s : State} (h0 : K s) : K (recvGet port p s) := by
  unfold recvGet
  try dsimp -proj only
  with_reducible repeat' first
    | assumption | apply sendNack_keeps (hK.sub rfl) | apply setRx_keeps (hK.sub rfl)
    | apply drop_keeps (hK.sub rfl) | apply count_keeps (hK.sub rfl) | apply serveGet_keeps (hK.sub rfl)
    | apply sendNackCum_keeps (hK.sub rfl) | apply keep_ite | split

theorem execGetReq_keeps {K : State → Prop}
    (hK : Free [.host, .pools, .ports, .routing, .traffic, .flows, .perf, .blocked, .drops, .out] K) {p : Packet}
    {s : State} (h0 : K s) {st1 : State} (he : execGetReq p s = .next st1) : K st1 := by
  unfold execGetReq at he
  repeat' (split at he)
  all_goals (injection he with he; subst he)
  with_reducible repeat' first
    | assumption | apply recvGet_keeps (hK.sub rfl) | apply consume_keeps (hK.sub rfl)

theorem sentRequests_keeps {K : State → Prop} (hK : Free [.host, .blocked, .out] K) {dst : Nat} {s : State}
    (h0 : K s) : K (sentRequests dst s) := by
  unfold sentRequests
  with_reducible repeat' first
    | assumption | apply ok_keeps (hK.sub rfl) | intro _ | apply keep_forEach | intro _ | apply keep_ite | split

theorem recvGetData_keeps {K : State → Prop}
    (hK : Free [.host, .pools, .ports, .routing, .traffic, .flows, .perf, .blocked, .drops, .out] K) {p : Packet}
    {s : State} (h0 : K s) : K (recvGetData p s) := by
  unfold recvGetData
  try dsimp -proj only
  with_reducible repeat' first
    | assumption | apply sentRequests_keeps (hK.sub rfl) | apply pumpFlow_keeps (hK.sub rfl)
    | apply dropTx_keeps (hK.sub rfl) | (fail_if_no_progress refine Free.mk hK ?_ (Frame.only fun p hp => by
        cases p <;> first
          | exact absurd hp (by with_unfolding_all decide) | exact rfl | exact ⟨rfl, rfl, rfl, rfl, rfl⟩))
    | apply keep_ite | split

theorem execGetData_keeps {K : State → Prop}
    (hK : Free [.host, .pools, .ports, .routing, .traffic, .flows, .perf, .blocked, .drops, .out] K) {p : Packet}
    {s : State} (h0 : K s) {st1 : State} (he : execGetData p s = .next st1) : K st1 := by
  unfold execGetData at he
  repeat' (split at he)
  all_goals (injection he with he; subst he)
  with_reducible repeat' first
    | assumption | apply recvGetData_keeps (hK.sub rfl) | apply consume_keeps (hK.sub rfl)

theorem writeDone_keeps {K : State → Prop} (hK : Free [.host, .blocked, .out] K) {t : Tok} {s : State}
    (h0 : K s) : K (writeDone t s) := by
  unfold writeDone
  with_reducible repeat' first
    | assumption | apply ok_keeps (hK.sub rfl) | apply keep_ite | split

theorem afterAck_keeps {K : State → Prop}
    (hK : Free [.host, .rows, .slots, .pools, .skeinMem, .hanks, .groups, .bed, .ports, .routing, .traffic, .flows, .course, .perf, .blocked, .drops, .out] K)
    {x : TxPkt} {s : State} (h0 : K s) : K (afterAck x s) := by
  unfold afterAck
  with_reducible repeat' first
    | assumption | apply ok_keeps (hK.sub rfl) | apply settled_keeps (hK.sub rfl)
    | apply writeDone_keeps (hK.sub rfl) | split

theorem recvEAck_keeps {K : State → Prop}
    (hK : Free [.host, .rows, .slots, .pools, .skeinMem, .hanks, .groups, .bed, .ports, .routing, .traffic, .flows, .course, .perf, .blocked, .drops, .out] K)
    {p : Packet} {s : State} (h0 : K s) : K (recvEAck p s) := by
  unfold recvEAck
  try dsimp -proj only
  with_reducible repeat' first
    | assumption | apply setFlow_keeps (hK.sub rfl) | apply sentRequests_keeps (hK.sub rfl)
    | apply pumpFlow_keeps (hK.sub rfl) | apply afterAck_keeps (hK.sub rfl) | intro _ | apply keep_forEach
    | intro _ | (fail_if_no_progress refine Free.mk hK ?_ (Frame.only fun p hp => by
        cases p <;> first
          | exact absurd hp (by with_unfolding_all decide) | exact rfl | exact ⟨rfl, rfl, rfl, rfl, rfl⟩))
    | apply keep_ite | split

theorem execEAck_keeps {K : State → Prop}
    (hK : Free [.host, .rows, .slots, .pools, .skeinMem, .hanks, .groups, .bed, .ports, .routing, .traffic, .flows, .course, .perf, .blocked, .drops, .out] K)
    {p : Packet} {s : State} (h0 : K s) {st1 : State} (he : execEAck p s = .next st1) : K st1 := by
  unfold execEAck at he
  repeat' (split at he)
  all_goals (injection he with he; subst he)
  with_reducible repeat' first
    | assumption | apply recvEAck_keeps (hK.sub rfl) | apply consume_keeps (hK.sub rfl)

theorem giveUp_keeps {K : State → Prop}
    (hK : Free [.host, .rows, .slots, .pools, .skeinMem, .hanks, .groups, .bed, .ports, .routing, .traffic, .flows, .course, .perf, .blocked, .drops, .out] K)
    {dst : Nat} {x : TxPkt} {code : Nat} {s : State} (h0 : K s) : K (giveUp dst x code s) := by
  unfold giveUp
  try dsimp -proj only
  with_reducible repeat' first
    | assumption | apply pumpFlow_keeps (hK.sub rfl) | apply dropTx_keeps (hK.sub rfl)
    | apply reportRefused_keeps (hK.sub rfl) | apply complete_keeps (hK.sub rfl) | apply settled_keeps (hK.sub rfl)
    | apply failChunk_keeps (hK.sub rfl) | apply bad_keeps (hK.sub rfl) | apply sentRequests_keeps (hK.sub rfl)
    | apply keep_ite | split

theorem recvENack_keeps {K : State → Prop}
    (hK : Free [.host, .rows, .slots, .pools, .skeinMem, .hanks, .groups, .bed, .ports, .routing, .traffic, .flows, .course, .perf, .blocked, .drops, .out] K)
    {p : Packet} {s : State} (h0 : K s) : K (recvENack p s) := by
  unfold recvENack
  try dsimp -proj only
  with_reducible repeat' first
    | assumption | apply sentRequests_keeps (hK.sub rfl) | apply renewFlow_keeps (hK.sub rfl)
    | apply giveUp_keeps (hK.sub rfl) | apply resendNow_keeps (hK.sub rfl) | apply updTx_keeps (hK.sub rfl)
    | apply keep_getD | intro _ _ | (fail_if_no_progress refine Free.mk hK ?_ (Frame.only fun p hp => by
        cases p <;> first
          | exact absurd hp (by with_unfolding_all decide) | exact rfl | exact ⟨rfl, rfl, rfl, rfl, rfl⟩))
    | apply keep_ite | split

theorem execENack_keeps {K : State → Prop}
    (hK : Free [.host, .rows, .slots, .pools, .skeinMem, .hanks, .groups, .bed, .ports, .routing, .traffic, .flows, .course, .perf, .blocked, .drops, .out] K)
    {p : Packet} {s : State} (h0 : K s) {st1 : State} (he : execENack p s = .next st1) : K st1 := by
  unfold execENack at he
  repeat' (split at he)
  all_goals (injection he with he; subst he)
  with_reducible repeat' first
    | assumption | apply recvENack_keeps (hK.sub rfl) | apply consume_keeps (hK.sub rfl)

theorem injectCtl_keeps {K : State → Prop}
    (hK : Free [.host, .pools, .ports, .routing, .traffic, .perf, .blocked, .drops, .out] K) {p : Packet}
    {c : Nat × Nat} {t : Tok} {s : State} (h0 : K s) : K (injectCtl p c t s) := by
  unfold injectCtl
  with_reducible repeat' first
    | assumption | refine routeOnce_keeps (hK.sub rfl) ?_ (by first | assumption | rfl)
    | apply complete_keeps (hK.sub rfl) | apply ok_keeps (hK.sub rfl) | split

theorem inject_keeps {K : State → Prop}
    (hK : Free [.host, .pools, .ports, .routing, .traffic, .flows, .perf, .blocked, .drops, .out] K) {d : Desc}
    {h : HostRead} {t : Tok} {s : State} (h0 : K s) : K (inject d h t s) := by
  unfold inject
  try dsimp -proj only
  with_reducible repeat' first
    | assumption | apply bad_keeps (hK.sub rfl) | apply noteRead_keeps (hK.sub rfl)
    | refine allocUnreserved_keeps (hK.sub rfl) ?_ (by first | assumption | rfl)
    | apply complete_keeps (hK.sub rfl) | apply sentRequests_keeps (hK.sub rfl) | apply sendFlow_keeps (hK.sub rfl)
    | apply injectCtl_keeps (hK.sub rfl) | apply keep_ite | split

theorem execInject_keeps {K : State → Prop}
    (hK : Free [.host, .pools, .ports, .routing, .traffic, .flows, .perf, .blocked, .drops, .out] K)
    {sq : BitVec 8} {d : Desc} {host : HostRead} {s : State} (h0 : K s) {st1 : State}
    (he : execInject sq d host s = .next st1) : K st1 := by
  unfold execInject at he
  repeat' (split at he)
  all_goals (injection he with he; subst he)
  with_reducible repeat' first
    | assumption | apply inject_keeps (hK.sub rfl) | apply bad_keeps (hK.sub rfl) | intro _
    | apply runCommand_keeps (hK.sub rfl) | intro _ | apply keep_ite | split

theorem droneSend_keeps {K : State → Prop} (hK : Free [.drones, .out] K) {m : Nat} {f : DroneOut} {s : State}
    (h0 : K s) : K (droneSend m f s) := by
  unfold droneSend
  try dsimp -proj only
  with_reducible repeat' first
    | assumption | apply updDrone_keeps (hK.sub rfl)
    | (fail_if_no_progress refine Free.mk hK ?_ (Frame.only fun p hp => by
        cases p <;> first
          | exact absurd hp (by with_unfolding_all decide) | exact rfl | exact ⟨rfl, rfl, rfl, rfl, rfl⟩))

theorem sendUrgent_keeps {K : State → Prop} (hK : Free [.drones, .out] K) {lanes : List Nat} {ftype : Nat}
    {b : BitVec 192} {s : State} (h0 : K s) : K (sendUrgent lanes ftype b s) := by
  unfold sendUrgent
  with_reducible repeat' first
    | assumption | apply droneSend_keeps (hK.sub rfl) | intro _ | apply keep_forEach | intro _

theorem nextNotice_keeps {K : State → Prop} (hK : Free [.course] K) {s : State} (h0 : K s) : K (nextNotice s) := by
  unfold nextNotice
  with_reducible repeat' first
    | assumption | (fail_if_no_progress refine Free.mk hK ?_ (Frame.only fun p hp => by
        cases p <;> first
          | exact absurd hp (by with_unfolding_all decide) | exact rfl | exact ⟨rfl, rfl, rfl, rfl, rfl⟩))

theorem toPartner_keeps {K : State → Prop} (hK : Free [.drones, .course, .out] K) {ftype : Nat} {subject : Nat}
    {cause : Nat} {arg : Nat} {s : State} (h0 : K s) : K (toPartner ftype subject cause arg s) := by
  unfold toPartner
  with_reducible repeat' first
    | assumption | apply nextNotice_keeps (hK.sub rfl) | apply sendUrgent_keeps (hK.sub rfl)

theorem flood_keeps {K : State → Prop} (hK : Free [.host, .drones, .course, .blocked, .out] K) {ftype : Nat}
    {subject : Nat} {cause : Nat} {arg : Nat} {s : State} (h0 : K s) : K (flood ftype subject cause arg s) := by
  unfold flood
  try dsimp -proj only
  with_reducible repeat' first
    | assumption | apply postEvent_keeps (hK.sub rfl) | apply nextNotice_keeps (hK.sub rfl)
    | apply sendUrgent_keeps (hK.sub rfl)

theorem relay_keeps {K : State → Prop} (hK : Free [.drones, .course, .out] K) {lane : Nat} {ftype : Nat}
    {b : BitVec 192} {s : State} (h0 : K s) : K (relay lane ftype b s) := by
  unfold relay
  try dsimp -proj only
  with_reducible repeat' first
    | assumption | apply sendUrgent_keeps (hK.sub rfl)
    | (fail_if_no_progress refine Free.mk hK ?_ (Frame.only fun p hp => by
        cases p <;> first
          | exact absurd hp (by with_unfolding_all decide) | exact rfl | exact ⟨rfl, rfl, rfl, rfl, rfl⟩))
    | apply keep_ite | split

theorem hearFlood_keeps {K : State → Prop} (hK : Free [.host, .drones, .course, .blocked, .out] K) {lane : Nat}
    {ftype : Nat} {b : BitVec 192} {act : State → State} {s : State} (h0 : K s) (hf : ∀ u, K u → K (act u)) :
    K (hearFlood lane ftype b act s) := by
  unfold hearFlood
  with_reducible repeat' first
    | assumption | apply postEvent_keeps (hK.sub rfl) | apply relay_keeps (hK.sub rfl) | apply hf | apply keep_ite
    | split

theorem hearPartner_keeps {K : State → Prop} (hK : Free [] K) {lane : Nat} {act : State → State} {s : State}
    (h0 : K s) (hf : ∀ u, K u → K (act u)) : K (hearPartner lane act s) := by
  unfold hearPartner
  with_reducible repeat' first
    | assumption | apply hf | apply keep_ite | split

theorem faultGroup_keeps {K : State → Prop}
    (hK : Free [.host, .rows, .slots, .pools, .skeinMem, .hanks, .groups, .bed, .ports, .routing, .traffic, .flows, .course, .perf, .blocked, .drops, .out] K)
    {gid : Nat} {s : State} (h0 : K s) : K (faultGroup gid s) := by
  unfold faultGroup
  try dsimp -proj only
  with_reducible repeat' first
    | assumption | apply count_keeps (hK.sub rfl) | apply freeBuffers_keeps (hK.sub rfl)
    | apply updGroup_keeps (hK.sub rfl) | apply finishOpAs_keeps (hK.sub rfl) | apply complete_keeps (hK.sub rfl)
    | apply settled_keeps (hK.sub rfl) | apply releaseHostRows_keeps (hK.sub rfl) | intro _ | apply keep_forEach
    | intro _ | (fail_if_no_progress refine Free.mk hK ?_ (Frame.only fun p hp => by
        cases p <;> first
          | exact absurd hp (by with_unfolding_all decide) | exact rfl | exact ⟨rfl, rfl, rfl, rfl, rfl⟩))
    | apply keep_ite | split

theorem dropMirrors_keeps {K : State → Prop} (hK : Free [.host, .pools, .ports, .routing, .traffic, .flows, .perf, .blocked, .drops, .out] K) {pick : Purpose → Bool} {s : State} (h0 : K s) :
    K (dropMirrors pick s) := by
  unfold dropMirrors
  dsimp only
  split
  · exact h0
  · refine pumpFlow_keeps (hK.sub rfl) (keep_forEach (setFlow_keeps (hK.sub rfl) h0) fun x s h => ?_)
    cases x.purpose <;> first | exact writeDone_keeps (hK.sub rfl) h | exact h

theorem sealAlone_keeps {K : State → Prop}
    (hK : Free [.host, .rows, .slots, .pools, .skeinMem, .hanks, .groups, .bed, .ports, .routing, .traffic, .flows, .course, .perf, .blocked, .drops, .out] K)
    {gid : Nat} {s : State} (h0 : K s) : K (sealAlone gid s) := by
  unfold sealAlone
  try dsimp -proj only
  with_reducible repeat' first
    | assumption | apply updGroup_keeps (hK.sub rfl) | apply settled_keeps (hK.sub rfl)
    | apply updOp_keeps (hK.sub rfl) | apply flipNow_keeps (hK.sub rfl)
    | (fail_if_no_progress refine Free.mk hK ?_ (Frame.only fun p hp => by
        cases p <;> first
          | exact absurd hp (by with_unfolding_all decide) | exact rfl | exact ⟨rfl, rfl, rfl, rfl, rfl⟩))
    | apply keep_ite | split

theorem groupMeets_keeps {K : State → Prop}
    (hK : Free [.host, .rows, .slots, .pools, .skeinMem, .hanks, .groups, .bed, .ports, .routing, .traffic, .flows, .course, .perf, .blocked, .drops, .out] K)
    {m : Nat} {gid : Nat} {s : State} (h0 : K s) : K (groupMeets m gid s) := by
  unfold groupMeets
  try dsimp -proj only
  with_reducible repeat' first
    | assumption | apply castAborts_keeps (hK.sub rfl) | apply castEnds_keeps (hK.sub rfl)
    | apply castGoes_keeps (hK.sub rfl) | apply updGroup_keeps (hK.sub rfl) | apply sealAlone_keeps (hK.sub rfl)
    | apply faultGroup_keeps (hK.sub rfl) | (fail_if_no_progress refine Free.mk hK ?_ (Frame.only fun p hp => by
        cases p <;> first
          | exact absurd hp (by with_unfolding_all decide) | exact rfl | exact ⟨rfl, rfl, rfl, rfl, rfl⟩))
    | apply keep_ite | split

theorem setFault_keeps {K : State → Prop} (hK : Free [.course] K) {m : Nat} {f : FaultState} {s : State}
    (h0 : K s) : K (setFault m f s) := by
  unfold setFault
  with_reducible repeat' first
    | assumption | (fail_if_no_progress refine Free.mk hK ?_ (Frame.only fun p hp => by
        cases p <;> first
          | exact absurd hp (by with_unfolding_all decide) | exact rfl | exact ⟨rfl, rfl, rfl, rfl, rfl⟩))

theorem markGone_keeps {K : State → Prop}
    (hK : Free [.host, .rows, .slots, .pools, .skeinMem, .hanks, .groups, .bed, .ports, .routing, .traffic, .flows, .course, .perf, .blocked, .drops, .out] K)
    {m : Nat} {s : State} (h0 : K s) : K (markGone m s) := by
  unfold markGone
  try dsimp -proj only
  with_reducible repeat' first
    | assumption | apply setFault_keeps (hK.sub rfl) | apply dropMirrors_keeps (hK.sub rfl)
    | apply groupMeets_keeps (hK.sub rfl) | intro _ | (unfold id; assumption) | apply keep_forEach | intro _
    | (fail_if_no_progress refine Free.mk hK ?_ (Frame.only fun p hp => by
        cases p <;> first
          | exact absurd hp (by with_unfolding_all decide) | exact rfl | exact ⟨rfl, rfl, rfl, rfl, rfl⟩))
    | apply keep_ite | split

theorem takeLead_keeps {K : State → Prop} (hK : Free [.host, .drones, .course, .blocked, .out] K) {s : State}
    (h0 : K s) : K (takeLead s) := by
  unfold takeLead
  with_reducible repeat' first
    | assumption | apply flood_keeps (hK.sub rfl)
    | (fail_if_no_progress refine Free.mk hK ?_ (Frame.only fun p hp => by
        cases p <;> first
          | exact absurd hp (by with_unfolding_all decide) | exact rfl | exact ⟨rfl, rfl, rfl, rfl, rfl⟩))
    | apply keep_ite | split

theorem reportSealed_keeps {K : State → Prop}
    (hK : Free [.host, .pools, .ports, .routing, .traffic, .flows, .course, .perf, .blocked, .drops, .out] K)
    {g : Group} {s : State} (h0 : K s) : K (reportSealed g s) := by
  unfold reportSealed
  with_reducible repeat' first
    | assumption | apply sendReport_keeps (hK.sub rfl) | intro _ | apply keep_forEach | intro _

theorem takeOver_keeps {K : State → Prop}
    (hK : Free [.host, .pools, .hanks, .ports, .drones, .routing, .traffic, .flows, .course, .perf, .blocked, .drops, .out] K)
    {s : State} (h0 : K s) : K (takeOver s) := by
  unfold takeOver
  try dsimp -proj only
  with_reducible repeat' first
    | assumption | apply assignHank_keeps (hK.sub rfl) | apply takeLead_keeps (hK.sub rfl)
    | apply postEvent_keeps (hK.sub rfl) | apply reportSealed_keeps (hK.sub rfl) | intro _ | apply keep_forEach
    | intro _ | (fail_if_no_progress refine Free.mk hK ?_ (Frame.only fun p hp => by
        cases p <;> first
          | exact absurd hp (by with_unfolding_all decide) | exact rfl | exact ⟨rfl, rfl, rfl, rfl, rfl⟩))
    | apply keep_ite | split

theorem takeoverCheck_keeps {K : State → Prop}
    (hK : Free [.host, .pools, .hanks, .ports, .drones, .routing, .traffic, .flows, .course, .perf, .blocked, .drops, .out] K)
    {s : State} (h0 : K s) : K (takeoverCheck s) := by
  unfold takeoverCheck
  try dsimp -proj only
  with_reducible repeat' first
    | assumption | apply takeOver_keeps (hK.sub rfl) | apply keep_ite | split

theorem takeover_keeps {K : State → Prop}
    (hK : Free [.host, .rows, .slots, .pools, .skeinMem, .hanks, .groups, .bed, .ports, .drones, .routing, .traffic, .flows, .course, .perf, .blocked, .drops, .out] K)
    {t : Tok} {s : State} (h0 : K s) : K (takeover t s) := by
  unfold takeover
  with_reducible repeat' first
    | assumption | apply ok_keeps (hK.sub rfl) | apply takeOver_keeps (hK.sub rfl)
    | apply markGone_keeps (hK.sub rfl) | apply bad_keeps (hK.sub rfl) | apply keep_ite | split

theorem execTakeover_keeps {K : State → Prop}
    (hK : Free [.host, .rows, .slots, .pools, .skeinMem, .hanks, .groups, .bed, .ports, .drones, .routing, .traffic, .flows, .course, .perf, .blocked, .drops, .out] K)
    {sq : BitVec 8} {d : Desc} {s : State} (h0 : K s) {st1 : State} (he : execTakeover sq d s = .next st1) : K st1 := by
  unfold execTakeover at he
  repeat' (split at he)
  all_goals (injection he with he; subst he)
  with_reducible repeat' first
    | assumption | apply takeover_keeps (hK.sub rfl) | apply bad_keeps (hK.sub rfl) | intro _
    | apply runCommand_keeps (hK.sub rfl) | intro _ | apply keep_ite | split

theorem declareLost_keeps {K : State → Prop}
    (hK : Free [.host, .rows, .slots, .pools, .skeinMem, .hanks, .groups, .bed, .ports, .drones, .routing, .traffic, .flows, .course, .perf, .blocked, .drops, .out] K)
    {m : Nat} {s : State} (h0 : K s) : K (declareLost m s) := by
  unfold declareLost
  try dsimp -proj only
  with_reducible repeat' first
    | assumption | apply takeoverCheck_keeps (hK.sub rfl) | apply markGone_keeps (hK.sub rfl)
    | apply flood_keeps (hK.sub rfl) | (fail_if_no_progress refine Free.mk hK ?_ (Frame.only fun p hp => by
        cases p <;> first
          | exact absurd hp (by with_unfolding_all decide) | exact rfl | exact ⟨rfl, rfl, rfl, rfl, rfl⟩))
    | apply keep_ite | split

theorem severTimeout_keeps {K : State → Prop} (hK : Free [.host, .course, .blocked, .out] K) {s : State}
    (h0 : K s) : K (severTimeout s) := by
  unfold severTimeout
  with_reducible repeat' first
    | assumption | apply postEvent_keeps (hK.sub rfl)
    | (fail_if_no_progress refine Free.mk hK ?_ (Frame.only fun p hp => by
        cases p <;> first
          | exact absurd hp (by with_unfolding_all decide) | exact rfl | exact ⟨rfl, rfl, rfl, rfl, rfl⟩))
    | apply keep_ite | split

theorem execSeverTimeout_keeps {K : State → Prop} (hK : Free [.host, .course, .blocked, .out] K) {s : State}
    (h0 : K s) {st1 : State} (he : execSeverTimeout s = .next st1) : K st1 := by
  unfold execSeverTimeout at he
  repeat' (split at he)
  all_goals (injection he with he; subst he)
  with_reducible repeat' first
    | assumption | apply severTimeout_keeps (hK.sub rfl)

theorem neighbourBack_keeps {K : State → Prop} (hK : Free [.host, .drones, .course, .blocked, .out] K)
    {m : Nat} {s : State} (h0 : K s) : K (neighbourBack m s) := by
  unfold neighbourBack
  try dsimp -proj only
  with_reducible repeat' first
    | assumption | apply flood_keeps (hK.sub rfl) | apply setFault_keeps (hK.sub rfl)
    | apply postEvent_keeps (hK.sub rfl) | (fail_if_no_progress refine Free.mk hK ?_ (Frame.only fun p hp => by
        cases p <;> first
          | exact absurd hp (by with_unfolding_all decide) | exact rfl | exact ⟨rfl, rfl, rfl, rfl, rfl⟩))
    | apply keep_ite | split

theorem execModuleLost_keeps {K : State → Prop}
    (hK : Free [.host, .rows, .slots, .pools, .skeinMem, .hanks, .groups, .bed, .ports, .drones, .routing, .traffic, .flows, .course, .perf, .blocked, .drops, .out] K)
    {lane : BitVec 5} {body : BitVec 192} {s : State} (h0 : K s) {st1 : State}
    (he : execModuleLost lane body s = .next st1) : K st1 := by
  unfold execModuleLost at he
  repeat' (split at he)
  all_goals (injection he with he; subst he)
  try dsimp -proj only
  with_reducible repeat' first
    | assumption | apply hearFlood_keeps (hK.sub rfl) | apply takeoverCheck_keeps (hK.sub rfl)
    | apply markGone_keeps (hK.sub rfl) | intro _
    | (fail_if_no_progress refine Free.mk hK ?_ (Frame.only fun p hp => by
        cases p <;> first
          | exact absurd hp (by with_unfolding_all decide) | exact rfl | exact ⟨rfl, rfl, rfl, rfl, rfl⟩))
    | apply keep_ite | split

theorem execEndpointLost_keeps {K : State → Prop} (hK : Free [.host, .drones, .course, .blocked, .out] K)
    {lane : BitVec 5} {body : BitVec 192} {s : State} (h0 : K s) {st1 : State}
    (he : execEndpointLost lane body s = .next st1) : K st1 := by
  unfold execEndpointLost at he
  repeat' (split at he)
  all_goals (injection he with he; subst he)
  with_reducible repeat' first
    | assumption | apply hearFlood_keeps (hK.sub rfl) | intro _ | (unfold id; assumption)

theorem execDraining_keeps {K : State → Prop} (hK : Free [.host, .drones, .course, .blocked, .out] K)
    {lane : BitVec 5} {body : BitVec 192} {s : State} (h0 : K s) {st1 : State}
    (he : execDraining lane body s = .next st1) : K st1 := by
  unfold execDraining at he
  repeat' (split at he)
  all_goals (injection he with he; subst he)
  try dsimp -proj only
  with_reducible repeat' first
    | assumption | apply hearFlood_keeps (hK.sub rfl) | apply setFault_keeps (hK.sub rfl) | intro _
    | apply keep_ite | split

theorem execRisk_keeps {K : State → Prop} (hK : Free [.host, .drones, .course, .blocked, .out] K)
    {lane : BitVec 5} {body : BitVec 192} {s : State} (h0 : K s) {st1 : State}
    (he : execRisk lane body s = .next st1) : K st1 := by
  unfold execRisk at he
  repeat' (split at he)
  all_goals (injection he with he; subst he)
  with_reducible repeat' first
    | assumption | apply hearFlood_keeps (hK.sub rfl) | intro _ | (unfold id; assumption)

theorem execLeadTaken_keeps {K : State → Prop} (hK : Free [.host, .drones, .course, .blocked, .out] K)
    {lane : BitVec 5} {body : BitVec 192} {s : State} (h0 : K s) {st1 : State}
    (he : execLeadTaken lane body s = .next st1) : K st1 := by
  unfold execLeadTaken at he
  repeat' (split at he)
  all_goals (injection he with he; subst he)
  with_reducible repeat' first
    | assumption | apply hearFlood_keeps (hK.sub rfl) | intro _
    | (fail_if_no_progress refine Free.mk hK ?_ (Frame.only fun p hp => by
        cases p <;> first
          | exact absurd hp (by with_unfolding_all decide) | exact rfl | exact ⟨rfl, rfl, rfl, rfl, rfl⟩))

theorem execReturned_keeps {K : State → Prop} (hK : Free [.host, .drones, .course, .blocked, .out] K)
    {lane : BitVec 5} {body : BitVec 192} {s : State} (h0 : K s) {st1 : State}
    (he : execReturned lane body s = .next st1) : K st1 := by
  unfold execReturned at he
  repeat' (split at he)
  all_goals (injection he with he; subst he)
  try dsimp -proj only
  with_reducible repeat' first
    | assumption | apply hearFlood_keeps (hK.sub rfl) | apply setFault_keeps (hK.sub rfl) | intro _
    | (fail_if_no_progress refine Free.mk hK ?_ (Frame.only fun p hp => by
        cases p <;> first
          | exact absurd hp (by with_unfolding_all decide) | exact rfl | exact ⟨rfl, rfl, rfl, rfl, rfl⟩))
    | apply keep_ite | split

theorem hearShardLost_keeps {K : State → Prop}
    (hK : Free [.host, .rows, .slots, .pools, .skeinMem, .hanks, .groups, .bed, .ports, .routing, .traffic, .flows, .course, .perf, .blocked, .drops, .out] K)
    {b : BitVec 192} {s : State} (h0 : K s) : K (hearShardLost b s) := by
  unfold hearShardLost
  try dsimp -proj only
  with_reducible repeat' first
    | assumption | apply updShard_keeps (hK.sub rfl) | apply settled_keeps (hK.sub rfl)
    | apply dropMirrors_keeps (hK.sub rfl) | apply assignHank_keeps (hK.sub rfl) | intro _ | apply keep_forEach
    | intro _ | (fail_if_no_progress refine Free.mk hK ?_ (Frame.only fun p hp => by
        cases p <;> first
          | exact absurd hp (by with_unfolding_all decide) | exact rfl | exact ⟨rfl, rfl, rfl, rfl, rfl⟩))
    | apply keep_ite | split

theorem execShardLost_keeps {K : State → Prop}
    (hK : Free [.host, .rows, .slots, .pools, .skeinMem, .hanks, .groups, .bed, .ports, .drones, .routing, .traffic, .flows, .course, .perf, .blocked, .drops, .out] K)
    {lane : BitVec 5} {body : BitVec 192} {s : State} (h0 : K s) {st1 : State}
    (he : execShardLost lane body s = .next st1) : K st1 := by
  unfold execShardLost at he
  repeat' (split at he)
  all_goals (injection he with he; subst he)
  with_reducible repeat' first
    | assumption | apply hearFlood_keeps (hK.sub rfl) | apply hearShardLost_keeps (hK.sub rfl) | intro _

theorem loseShard_keeps {K : State → Prop}
    (hK : Free [.host, .rows, .slots, .pools, .skeinMem, .hanks, .groups, .bed, .ports, .drones, .routing, .traffic, .flows, .course, .perf, .blocked, .drops, .out] K)
    {gid : Nat} {k : Nat} {s : State} (h0 : K s) : K (loseShard gid k s) := by
  unfold loseShard
  try dsimp -proj only
  with_reducible repeat' first
    | assumption | apply updShard_keeps (hK.sub rfl) | apply postEvent_keeps (hK.sub rfl)
    | apply flood_keeps (hK.sub rfl) | apply failChunk_keeps (hK.sub rfl) | apply settled_keeps (hK.sub rfl)
    | apply sealNow_keeps (hK.sub rfl) | intro _ | apply keep_forEach | intro _
    | (fail_if_no_progress refine Free.mk hK ?_ (Frame.only fun p hp => by
        cases p <;> first
          | exact absurd hp (by with_unfolding_all decide) | exact rfl | exact ⟨rfl, rfl, rfl, rfl, rfl⟩))
    | apply keep_ite | split

theorem hankError_keeps {K : State → Prop}
    (hK : Free [.flash, .host, .rows, .slots, .pools, .skeinMem, .hanks, .groups, .bed, .ports, .drones, .clock, .routing, .traffic, .flows, .course, .perf, .slotCounts, .boot, .blocked, .power, .drops, .out] K)
    {h : Nat} {s : State} (h0 : K s) : K (hankError h s) := by
  unfold hankError
  try dsimp -proj only
  with_reducible repeat' first
    | assumption | apply moduleReset_keeps (hK.sub rfl) | apply setHank_keeps (hK.sub rfl)
    | apply loseShard_keeps (hK.sub rfl) | apply dropLost_keeps (hK.sub rfl) | apply keep_ite | split

theorem execSkeinUncorrectableError_keeps {K : State → Prop}
    (hK : Free [.flash, .host, .rows, .slots, .pools, .skeinMem, .hanks, .groups, .bed, .ports, .drones, .clock, .routing, .traffic, .flows, .course, .perf, .slotCounts, .boot, .blocked, .power, .drops, .out] K)
    {hank : BitVec 19} {s : State} (h0 : K s) {st1 : State} (he : execSkeinUncorrectableError hank s = .next st1) :
    K st1 := by
  unfold execSkeinUncorrectableError at he
  repeat' (split at he)
  all_goals (injection he with he; subst he)
  with_reducible repeat' first
    | assumption | apply hankError_keeps (hK.sub rfl)

theorem endpointCheck_keeps {K : State → Prop} (hK : Free [.host, .drones, .course, .blocked, .out] K)
    {e : Nat} {s : State} (h0 : K s) : K (endpointCheck e s) := by
  unfold endpointCheck
  with_reducible repeat' first
    | assumption | apply flood_keeps (hK.sub rfl) | apply keep_ite | split

theorem loseEndpoint_keeps {K : State → Prop} (hK : Free [.host, .drones, .course, .blocked, .out] K) {e : Nat}
    {s : State} (h0 : K s) : K (loseEndpoint e s) := by
  unfold loseEndpoint
  try dsimp -proj only
  with_reducible repeat' first
    | assumption | apply endpointCheck_keeps (hK.sub rfl) | apply toPartner_keeps (hK.sub rfl)
    | (fail_if_no_progress refine Free.mk hK ?_ (Frame.only fun p hp => by
        cases p <;> first
          | exact absurd hp (by with_unfolding_all decide) | exact rfl | exact ⟨rfl, rfl, rfl, rfl, rfl⟩))
    | apply keep_ite | split

theorem endpointBack_keeps {K : State → Prop} (hK : Free [.course] K) {e : Nat} {s : State} (h0 : K s) :
    K (endpointBack e s) := by
  unfold endpointBack
  with_reducible repeat' first
    | assumption | (fail_if_no_progress refine Free.mk hK ?_ (Frame.only fun p hp => by
        cases p <;> first
          | exact absurd hp (by with_unfolding_all decide) | exact rfl | exact ⟨rfl, rfl, rfl, rfl, rfl⟩))

theorem execEpPortLost_keeps {K : State → Prop} (hK : Free [.host, .drones, .course, .blocked, .out] K)
    {lane : BitVec 5} {body : BitVec 192} {s : State} (h0 : K s) {st1 : State}
    (he : execEpPortLost lane body s = .next st1) : K st1 := by
  unfold execEpPortLost at he
  repeat' (split at he)
  all_goals (injection he with he; subst he)
  try dsimp -proj only
  with_reducible repeat' first
    | assumption | apply hearPartner_keeps (hK.sub rfl) | apply endpointCheck_keeps (hK.sub rfl) | intro _
    | (fail_if_no_progress refine Free.mk hK ?_ (Frame.only fun p hp => by
        cases p <;> first
          | exact absurd hp (by with_unfolding_all decide) | exact rfl | exact ⟨rfl, rfl, rfl, rfl, rfl⟩))

theorem swapAll_keeps {K : State → Prop} (hK : Free [.host, .hanks, .groups, .course, .blocked, .out] K)
    {owner : Bool} {s : State} (h0 : K s) : K (swapAll owner s) := by
  unfold swapAll
  with_reducible repeat' first
    | assumption | apply updGroup_keeps (hK.sub rfl) | apply swapRoles_keeps (hK.sub rfl) | intro _
    | (unfold id; assumption) | apply keep_forEach | intro _
    | (fail_if_no_progress refine Free.mk hK ?_ (Frame.only fun p hp => by
        cases p <;> first
          | exact absurd hp (by with_unfolding_all decide) | exact rfl | exact ⟨rfl, rfl, rfl, rfl, rfl⟩))
    | apply keep_ite | split

theorem requestEvacuation_keeps {K : State → Prop} (hK : Free [.drones, .course, .out] K) {s : State}
    (h0 : K s) : K (requestEvacuation s) := by
  unfold requestEvacuation
  with_reducible repeat' first
    | assumption | apply toPartner_keeps (hK.sub rfl)
    | (fail_if_no_progress refine Free.mk hK ?_ (Frame.only fun p hp => by
        cases p <;> first
          | exact absurd hp (by with_unfolding_all decide) | exact rfl | exact ⟨rfl, rfl, rfl, rfl, rfl⟩))

theorem execEvacuate_keeps {K : State → Prop} (hK : Free [.host, .drones, .course, .perf, .blocked, .out] K)
    {sq : BitVec 8} {d : Desc} {s : State} (h0 : K s) {st1 : State} (he : execEvacuate sq d s = .next st1) : K st1 := by
  unfold execEvacuate at he
  repeat' (split at he)
  all_goals (injection he with he; subst he)
  with_reducible repeat' first
    | assumption | apply bad_keeps (hK.sub rfl) | apply ok_keeps (hK.sub rfl)
    | apply requestEvacuation_keeps (hK.sub rfl) | intro _ | apply runCommand_keeps (hK.sub rfl) | intro _
    | apply keep_ite | split

theorem hearEvacReq_keeps {K : State → Prop}
    (hK : Free [.host, .hanks, .groups, .drones, .course, .blocked, .out] K) {s : State} (h0 : K s) :
    K (hearEvacReq s) := by
  unfold hearEvacReq
  try dsimp -proj only
  with_reducible repeat' first
    | assumption | apply toPartner_keeps (hK.sub rfl) | apply postEvent_keeps (hK.sub rfl)
    | apply swapAll_keeps (hK.sub rfl) | (fail_if_no_progress refine Free.mk hK ?_ (Frame.only fun p hp => by
        cases p <;> first
          | exact absurd hp (by with_unfolding_all decide) | exact rfl | exact ⟨rfl, rfl, rfl, rfl, rfl⟩))
    | apply keep_ite | split

theorem execEvacReq_keeps {K : State → Prop}
    (hK : Free [.host, .hanks, .groups, .drones, .course, .blocked, .out] K) {lane : BitVec 5} {_body : BitVec 192}
    {s : State} (h0 : K s) {st1 : State} (he : execEvacReq lane _body s = .next st1) : K st1 := by
  unfold execEvacReq at he
  repeat' (split at he)
  all_goals (injection he with he; subst he)
  with_reducible repeat' first
    | assumption | apply hearPartner_keeps (hK.sub rfl) | apply hearEvacReq_keeps (hK.sub rfl) | intro _

theorem hearEvacAck_keeps {K : State → Prop} (hK : Free [.host, .hanks, .groups, .course, .blocked, .out] K)
    {cause : Nat} {s : State} (h0 : K s) : K (hearEvacAck cause s) := by
  unfold hearEvacAck
  try dsimp -proj only
  with_reducible repeat' first
    | assumption | apply swapAll_keeps (hK.sub rfl) | apply postEvent_keeps (hK.sub rfl)
    | (fail_if_no_progress refine Free.mk hK ?_ (Frame.only fun p hp => by
        cases p <;> first
          | exact absurd hp (by with_unfolding_all decide) | exact rfl | exact ⟨rfl, rfl, rfl, rfl, rfl⟩))
    | apply keep_ite | split

theorem execEvacAck_keeps {K : State → Prop} (hK : Free [.host, .hanks, .groups, .course, .blocked, .out] K)
    {lane : BitVec 5} {body : BitVec 192} {s : State} (h0 : K s) {st1 : State}
    (he : execEvacAck lane body s = .next st1) : K st1 := by
  unfold execEvacAck at he
  repeat' (split at he)
  all_goals (injection he with he; subst he)
  with_reducible repeat' first
    | assumption | apply hearPartner_keeps (hK.sub rfl) | apply hearEvacAck_keeps (hK.sub rfl) | intro _

theorem drain_keeps {K : State → Prop} (hK : Free [.host, .drones, .course, .blocked, .out] K) {t : Tok}
    {s : State} (h0 : K s) : K (drain t s) := by
  unfold drain
  try dsimp -proj only
  with_reducible repeat' first
    | assumption | apply bad_keeps (hK.sub rfl) | apply flood_keeps (hK.sub rfl)
    | apply requestEvacuation_keeps (hK.sub rfl)
    | (fail_if_no_progress refine Free.mk hK ?_ (Frame.only fun p hp => by
        cases p <;> first
          | exact absurd hp (by with_unfolding_all decide) | exact rfl | exact ⟨rfl, rfl, rfl, rfl, rfl⟩))
    | apply keep_ite | split

theorem execDrain_keeps {K : State → Prop} (hK : Free [.host, .drones, .course, .perf, .blocked, .out] K)
    {sq : BitVec 8} {d : Desc} {s : State} (h0 : K s) {st1 : State} (he : execDrain sq d s = .next st1) : K st1 := by
  unfold execDrain at he
  repeat' (split at he)
  all_goals (injection he with he; subst he)
  with_reducible repeat' first
    | assumption | apply drain_keeps (hK.sub rfl) | apply bad_keeps (hK.sub rfl) | intro _
    | apply runCommand_keeps (hK.sub rfl) | intro _ | apply keep_ite | split

theorem drainQuiescent_keeps {K : State → Prop} (hK : Free [.host, .course, .blocked, .out] K) {s : State}
    (h0 : K s) : K (drainQuiescent s) := by
  unfold drainQuiescent
  with_reducible repeat' first
    | assumption | apply ok_keeps (hK.sub rfl) | apply postEvent_keeps (hK.sub rfl)
    | (fail_if_no_progress refine Free.mk hK ?_ (Frame.only fun p hp => by
        cases p <;> first
          | exact absurd hp (by with_unfolding_all decide) | exact rfl | exact ⟨rfl, rfl, rfl, rfl, rfl⟩))
    | apply keep_ite | split

theorem execDrainQuiescent_keeps {K : State → Prop} (hK : Free [.host, .course, .blocked, .out] K) {s : State}
    (h0 : K s) {st1 : State} (he : execDrainQuiescent s = .next st1) : K st1 := by
  unfold execDrainQuiescent at he
  repeat' (split at he)
  all_goals (injection he with he; subst he)
  with_reducible repeat' first
    | assumption | apply drainQuiescent_keeps (hK.sub rfl)

theorem secureAll_keeps {K : State → Prop} (hK : Free [.host, .hanks, .groups, .blocked, .out] K) {s : State}
    (h0 : K s) : K (secureAll s) := by
  unfold secureAll
  with_reducible repeat' first
    | assumption | apply requestSecure_keeps (hK.sub rfl) | intro _ | (unfold id; assumption) | apply keep_forEach
    | intro _

theorem levelActs_keeps {K : State → Prop}
    (hK : Free [.host, .hanks, .groups, .drones, .course, .blocked, .out] K) {l : Nat} {s : State} (h0 : K s) :
    K (levelActs l s) := by
  unfold levelActs
  try dsimp -proj only
  with_reducible repeat' first
    | assumption | apply flood_keeps (hK.sub rfl) | apply secureAll_keeps (hK.sub rfl)
    | apply toPartner_keeps (hK.sub rfl) | apply requestEvacuation_keeps (hK.sub rfl) | split

theorem checkLevel_keeps {K : State → Prop}
    (hK : Free [.host, .hanks, .groups, .drones, .course, .blocked, .out] K) {l : Nat} {s : State} (h0 : K s) :
    K (checkLevel l s) := by
  unfold checkLevel
  try dsimp -proj only
  with_reducible repeat' first
    | assumption | apply levelActs_keeps (hK.sub rfl)
    | (fail_if_no_progress refine Free.mk hK ?_ (Frame.only fun p hp => by
        cases p <;> first
          | exact absurd hp (by with_unfolding_all decide) | exact rfl | exact ⟨rfl, rfl, rfl, rfl, rfl⟩))
    | apply keep_ite | split

theorem riskUpdate_keeps {K : State → Prop}
    (hK : Free [.host, .hanks, .groups, .drones, .course, .blocked, .out] K) {celsius : Nat} {s : State}
    (h0 : K s) : K (riskUpdate celsius s) := by
  unfold riskUpdate
  try dsimp -proj only
  with_reducible repeat' first
    | assumption | apply checkLevel_keeps (hK.sub rfl) | intro _ | apply keep_forEach | intro _
    | (fail_if_no_progress refine Free.mk hK ?_ (Frame.only fun p hp => by
        cases p <;> first
          | exact absurd hp (by with_unfolding_all decide) | exact rfl | exact ⟨rfl, rfl, rfl, rfl, rfl⟩))
    | apply keep_ite | split

theorem execRiskUpdate_keeps {K : State → Prop}
    (hK : Free [.host, .hanks, .groups, .drones, .course, .blocked, .out] K) {celsius : BitVec 8} {s : State}
    (h0 : K s) {st1 : State} (he : execRiskUpdate celsius s = .next st1) : K st1 := by
  unfold execRiskUpdate at he
  repeat' (split at he)
  all_goals (injection he with he; subst he)
  with_reducible repeat' first
    | assumption | apply riskUpdate_keeps (hK.sub rfl)

theorem execSecureReq_keeps {K : State → Prop} (hK : Free [.host, .hanks, .groups, .blocked, .out] K)
    {lane : BitVec 5} {_body : BitVec 192} {s : State} (h0 : K s) {st1 : State}
    (he : execSecureReq lane _body s = .next st1) : K st1 := by
  unfold execSecureReq at he
  repeat' (split at he)
  all_goals (injection he with he; subst he)
  with_reducible repeat' first
    | assumption | apply hearPartner_keeps (hK.sub rfl) | apply secureAll_keeps (hK.sub rfl) | intro _

end Sys2Proof.Machine
end

