-- ==== Sys2Proof/Laws/FrameModule.lean ====
section
/-!
SUPPORT. Frames, of boot, power, counters and arriving packets: for each
function, the parts of the state it may change; a property free of them is kept.
-/
set_option linter.unusedVariables false
set_option linter.unusedTactic false
set_option linter.unreachableTactic false

namespace Sys2Proof.Machine

theorem releaseReset_keeps {K : State → Prop}
    (hK : Free [.flash, .host, .slots, .hanks, .boot, .blocked, .power] K) {s : State} (h0 : K s) :
    K (releaseReset s) := by
  unfold releaseReset
  with_reducible repeat' first
    | assumption | apply bootRom_keeps (hK.sub rfl)
    | (fail_if_no_progress refine Free.mk hK ?_ (Frame.only fun p hp => by
        cases p <;> first
          | exact absurd hp (by with_unfolding_all decide) | exact rfl | exact ⟨rfl, rfl, rfl, rfl, rfl⟩))
    | apply keep_ite | split

theorem execResetRelease_keeps {K : State → Prop}
    (hK : Free [.flash, .host, .slots, .hanks, .boot, .blocked, .power] K) {s : State} (h0 : K s) {st1 : State}
    (he : execResetRelease s = .next st1) : K st1 := by
  unfold execResetRelease at he
  repeat' (split at he)
  all_goals (injection he with he; subst he)
  with_reducible repeat' first
    | assumption | apply releaseReset_keeps (hK.sub rfl)

theorem writeSlot_keeps {K : State → Prop} (hK : Free [.flash] K) {slot : Bool} {bs : List Byte} {s : State}
    (h0 : K s) : K (writeSlot slot bs s) := by
  unfold writeSlot
  with_reducible repeat' first
    | assumption | (fail_if_no_progress refine Free.mk hK ?_ (Frame.only fun p hp => by
        cases p <;> first
          | exact absurd hp (by with_unfolding_all decide) | exact rfl | exact ⟨rfl, rfl, rfl, rfl, rfl⟩))
    | apply keep_ite | split

theorem fwStage_keeps {K : State → Prop} (hK : Free [.host, .boot] K) {h : HostRead} {s : State} (h0 : K s) :
    K (fwStage h s) := by
  unfold fwStage
  try dsimp -proj only
  with_reducible repeat' first
    | assumption | apply fwResult_keeps (hK.sub rfl) | apply noteRead_keeps (hK.sub rfl)
    | (fail_if_no_progress refine Free.mk hK ?_ (Frame.only fun p hp => by
        cases p <;> first
          | exact absurd hp (by with_unfolding_all decide) | exact rfl | exact ⟨rfl, rfl, rfl, rfl, rfl⟩))
    | apply keep_ite | split

theorem stageStep_keeps {K : State → Prop} (hK : Free [.flash, .boot, .blocked] K) {s : State} (h0 : K s) :
    K (stageStep s) := by
  unfold stageStep
  try dsimp -proj only
  with_reducible repeat' first
    | assumption | apply fwResult_keeps (hK.sub rfl) | apply setResult_keeps (hK.sub rfl)
    | apply writeSlot_keeps (hK.sub rfl) | (fail_if_no_progress refine Free.mk hK ?_ (Frame.only fun p hp => by
        cases p <;> first
          | exact absurd hp (by with_unfolding_all decide) | exact rfl | exact ⟨rfl, rfl, rfl, rfl, rfl⟩))
    | apply keep_ite | split

theorem fwChoose_keeps {K : State → Prop} (hK : Free [.flash, .boot, .blocked] K) {op : Nat}
    {g : BootControl → BootControl} {s : State} (h0 : K s) : K (fwChoose op g s) := by
  unfold fwChoose
  try dsimp -proj only
  with_reducible repeat' first
    | assumption | apply fwResult_keeps (hK.sub rfl) | apply setResult_keeps (hK.sub rfl)
    | apply writeControl_keeps (hK.sub rfl) | apply keep_ite | split

theorem fwTrial_keeps {K : State → Prop} (hK : Free [.flash, .boot, .blocked] K) {s : State} (h0 : K s) :
    K (fwTrial s) := by
  unfold fwTrial
  with_reducible repeat' first
    | assumption | apply fwChoose_keeps (hK.sub rfl)
    | (fail_if_no_progress refine Free.mk hK ?_ (Frame.only fun p hp => by
        cases p <;> first
          | exact absurd hp (by with_unfolding_all decide) | exact rfl | exact ⟨rfl, rfl, rfl, rfl, rfl⟩))

theorem fwSelect_keeps {K : State → Prop} (hK : Free [.flash, .boot, .blocked] K) {s : State} (h0 : K s) :
    K (fwSelect s) := by
  unfold fwSelect
  with_reducible repeat' first
    | assumption | apply fwChoose_keeps (hK.sub rfl)
    | (fail_if_no_progress refine Free.mk hK ?_ (Frame.only fun p hp => by
        cases p <;> first
          | exact absurd hp (by with_unfolding_all decide) | exact rfl | exact ⟨rfl, rfl, rfl, rfl, rfl⟩))

theorem fwCommit_keeps {K : State → Prop} (hK : Free [.flash, .boot] K) {s : State} (h0 : K s) : K (fwCommit s) := by
  unfold fwCommit
  with_reducible repeat' first
    | assumption | apply fwResult_keeps (hK.sub rfl) | apply writeControl_keeps (hK.sub rfl)
    | (fail_if_no_progress refine Free.mk hK ?_ (Frame.only fun p hp => by
        cases p <;> first
          | exact absurd hp (by with_unfolding_all decide) | exact rfl | exact ⟨rfl, rfl, rfl, rfl, rfl⟩))
    | apply keep_ite | split

theorem fwProtect_keeps {K : State → Prop} (hK : Free [.flash, .host, .boot] K) {h : HostRead} {s : State}
    (h0 : K s) : K (fwProtect h s) := by
  unfold fwProtect
  try dsimp -proj only
  with_reducible repeat' first
    | assumption | apply fwResult_keeps (hK.sub rfl) | apply noteRead_keeps (hK.sub rfl)
    | (fail_if_no_progress refine Free.mk hK ?_ (Frame.only fun p hp => by
        cases p <;> first
          | exact absurd hp (by with_unfolding_all decide) | exact rfl | exact ⟨rfl, rfl, rfl, rfl, rfl⟩))
    | apply keep_ite | split

theorem fwFields_keeps {K : State → Prop} (hK : Free [.boot] K) {v : Nat} {s : State} (h0 : K s) :
    K (fwFields v s) := by
  unfold fwFields
  with_reducible repeat' first
    | assumption | (fail_if_no_progress refine Free.mk hK ?_ (Frame.only fun p hp => by
        cases p <;> first
          | exact absurd hp (by with_unfolding_all decide) | exact rfl | exact ⟨rfl, rfl, rfl, rfl, rfl⟩))

theorem fwUpdate_keeps {K : State → Prop} (hK : Free [.flash, .host, .boot, .blocked] K) {op : Nat} {v : Nat}
    {h : HostRead} {s : State} (h0 : K s) : K (fwUpdate op v h s) := by
  unfold fwUpdate
  try dsimp -proj only
  with_reducible repeat' first
    | assumption | apply fwFields_keeps (hK.sub rfl) | apply fwResult_keeps (hK.sub rfl)
    | apply fwStage_keeps (hK.sub rfl) | apply fwTrial_keeps (hK.sub rfl) | apply fwCommit_keeps (hK.sub rfl)
    | apply fwSelect_keeps (hK.sub rfl) | apply fwProtect_keeps (hK.sub rfl)
    | (fail_if_no_progress refine Free.mk hK ?_ (Frame.only fun p hp => by
        cases p <;> first
          | exact absurd hp (by with_unfolding_all decide) | exact rfl | exact ⟨rfl, rfl, rfl, rfl, rfl⟩))
    | apply keep_ite | split

theorem execStage_keeps {K : State → Prop} (hK : Free [.flash, .host, .boot, .blocked] K) {value : BitVec 64}
    {host : HostRead} {s : State} (h0 : K s) {st1 : State} (he : execStage value host s = .next st1) : K st1 := by
  unfold execStage at he
  repeat' (split at he)
  all_goals (injection he with he; subst he)
  with_reducible repeat' first
    | assumption | apply fwUpdate_keeps (hK.sub rfl)

theorem execTrial_keeps {K : State → Prop} (hK : Free [.flash, .host, .boot, .blocked] K) {value : BitVec 64}
    {s : State} (h0 : K s) {st1 : State} (he : execTrial value s = .next st1) : K st1 := by
  unfold execTrial at he
  repeat' (split at he)
  all_goals (injection he with he; subst he)
  with_reducible repeat' first
    | assumption | apply fwUpdate_keeps (hK.sub rfl)

theorem execCommit_keeps {K : State → Prop} (hK : Free [.flash, .host, .boot, .blocked] K) {value : BitVec 64}
    {s : State} (h0 : K s) {st1 : State} (he : execCommit value s = .next st1) : K st1 := by
  unfold execCommit at he
  repeat' (split at he)
  all_goals (injection he with he; subst he)
  with_reducible repeat' first
    | assumption | apply fwUpdate_keeps (hK.sub rfl)

theorem execSelect_keeps {K : State → Prop} (hK : Free [.flash, .host, .boot, .blocked] K) {value : BitVec 64}
    {s : State} (h0 : K s) {st1 : State} (he : execSelect value s = .next st1) : K st1 := by
  unfold execSelect at he
  repeat' (split at he)
  all_goals (injection he with he; subst he)
  with_reducible repeat' first
    | assumption | apply fwUpdate_keeps (hK.sub rfl)

theorem execProtect_keeps {K : State → Prop} (hK : Free [.flash, .host, .boot, .blocked] K) {value : BitVec 64}
    {host : HostRead} {s : State} (h0 : K s) {st1 : State} (he : execProtect value host s = .next st1) : K st1 := by
  unfold execProtect at he
  repeat' (split at he)
  all_goals (injection he with he; subst he)
  with_reducible repeat' first
    | assumption | apply fwUpdate_keeps (hK.sub rfl)

theorem attest_keeps {K : State → Prop} (hK : Free [.boot] K) {s : State} (h0 : K s) : K (attest s) := by
  unfold attest
  with_reducible repeat' first
    | assumption | (fail_if_no_progress refine Free.mk hK ?_ (Frame.only fun p hp => by
        cases p <;> first
          | exact absurd hp (by with_unfolding_all decide) | exact rfl | exact ⟨rfl, rfl, rfl, rfl, rfl⟩))
    | apply keep_ite | split

theorem attestStep_keeps {K : State → Prop} (hK : Free [.boot] K) {s : State} (h0 : K s) : K (attestStep s) := by
  unfold attestStep
  try dsimp -proj only
  with_reducible repeat' first
    | assumption | (fail_if_no_progress refine Free.mk hK ?_ (Frame.only fun p hp => by
        cases p <;> first
          | exact absurd hp (by with_unfolding_all decide) | exact rfl | exact ⟨rfl, rfl, rfl, rfl, rfl⟩))
    | apply keep_ite | split

theorem execAttestGo_keeps {K : State → Prop} (hK : Free [.boot] K) {value : BitVec 32} {s : State} (h0 : K s)
    {st1 : State} (he : execAttestGo value s = .next st1) : K st1 := by
  unfold execAttestGo at he
  repeat' (split at he)
  all_goals (injection he with he; subst he)
  with_reducible repeat' first
    | assumption | apply attest_keeps (hK.sub rfl) | apply keep_ite | split

theorem powerEvent_keeps {K : State → Prop} (hK : Free [.host, .blocked, .out] K) {code : Nat} {value : Nat}
    {s : State} (h0 : K s) : K (powerEvent code value s) := by
  unfold powerEvent
  with_reducible repeat' first
    | assumption | apply postEvent_keeps (hK.sub rfl)

theorem powerUp_keeps {K : State → Prop}
    (hK : Free [.flash, .host, .rows, .slots, .pools, .skeinMem, .hanks, .groups, .bed, .ports, .drones, .clock, .routing, .traffic, .flows, .course, .perf, .slotCounts, .boot, .blocked, .power, .drops] K)
    {s : State} (h0 : K s) : K (powerUp s) := by
  unfold powerUp
  try dsimp -proj only
  with_reducible repeat' first
    | assumption | apply moduleReset_keeps (hK.sub rfl)
    | (fail_if_no_progress refine Free.mk hK ?_ (Frame.only fun p hp => by
        cases p <;> first
          | exact absurd hp (by with_unfolding_all decide) | exact rfl | exact ⟨rfl, rfl, rfl, rfl, rfl⟩))
    | apply keep_ite | split

theorem execPwrgdRise_keeps {K : State → Prop}
    (hK : Free [.flash, .host, .rows, .slots, .pools, .skeinMem, .hanks, .groups, .bed, .ports, .drones, .clock, .routing, .traffic, .flows, .course, .perf, .slotCounts, .boot, .blocked, .power, .drops] K)
    {s : State} (h0 : K s) {st1 : State} (he : execPwrgdRise s = .next st1) : K st1 := by
  unfold execPwrgdRise at he
  repeat' (split at he)
  all_goals (injection he with he; subst he)
  with_reducible repeat' first
    | assumption | apply powerUp_keeps (hK.sub rfl)

theorem powerDown_keeps {K : State → Prop}
    (hK : Free [.flash, .host, .rows, .slots, .pools, .skeinMem, .hanks, .groups, .bed, .ports, .drones, .clock, .routing, .traffic, .flows, .course, .perf, .slotCounts, .boot, .blocked, .power, .drops] K)
    {pwrgd : Bool} {s : State} (h0 : K s) : K (powerDown pwrgd s) := by
  unfold powerDown
  try dsimp -proj only
  with_reducible repeat' first
    | assumption | apply moduleReset_keeps (hK.sub rfl)
    | (fail_if_no_progress refine Free.mk hK ?_ (Frame.only fun p hp => by
        cases p <;> first
          | exact absurd hp (by with_unfolding_all decide) | exact rfl | exact ⟨rfl, rfl, rfl, rfl, rfl⟩))

theorem execPwrgdFall_keeps {K : State → Prop}
    (hK : Free [.flash, .host, .rows, .slots, .pools, .skeinMem, .hanks, .groups, .bed, .ports, .drones, .clock, .routing, .traffic, .flows, .course, .perf, .slotCounts, .boot, .blocked, .power, .drops] K)
    {s : State} (h0 : K s) {st1 : State} (he : execPwrgdFall s = .next st1) : K st1 := by
  unfold execPwrgdFall at he
  repeat' (split at he)
  all_goals (injection he with he; subst he)
  with_reducible repeat' first
    | assumption | apply powerDown_keeps (hK.sub rfl)

theorem execInputOutOfRange_keeps {K : State → Prop}
    (hK : Free [.flash, .host, .rows, .slots, .pools, .skeinMem, .hanks, .groups, .bed, .ports, .drones, .clock, .routing, .traffic, .flows, .course, .perf, .slotCounts, .boot, .blocked, .power, .drops] K)
    {vin : BitVec 16} {s : State} (h0 : K s) {st1 : State} (he : execInputOutOfRange vin s = .next st1) : K st1 := by
  unfold execInputOutOfRange at he
  repeat' (split at he)
  all_goals (injection he with he; subst he)
  with_reducible repeat' first
    | assumption | apply powerDown_keeps (hK.sub rfl) | apply keep_ite | split

theorem resetInput_keeps {K : State → Prop}
    (hK : Free [.flash, .host, .rows, .slots, .pools, .skeinMem, .hanks, .groups, .bed, .ports, .drones, .clock, .routing, .traffic, .flows, .course, .perf, .slotCounts, .boot, .blocked, .power, .drops] K)
    {s : State} (h0 : K s) : K (resetInput s) := by
  unfold resetInput
  try dsimp -proj only
  with_reducible repeat' first
    | assumption | apply moduleReset_keeps (hK.sub rfl)
    | (fail_if_no_progress refine Free.mk hK ?_ (Frame.only fun p hp => by
        cases p <;> first
          | exact absurd hp (by with_unfolding_all decide) | exact rfl | exact ⟨rfl, rfl, rfl, rfl, rfl⟩))
    | apply keep_ite | split

theorem execResetNLow_keeps {K : State → Prop}
    (hK : Free [.flash, .host, .rows, .slots, .pools, .skeinMem, .hanks, .groups, .bed, .ports, .drones, .clock, .routing, .traffic, .flows, .course, .perf, .slotCounts, .boot, .blocked, .power, .drops] K)
    {s : State} (h0 : K s) {st1 : State} (he : execResetNLow s = .next st1) : K st1 := by
  unfold execResetNLow at he
  repeat' (split at he)
  all_goals (injection he with he; subst he)
  with_reducible repeat' first
    | assumption | apply resetInput_keeps (hK.sub rfl)

theorem execWatchdogExpiry_keeps {K : State → Prop}
    (hK : Free [.flash, .host, .rows, .slots, .pools, .skeinMem, .hanks, .groups, .bed, .ports, .drones, .clock, .routing, .traffic, .flows, .course, .perf, .slotCounts, .boot, .blocked, .power, .drops] K)
    {core : BitVec 2} {s : State} (h0 : K s) {st1 : State} (he : execWatchdogExpiry core s = .next st1) : K st1 := by
  unfold execWatchdogExpiry at he
  repeat' (split at he)
  all_goals (injection he with he; subst he)
  with_reducible repeat' first
    | assumption | apply moduleReset_keeps (hK.sub rfl) | apply keep_ite | split

theorem execHeadstockSramError_keeps {K : State → Prop}
    (hK : Free [.flash, .host, .rows, .slots, .pools, .skeinMem, .hanks, .groups, .bed, .ports, .drones, .clock, .routing, .traffic, .flows, .course, .perf, .slotCounts, .boot, .blocked, .power, .drops] K)
    {s : State} (h0 : K s) {st1 : State} (he : execHeadstockSramError s = .next st1) : K st1 := by
  unfold execHeadstockSramError at he
  repeat' (split at he)
  all_goals (injection he with he; subst he)
  with_reducible repeat' first
    | assumption | apply poweredReset_keeps (hK.sub rfl)

theorem coreRailFault_keeps {K : State → Prop}
    (hK : Free [.flash, .host, .rows, .slots, .pools, .skeinMem, .hanks, .groups, .bed, .ports, .drones, .clock, .routing, .traffic, .flows, .course, .perf, .slotCounts, .boot, .blocked, .power, .drops] K)
    {s : State} (h0 : K s) : K (coreRailFault s) := by
  unfold coreRailFault
  try dsimp -proj only
  with_reducible repeat' first
    | assumption | apply poweredReset_keeps (hK.sub rfl)
    | (fail_if_no_progress refine Free.mk hK ?_ (Frame.only fun p hp => by
        cases p <;> first
          | exact absurd hp (by with_unfolding_all decide) | exact rfl | exact ⟨rfl, rfl, rfl, rfl, rfl⟩))

theorem execCoreRailFault_keeps {K : State → Prop}
    (hK : Free [.flash, .host, .rows, .slots, .pools, .skeinMem, .hanks, .groups, .bed, .ports, .drones, .clock, .routing, .traffic, .flows, .course, .perf, .slotCounts, .boot, .blocked, .power, .drops] K)
    {s : State} (h0 : K s) {st1 : State} (he : execCoreRailFault s = .next st1) : K st1 := by
  unfold execCoreRailFault at he
  repeat' (split at he)
  all_goals (injection he with he; subst he)
  with_reducible repeat' first
    | assumption | apply coreRailFault_keeps (hK.sub rfl)

theorem droopBegin_keeps {K : State → Prop} (hK : Free [.host, .course, .blocked, .power, .out] K)
    {lowest : Nat} {s : State} (h0 : K s) : K (droopBegin lowest s) := by
  unfold droopBegin
  try dsimp -proj only
  with_reducible repeat' first
    | assumption | apply powerEvent_keeps (hK.sub rfl)
    | (fail_if_no_progress refine Free.mk hK ?_ (Frame.only fun p hp => by
        cases p <;> first
          | exact absurd hp (by with_unfolding_all decide) | exact rfl | exact ⟨rfl, rfl, rfl, rfl, rfl⟩))
    | apply keep_ite | split

theorem execDroopBegin_keeps {K : State → Prop} (hK : Free [.host, .course, .blocked, .power, .out] K)
    {lowest : BitVec 16} {s : State} (h0 : K s) {st1 : State} (he : execDroopBegin lowest s = .next st1) : K st1 := by
  unfold execDroopBegin at he
  repeat' (split at he)
  all_goals (injection he with he; subst he)
  with_reducible repeat' first
    | assumption | apply droopBegin_keeps (hK.sub rfl)

theorem execDroopEnd_keeps {K : State → Prop} (hK : Free [.power] K) {vin : BitVec 16} {s : State} (h0 : K s)
    {st1 : State} (he : execDroopEnd vin s = .next st1) : K st1 := by
  unfold execDroopEnd at he
  repeat' (split at he)
  all_goals (injection he with he; subst he)
  with_reducible repeat' first
    | assumption | (fail_if_no_progress refine Free.mk hK ?_ (Frame.only fun p hp => by
        cases p <;> first
          | exact absurd hp (by with_unfolding_all decide) | exact rfl | exact ⟨rfl, rfl, rfl, rfl, rfl⟩))
    | apply keep_ite | split

theorem execDroopThrottleRelease_keeps {K : State → Prop} (hK : Free [.host, .blocked, .power, .out] K)
    {s : State} (h0 : K s) {st1 : State} (he : execDroopThrottleRelease s = .next st1) : K st1 := by
  unfold execDroopThrottleRelease at he
  repeat' (split at he)
  all_goals (injection he with he; subst he)
  with_reducible repeat' first
    | assumption | apply powerEvent_keeps (hK.sub rfl)
    | (fail_if_no_progress refine Free.mk hK ?_ (Frame.only fun p hp => by
        cases p <;> first
          | exact absurd hp (by with_unfolding_all decide) | exact rfl | exact ⟨rfl, rfl, rfl, rfl, rfl⟩))
    | apply keep_ite | split

theorem execPowerThrottleEngage_keeps {K : State → Prop} (hK : Free [.host, .blocked, .power, .out] K)
    {watts : BitVec 16} {s : State} (h0 : K s) {st1 : State} (he : execPowerThrottleEngage watts s = .next st1) : K
    st1 := by
  unfold execPowerThrottleEngage at he
  repeat' (split at he)
  all_goals (injection he with he; subst he)
  with_reducible repeat' first
    | assumption | apply powerEvent_keeps (hK.sub rfl)
    | (fail_if_no_progress refine Free.mk hK ?_ (Frame.only fun p hp => by
        cases p <;> first
          | exact absurd hp (by with_unfolding_all decide) | exact rfl | exact ⟨rfl, rfl, rfl, rfl, rfl⟩))
    | apply keep_ite | split

theorem execPowerThrottleRelease_keeps {K : State → Prop} (hK : Free [.host, .blocked, .power, .out] K)
    {watts : BitVec 16} {s : State} (h0 : K s) {st1 : State} (he : execPowerThrottleRelease watts s = .next st1) :
    K st1 := by
  unfold execPowerThrottleRelease at he
  repeat' (split at he)
  all_goals (injection he with he; subst he)
  with_reducible repeat' first
    | assumption | apply powerEvent_keeps (hK.sub rfl)
    | (fail_if_no_progress refine Free.mk hK ?_ (Frame.only fun p hp => by
        cases p <;> first
          | exact absurd hp (by with_unfolding_all decide) | exact rfl | exact ⟨rfl, rfl, rfl, rfl, rfl⟩))
    | apply keep_ite | split

theorem execThermalThrottleEngage_keeps {K : State → Prop} (hK : Free [.host, .blocked, .power, .out] K)
    {compute : BitVec 8} {s : State} (h0 : K s) {st1 : State}
    (he : execThermalThrottleEngage compute s = .next st1) : K st1 := by
  unfold execThermalThrottleEngage at he
  repeat' (split at he)
  all_goals (injection he with he; subst he)
  with_reducible repeat' first
    | assumption | apply powerEvent_keeps (hK.sub rfl)
    | (fail_if_no_progress refine Free.mk hK ?_ (Frame.only fun p hp => by
        cases p <;> first
          | exact absurd hp (by with_unfolding_all decide) | exact rfl | exact ⟨rfl, rfl, rfl, rfl, rfl⟩))
    | apply keep_ite | split

theorem execThermalThrottleRelease_keeps {K : State → Prop} (hK : Free [.host, .blocked, .power, .out] K)
    {compute : BitVec 8} {s : State} (h0 : K s) {st1 : State}
    (he : execThermalThrottleRelease compute s = .next st1) : K st1 := by
  unfold execThermalThrottleRelease at he
  repeat' (split at he)
  all_goals (injection he with he; subst he)
  with_reducible repeat' first
    | assumption | apply powerEvent_keeps (hK.sub rfl)
    | (fail_if_no_progress refine Free.mk hK ?_ (Frame.only fun p hp => by
        cases p <;> first
          | exact absurd hp (by with_unfolding_all decide) | exact rfl | exact ⟨rfl, rfl, rfl, rfl, rfl⟩))
    | apply keep_ite | split

theorem execThermalWarning_keeps {K : State → Prop} (hK : Free [.host, .blocked, .power, .out] K)
    {part : Junction} {celsius : BitVec 8} {s : State} (h0 : K s) {st1 : State}
    (he : execThermalWarning part celsius s = .next st1) : K st1 := by
  unfold execThermalWarning at he
  repeat' (split at he)
  all_goals (injection he with he; subst he)
  with_reducible repeat' first
    | assumption | apply powerEvent_keeps (hK.sub rfl)
    | (fail_if_no_progress refine Free.mk hK ?_ (Frame.only fun p hp => by
        cases p <;> first
          | exact absurd hp (by with_unfolding_all decide) | exact rfl | exact ⟨rfl, rfl, rfl, rfl, rfl⟩))
    | apply keep_ite | split

theorem thermalTrip_keeps {K : State → Prop}
    (hK : Free [.flash, .host, .rows, .slots, .pools, .skeinMem, .hanks, .groups, .bed, .ports, .drones, .clock, .routing, .traffic, .flows, .course, .perf, .slotCounts, .boot, .blocked, .power, .drops] K)
    {s : State} (h0 : K s) : K (thermalTrip s) := by
  unfold thermalTrip
  try dsimp -proj only
  with_reducible repeat' first
    | assumption | apply moduleReset_keeps (hK.sub rfl)
    | (fail_if_no_progress refine Free.mk hK ?_ (Frame.only fun p hp => by
        cases p <;> first
          | exact absurd hp (by with_unfolding_all decide) | exact rfl | exact ⟨rfl, rfl, rfl, rfl, rfl⟩))

theorem execThermalTrip_keeps {K : State → Prop}
    (hK : Free [.flash, .host, .rows, .slots, .pools, .skeinMem, .hanks, .groups, .bed, .ports, .drones, .clock, .routing, .traffic, .flows, .course, .perf, .slotCounts, .boot, .blocked, .power, .drops] K)
    {part : Junction} {celsius : BitVec 8} {s : State} (h0 : K s) {st1 : State}
    (he : execThermalTrip part celsius s = .next st1) : K st1 := by
  unfold execThermalTrip at he
  repeat' (split at he)
  all_goals (injection he with he; subst he)
  with_reducible repeat' first
    | assumption | apply thermalTrip_keeps (hK.sub rfl) | apply keep_ite | split

theorem execThermalTripRecovery_keeps {K : State → Prop}
    (hK : Free [.flash, .host, .slots, .hanks, .boot, .blocked, .power] K) {compute : BitVec 8} {bridge : BitVec 8}
    {skein : BitVec 8} {s : State} (h0 : K s) {st1 : State}
    (he : execThermalTripRecovery compute bridge skein s = .next st1) : K st1 := by
  unfold execThermalTripRecovery at he
  repeat' (split at he)
  all_goals (injection he with he; subst he)
  try dsimp -proj only
  with_reducible repeat' first
    | assumption | apply releaseReset_keeps (hK.sub rfl)
    | (fail_if_no_progress refine Free.mk hK ?_ (Frame.only fun p hp => by
        cases p <;> first
          | exact absurd hp (by with_unfolding_all decide) | exact rfl | exact ⟨rfl, rfl, rfl, rfl, rfl⟩))
    | apply keep_ite | split

theorem rateLow_keeps {K : State → Prop} (hK : Free [.host, .course, .perf, .blocked, .out] K) {n : Nat}
    {s : State} (h0 : K s) : K (rateLow n s) := by
  unfold rateLow
  with_reducible repeat' first
    | assumption | apply postEvent_keeps (hK.sub rfl)
    | (fail_if_no_progress refine Free.mk hK ?_ (Frame.only fun p hp => by
        cases p <;> first
          | exact absurd hp (by with_unfolding_all decide) | exact rfl | exact ⟨rfl, rfl, rfl, rfl, rfl⟩))

theorem execRateLow_keeps {K : State → Prop} (hK : Free [.host, .course, .perf, .blocked, .out] K)
    {perMicrosecond : BitVec 32} {s : State} (h0 : K s) {st1 : State}
    (he : execRateLow perMicrosecond s = .next st1) : K st1 := by
  unfold execRateLow at he
  repeat' (split at he)
  all_goals (injection he with he; subst he)
  with_reducible repeat' first
    | assumption | apply rateLow_keeps (hK.sub rfl) | apply keep_ite | split

theorem mgmtReply_keeps {K : State → Prop} (hK : Free [.out] K) {code : Byte} {block : Bool} {bs : List Byte}
    {s : State} (h0 : K s) : K (mgmtReply code block bs s) := by
  unfold mgmtReply
  with_reducible repeat' first
    | assumption | (fail_if_no_progress refine Free.mk hK ?_ (Frame.only fun p hp => by
        cases p <;> first
          | exact absurd hp (by with_unfolding_all decide) | exact rfl | exact ⟨rfl, rfl, rfl, rfl, rfl⟩))
    | apply keep_ite | split

theorem mgmtNack_keeps {K : State → Prop} (hK : Free [.out] K) {s : State} (h0 : K s) : K (mgmtNack s) := by
  unfold mgmtNack
  with_reducible repeat' first
    | assumption | (fail_if_no_progress refine Free.mk hK ?_ (Frame.only fun p hp => by
        cases p <;> first
          | exact absurd hp (by with_unfolding_all decide) | exact rfl | exact ⟨rfl, rfl, rfl, rfl, rfl⟩))
    | apply keep_ite | split

theorem execStatus_keeps {K : State → Prop} (hK : Free [.power, .out] K) {s : State} (h0 : K s) {st1 : State}
    (he : execStatus s = .next st1) : K st1 := by
  unfold execStatus at he
  repeat' (split at he)
  all_goals (injection he with he; subst he)
  with_reducible repeat' first
    | assumption | apply mgmtReply_keeps (hK.sub rfl)
    | (fail_if_no_progress refine Free.mk hK ?_ (Frame.only fun p hp => by
        cases p <;> first
          | exact absurd hp (by with_unfolding_all decide) | exact rfl | exact ⟨rfl, rfl, rfl, rfl, rfl⟩))

theorem execVin_keeps {K : State → Prop} (hK : Free [.power, .out] K) {sample : BitVec 16} {s : State}
    (h0 : K s) {st1 : State} (he : execVin sample s = .next st1) : K st1 := by
  unfold execVin at he
  repeat' (split at he)
  all_goals (injection he with he; subst he)
  with_reducible repeat' first
    | assumption | apply mgmtReply_keeps (hK.sub rfl)
    | (fail_if_no_progress refine Free.mk hK ?_ (Frame.only fun p hp => by
        cases p <;> first
          | exact absurd hp (by with_unfolding_all decide) | exact rfl | exact ⟨rfl, rfl, rfl, rfl, rfl⟩))

theorem execIin_keeps {K : State → Prop} (hK : Free [.power, .out] K) {sample : BitVec 16} {s : State}
    (h0 : K s) {st1 : State} (he : execIin sample s = .next st1) : K st1 := by
  unfold execIin at he
  repeat' (split at he)
  all_goals (injection he with he; subst he)
  with_reducible repeat' first
    | assumption | apply mgmtReply_keeps (hK.sub rfl)
    | (fail_if_no_progress refine Free.mk hK ?_ (Frame.only fun p hp => by
        cases p <;> first
          | exact absurd hp (by with_unfolding_all decide) | exact rfl | exact ⟨rfl, rfl, rfl, rfl, rfl⟩))

theorem execPin_keeps {K : State → Prop} (hK : Free [.power, .out] K) {sample : BitVec 16} {s : State}
    (h0 : K s) {st1 : State} (he : execPin sample s = .next st1) : K st1 := by
  unfold execPin at he
  repeat' (split at he)
  all_goals (injection he with he; subst he)
  with_reducible repeat' first
    | assumption | apply mgmtReply_keeps (hK.sub rfl)
    | (fail_if_no_progress refine Free.mk hK ?_ (Frame.only fun p hp => by
        cases p <;> first
          | exact absurd hp (by with_unfolding_all decide) | exact rfl | exact ⟨rfl, rfl, rfl, rfl, rfl⟩))

theorem execTj_keeps {K : State → Prop} (hK : Free [.power, .out] K) {compute : BitVec 8} {bridge : BitVec 8}
    {skein : BitVec 8} {s : State} (h0 : K s) {st1 : State} (he : execTj compute bridge skein s = .next st1) : K
    st1 := by
  unfold execTj at he
  repeat' (split at he)
  all_goals (injection he with he; subst he)
  with_reducible repeat' first
    | assumption | apply mgmtReply_keeps (hK.sub rfl)
    | (fail_if_no_progress refine Free.mk hK ?_ (Frame.only fun p hp => by
        cases p <;> first
          | exact absurd hp (by with_unfolding_all decide) | exact rfl | exact ⟨rfl, rfl, rfl, rfl, rfl⟩))

theorem execBoot_keeps {K : State → Prop} (hK : Free [.out] K) {s : State} (h0 : K s) {st1 : State}
    (he : execBoot s = .next st1) : K st1 := by
  unfold execBoot at he
  repeat' (split at he)
  all_goals (injection he with he; subst he)
  with_reducible repeat' first
    | assumption | apply mgmtReply_keeps (hK.sub rfl)

theorem execSerial_keeps {K : State → Prop} (hK : Free [.out] K) {s : State} (h0 : K s) {st1 : State}
    (he : execSerial s = .next st1) : K st1 := by
  unfold execSerial at he
  repeat' (split at he)
  all_goals (injection he with he; subst he)
  with_reducible repeat' first
    | assumption | apply mgmtReply_keeps (hK.sub rfl)

theorem execInfo_keeps {K : State → Prop} (hK : Free [.out] K) {s : State} (h0 : K s) {st1 : State}
    (he : execInfo s = .next st1) : K st1 := by
  unfold execInfo at he
  repeat' (split at he)
  all_goals (injection he with he; subst he)
  with_reducible repeat' first
    | assumption | apply mgmtReply_keeps (hK.sub rfl)

theorem execBuild_keeps {K : State → Prop} (hK : Free [.out] K) {s : State} (h0 : K s) {st1 : State}
    (he : execBuild s = .next st1) : K st1 := by
  unfold execBuild at he
  repeat' (split at he)
  all_goals (injection he with he; subst he)
  with_reducible repeat' first
    | assumption | apply mgmtReply_keeps (hK.sub rfl) | apply keep_ite | split

theorem execSmbusWrite_keeps {K : State → Prop} (hK : Free [.out] K) {message : SmbusWrite} {s : State}
    (h0 : K s) {st1 : State} (he : execSmbusWrite message s = .next st1) : K st1 := by
  unfold execSmbusWrite at he
  repeat' (split at he)
  all_goals (injection he with he; subst he)
  try dsimp -proj only
  with_reducible repeat' first
    | assumption | apply mgmtNack_keeps (hK.sub rfl) | apply keep_ite | split

theorem writeSelector_keeps {K : State → Prop} (hK : Free [.perf] K) {n : Nat} {addr : Bool} {v : BitVec 64}
    {s : State} (h0 : K s) : K (writeSelector n addr v s) := by
  unfold writeSelector
  try dsimp -proj only
  with_reducible repeat' first
    | assumption | (fail_if_no_progress refine Free.mk hK ?_ (Frame.only fun p hp => by
        cases p <;> first
          | exact absurd hp (by with_unfolding_all decide) | exact rfl | exact ⟨rfl, rfl, rfl, rfl, rfl⟩))
    | apply keep_ite | split

theorem execPerfSelWrite_keeps {K : State → Prop} (hK : Free [.perf] K) {n : BitVec 6} {addr : Bool}
    {value : BitVec 64} {s : State} (h0 : K s) {st1 : State} (he : execPerfSelWrite n addr value s = .next st1) : K
    st1 := by
  unfold execPerfSelWrite at he
  repeat' (split at he)
  all_goals (injection he with he; subst he)
  with_reducible repeat' first
    | assumption | apply hostAccess_keeps (hK.sub rfl) | apply writeSelector_keeps (hK.sub rfl) | intro _

theorem writeDumpCtrl_keeps {K : State → Prop} (hK : Free [.perf] K) {v : Nat} {s : State} (h0 : K s) :
    K (writeDumpCtrl v s) := by
  have leaf : ∀ p : Perf, { p with
      retired := s.perf.retired, wasted := s.perf.wasted, front := s.perf.front, back := s.perf.back
      handshakes := s.perf.handshakes } = p → K { s with perf := p } := by
    intro p e
    rw [← e]
    exact hK.keep h0 (by
      intro p hp; cases p <;> first | exact absurd hp (by decide) | rfl | exact ⟨rfl, rfl, rfl, rfl, rfl⟩)
  unfold writeDumpCtrl
  dsimp only
  repeat' split
  all_goals first | exact h0 | exact leaf _ rfl

theorem execPerfDumpEnable_keeps {K : State → Prop} (hK : Free [.perf] K) {value : BitVec 64} {s : State}
    (h0 : K s) {st1 : State} (he : execPerfDumpEnable value s = .next st1) : K st1 := by
  unfold execPerfDumpEnable at he
  repeat' (split at he)
  all_goals (injection he with he; subst he)
  with_reducible repeat' first
    | assumption | apply hostAccess_keeps (hK.sub rfl) | apply writeDumpCtrl_keeps (hK.sub rfl) | intro _

theorem execPerfDumpHeadWrite_keeps {K : State → Prop} (hK : Free [.perf] K) {value : BitVec 64} {s : State}
    (h0 : K s) {st1 : State} (he : execPerfDumpHeadWrite value s = .next st1) : K st1 := by
  unfold execPerfDumpHeadWrite at he
  repeat' (split at he)
  all_goals (injection he with he; subst he)
  with_reducible repeat' first
    | assumption | apply hostAccess_keeps (hK.sub rfl) | intro _
    | (fail_if_no_progress refine Free.mk hK ?_ (Frame.only fun p hp => by
        cases p <;> first
          | exact absurd hp (by with_unfolding_all decide) | exact rfl | exact ⟨rfl, rfl, rfl, rfl, rfl⟩))

theorem restartCaptures_keeps {K : State → Prop} (hK : Free [.ports] K) {s : State} (h0 : K s) :
    K (restartCaptures s) := by
  unfold restartCaptures
  with_reducible repeat' first
    | assumption | (fail_if_no_progress refine Free.mk hK ?_ (Frame.only fun p hp => by
        cases p <;> first
          | exact absurd hp (by with_unfolding_all decide) | exact rfl | exact ⟨rfl, rfl, rfl, rfl, rfl⟩))

theorem atDump_keeps {K : State → Prop} (hK : Free [.perf] K) {s : State} (h0 : K s) : K (atDump s) := by
  unfold atDump
  with_reducible repeat' first
    | assumption | (fail_if_no_progress refine Free.mk hK ?_ (Frame.only fun p hp => by
        cases p <;> first
          | exact absurd hp (by with_unfolding_all decide) | exact rfl | exact ⟨rfl, rfl, rfl, rfl, rfl⟩))

theorem takeRecord_keeps {K : State → Prop} (hK : Free [.ports, .perf] K) {s : State} (h0 : K s) :
    K (takeRecord s) := by
  unfold takeRecord
  with_reducible repeat' first
    | assumption | apply applySelectors_keeps (hK.sub rfl) | apply restartCaptures_keeps (hK.sub rfl)
    | apply atDump_keeps (hK.sub rfl) | (fail_if_no_progress refine Free.mk hK ?_ (Frame.only fun p hp => by
        cases p <;> first
          | exact absurd hp (by with_unfolding_all decide) | exact rfl | exact ⟨rfl, rfl, rfl, rfl, rfl⟩))
    | apply keep_ite | split

theorem timeMoved_keeps {K : State → Prop} (hK : Free [.ports, .perf] K) {old : Nat} {s : State} (h0 : K s) :
    K (timeMoved old s) := by
  unfold timeMoved
  try dsimp -proj only
  with_reducible repeat' first
    | assumption | apply tickRate_keeps (hK.sub rfl) | apply takeRecord_keeps (hK.sub rfl) | apply keep_ite | split

theorem placeRecord_keeps {K : State → Prop} (hK : Free [.host, .perf, .blocked, .out] K) {bs : List Byte}
    {s : State} (h0 : K s) : K (placeRecord bs s) := by
  unfold placeRecord
  try dsimp -proj only
  with_reducible repeat' first
    | assumption | apply writeRecord_keeps (hK.sub rfl)
    | (fail_if_no_progress refine Free.mk hK ?_ (Frame.only fun p hp => by
        cases p <;> first
          | exact absurd hp (by with_unfolding_all decide) | exact rfl | exact ⟨rfl, rfl, rfl, rfl, rfl⟩))
    | apply keep_ite | split

theorem dump_keeps {K : State → Prop} (hK : Free [.host, .ports, .perf, .blocked, .out] K) {s : State}
    (h0 : K s) : K (dump s) := by
  unfold dump
  try dsimp -proj only
  with_reducible repeat' first
    | assumption | apply atDump_keeps (hK.sub rfl) | apply applySelectors_keeps (hK.sub rfl)
    | apply restartCaptures_keeps (hK.sub rfl) | apply placeRecord_keeps (hK.sub rfl)
    | (fail_if_no_progress refine Free.mk hK ?_ (Frame.only fun p hp => by
        cases p <;> first
          | exact absurd hp (by with_unfolding_all decide) | exact rfl | exact ⟨rfl, rfl, rfl, rfl, rfl⟩))
    | apply keep_ite | split

theorem execDumpTick_keeps {K : State → Prop} (hK : Free [.host, .ports, .perf, .blocked, .out] K) {s : State}
    (h0 : K s) {st1 : State} (he : execDumpTick s = .next st1) : K st1 := by
  unfold execDumpTick at he
  repeat' (split at he)
  all_goals (injection he with he; subst he)
  with_reducible repeat' first
    | assumption | apply dump_keeps (hK.sub rfl)

theorem loseSample_keeps {K : State → Prop} (hK : Free [.ports, .traffic] K) {port : Nat} {s : State}
    (h0 : K s) : K (loseSample port s) := by
  unfold loseSample
  with_reducible repeat' first
    | assumption | apply updPort_keeps (hK.sub rfl)
    | (fail_if_no_progress refine Free.mk hK ?_ (Frame.only fun p hp => by
        cases p <;> first
          | exact absurd hp (by with_unfolding_all decide) | exact rfl | exact ⟨rfl, rfl, rfl, rfl, rfl⟩))

theorem writeSample_keeps {K : State → Prop}
    (hK : Free [.host, .pools, .ports, .traffic, .perf, .blocked, .out] K) {s : State} (h0 : K s) :
    K (writeSample s) := by
  unfold writeSample
  try dsimp -proj only
  with_reducible repeat' first
    | assumption | apply freeCell_keeps (hK.sub rfl) | apply updPort_keeps (hK.sub rfl)
    | apply hostWrite_keeps (hK.sub rfl) | apply loseSample_keeps (hK.sub rfl)
    | (fail_if_no_progress refine Free.mk hK ?_ (Frame.only fun p hp => by
        cases p <;> first
          | exact absurd hp (by with_unfolding_all decide) | exact rfl | exact ⟨rfl, rfl, rfl, rfl, rfl⟩))
    | apply keep_ite | split

theorem execSampleRecordWrite_keeps {K : State → Prop}
    (hK : Free [.host, .pools, .ports, .traffic, .perf, .blocked, .out] K) {s : State} (h0 : K s) {st1 : State}
    (he : execSampleRecordWrite s = .next st1) : K st1 := by
  unfold execSampleRecordWrite at he
  repeat' (split at he)
  all_goals (injection he with he; subst he)
  with_reducible repeat' first
    | assumption | apply writeSample_keeps (hK.sub rfl)

theorem samplePacket_keeps {K : State → Prop}
    (hK : Free [.host, .pools, .ports, .traffic, .perf, .blocked, .out] K) {egress : Bool} {port : Nat}
    {p : Packet} {crc : Bool} {mal : Bool} {depth : Nat} {time : Nat} {s : State} (h0 : K s) :
    K (samplePacket egress port p crc mal depth time s) := by
  unfold samplePacket
  try dsimp -proj only
  with_reducible repeat' first
    | assumption | apply updPort_keeps (hK.sub rfl)
    | refine allocUnreserved_keeps (hK.sub rfl) ?_ (by first | assumption | rfl)
    | apply loseSample_keeps (hK.sub rfl) | apply freeCell_keeps (hK.sub rfl)
    | (fail_if_no_progress refine Free.mk hK ?_ (Frame.only fun p hp => by
        cases p <;> first
          | exact absurd hp (by with_unfolding_all decide) | exact rfl | exact ⟨rfl, rfl, rfl, rfl, rfl⟩))
    | apply keep_ite | split

theorem returnCredit_keeps {K : State → Prop} (hK : Free [.ports] K) {port : Nat} {p : Packet} {s : State}
    (h0 : K s) : K (returnCredit port p s) := by
  unfold returnCredit
  with_reducible repeat' first
    | assumption | apply updPort_keeps (hK.sub rfl) | split

theorem dropArrival_keeps {K : State → Prop} (hK : Free [.ports, .drops] K) {port : Nat} {cause : Nat}
    {p : Packet} {s : State} (h0 : K s) : K (dropArrival port cause p s) := by
  unfold dropArrival
  with_reducible repeat' first
    | assumption | apply returnCredit_keeps (hK.sub rfl) | apply drop_keeps (hK.sub rfl)

theorem countBad_keeps {K : State → Prop} (hK : Free [.ports, .perf, .drops] K) {code : Nat} {port : Nat}
    {cause : Nat} {p : Packet} {s : State} (h0 : K s) : K (countBad code port cause p s) := by
  unfold countBad
  try dsimp -proj only
  with_reducible repeat' first
    | assumption | apply updPort_keeps (hK.sub rfl) | apply drop_keeps (hK.sub rfl)
    | apply count_keeps (hK.sub rfl) | (fail_if_no_progress refine Free.mk hK ?_ (Frame.only fun p hp => by
        cases p <;> first
          | exact absurd hp (by with_unfolding_all decide) | exact rfl | exact ⟨rfl, rfl, rfl, rfl, rfl⟩))

theorem dropBad_keeps {K : State → Prop} (hK : Free [.ports, .perf, .drops] K) {code : Nat} {port : Nat}
    {cause : Nat} {p : Packet} {s : State} (h0 : K s) : K (dropBad code port cause p s) := by
  unfold dropBad
  with_reducible repeat' first
    | assumption | apply returnCredit_keeps (hK.sub rfl) | apply countBad_keeps (hK.sub rfl)

theorem countArrival_keeps {K : State → Prop} (hK : Free [.ports, .perf] K) {port : Nat} {p : Packet}
    {s : State} (h0 : K s) : K (countArrival port p s) := by
  unfold countArrival
  try dsimp -proj only
  with_reducible repeat' first
    | assumption | apply count_keeps (hK.sub rfl) | apply updPort_keeps (hK.sub rfl)
    | (fail_if_no_progress refine Free.mk hK ?_ (Frame.only fun p hp => by
        cases p <;> first
          | exact absurd hp (by with_unfolding_all decide) | exact rfl | exact ⟨rfl, rfl, rfl, rfl, rfl⟩))

theorem sampleArrival_keeps {K : State → Prop}
    (hK : Free [.host, .pools, .ports, .traffic, .perf, .blocked, .out] K) {port : Nat} {p : Packet} {mal : Nat}
    {time : Nat} {s : State} (h0 : K s) : K (sampleArrival port p mal time s) := by
  unfold sampleArrival
  with_reducible repeat' first
    | assumption | apply samplePacket_keeps (hK.sub rfl)

theorem takePacket_keeps {K : State → Prop}
    (hK : Free [.host, .pools, .ports, .routing, .traffic, .flows, .perf, .blocked, .drops, .out] K) {port : Nat}
    {cut : Bool} {p : Packet} {s : State} (h0 : K s) : K (takePacket port cut p s) := by
  unfold takePacket
  try dsimp -proj only
  with_reducible repeat' first
    | assumption | apply inject_keeps (hK.sub rfl)
    | refine allocReserved_keeps (hK.sub rfl) ?_ (by first | assumption | rfl) | apply route_keeps (hK.sub rfl)
    | (fail_if_no_progress refine Free.mk hK ?_ (Frame.only fun p hp => by
        cases p <;> first
          | exact absurd hp (by with_unfolding_all decide) | exact rfl | exact ⟨rfl, rfl, rfl, rfl, rfl⟩)) | split

theorem acceptPacket_keeps {K : State → Prop}
    (hK : Free [.host, .pools, .ports, .routing, .traffic, .flows, .perf, .blocked, .drops, .out] K) {port : Nat}
    {time : Nat} {p : Packet} {s : State} (h0 : K s) : K (acceptPacket port time p s) := by
  unfold acceptPacket
  try dsimp -proj only
  with_reducible repeat' first
    | assumption | apply sampleArrival_keeps (hK.sub rfl) | apply countArrival_keeps (hK.sub rfl)
    | apply takePacket_keeps (hK.sub rfl) | apply countBad_keeps (hK.sub rfl) | apply dropBad_keeps (hK.sub rfl)
    | apply keep_ite | split

theorem ageOut_keeps {K : State → Prop}
    (hK : Free [.host, .pools, .ports, .routing, .traffic, .perf, .blocked, .drops, .out] K) {port : Nat}
    {sub : Nat} {q : QPkt} {s : State} (h0 : K s) : K (ageOut port sub q s) := by
  unfold ageOut
  try dsimp -proj only
  with_reducible repeat' first
    | assumption | apply updPort_keeps (hK.sub rfl) | apply sendNack_keeps (hK.sub rfl)
    | apply releaseBuf_keeps (hK.sub rfl) | apply drop_keeps (hK.sub rfl) | apply count_keeps (hK.sub rfl)
    | (fail_if_no_progress refine Free.mk hK ?_ (Frame.only fun p hp => by
        cases p <;> first
          | exact absurd hp (by with_unfolding_all decide) | exact rfl | exact ⟨rfl, rfl, rfl, rfl, rfl⟩))

theorem routeAgain_keeps {K : State → Prop}
    (hK : Free [.host, .pools, .ports, .routing, .traffic, .perf, .blocked, .drops, .out] K) {q : QPkt} {s : State}
    (h0 : K s) : K (routeAgain q s) := by
  unfold routeAgain
  try dsimp -proj only
  with_reducible repeat' first
    | assumption | apply ageOut_keeps (hK.sub rfl) | apply route_keeps (hK.sub rfl)
    | (fail_if_no_progress refine Free.mk hK ?_ (Frame.only fun p hp => by
        cases p <;> first
          | exact absurd hp (by with_unfolding_all decide) | exact rfl | exact ⟨rfl, rfl, rfl, rfl, rfl⟩))
    | apply keep_ite | split

theorem adaptExpiry_keeps {K : State → Prop}
    (hK : Free [.host, .pools, .ports, .routing, .traffic, .perf, .blocked, .drops, .out] K) {port : Nat}
    {sub : Nat} {s : State} (h0 : K s) : K (adaptExpiry port sub s) := by
  unfold adaptExpiry
  try dsimp -proj only
  with_reducible repeat' first
    | assumption | apply route_keeps (hK.sub rfl) | apply updQueue_keeps (hK.sub rfl)
    | apply count_keeps (hK.sub rfl) | (fail_if_no_progress refine Free.mk hK ?_ (Frame.only fun p hp => by
        cases p <;> first
          | exact absurd hp (by with_unfolding_all decide) | exact rfl | exact ⟨rfl, rfl, rfl, rfl, rfl⟩))
    | apply keep_ite | split

theorem execAdaptWaitExpiry_keeps {K : State → Prop}
    (hK : Free [.host, .pools, .ports, .routing, .traffic, .perf, .blocked, .drops, .out] K) {port : BitVec 7}
    {sublane : BitVec 4} {s : State} (h0 : K s) {st1 : State}
    (he : execAdaptWaitExpiry port sublane s = .next st1) : K st1 := by
  unfold execAdaptWaitExpiry at he
  repeat' (split at he)
  all_goals (injection he with he; subst he)
  with_reducible repeat' first
    | assumption | apply adaptExpiry_keeps (hK.sub rfl)

end Sys2Proof.Machine
end

