-- ==== Sys2Proof/Laws/FrameLinks.lean ====
section
/-!
SUPPORT. Frames, of ports, drone lanes, courses and registers: for each
function, the parts of the state it may change; a property free of them is kept.
-/
set_option linter.unusedVariables false
set_option linter.unusedTactic false
set_option linter.unreachableTactic false

namespace Sys2Proof.Machine

theorem takePegs_keeps {K : State → Prop} (hK : Free [.routing] K) {p : Nat} {s : State} (h0 : K s) :
    K (takePegs p s) := by
  unfold takePegs
  try dsimp -proj only
  with_reducible repeat' first
    | assumption | intro _ | apply keep_forEach | intro _
    | (fail_if_no_progress refine Free.mk hK ?_ (Frame.only fun p hp => by
        cases p <;> first
          | exact absurd hp (by with_unfolding_all decide) | exact rfl | exact ⟨rfl, rfl, rfl, rfl, rfl⟩))

theorem enterLock_keeps {K : State → Prop} (hK : Free [.ports, .routing] K) {p : Nat} {s : State} (h0 : K s) :
    K (enterLock p s) := by
  unfold enterLock
  with_reducible repeat' first
    | assumption | apply takePegs_keeps (hK.sub rfl) | apply updPort_keeps (hK.sub rfl)
    | (fail_if_no_progress refine Free.mk hK ?_ (Frame.only fun p hp => by
        cases p <;> first
          | exact absurd hp (by with_unfolding_all decide) | exact rfl | exact ⟨rfl, rfl, rfl, rfl, rfl⟩))

theorem startPort_keeps {K : State → Prop} (hK : Free [.ports, .routing] K) {p : Nat} {s : State} (h0 : K s) :
    K (startPort p s) := by
  unfold startPort
  with_reducible repeat' first
    | assumption | apply enterLock_keeps (hK.sub rfl) | apply updPort_keeps (hK.sub rfl)
    | (fail_if_no_progress refine Free.mk hK ?_ (Frame.only fun p hp => by
        cases p <;> first
          | exact absurd hp (by with_unfolding_all decide) | exact rfl | exact ⟨rfl, rfl, rfl, rfl, rfl⟩))
    | apply keep_ite | split

theorem markRx_keeps {K : State → Prop} (hK : Free [.ports, .routing] K) {p : Nat} {sub : Nat} {s : State}
    (h0 : K s) : K (markRx p sub s) := by
  unfold markRx
  try dsimp -proj only
  with_reducible repeat' first
    | assumption | (fail_if_no_progress refine Free.mk hK ?_ (Frame.only fun p hp => by
        cases p <;> first
          | exact absurd hp (by with_unfolding_all decide) | exact rfl | exact ⟨rfl, rfl, rfl, rfl, rfl⟩))
    | apply keep_ite | split

theorem detachRx_keeps {K : State → Prop} (hK : Free [.pools, .ports, .routing] K) {p : Nat} {s : State}
    (h0 : K s) : K (detachRx p s) := by
  unfold detachRx
  try dsimp -proj only
  with_reducible repeat' first
    | assumption | apply updPort_keeps (hK.sub rfl) | apply markRx_keeps (hK.sub rfl)
    | apply unreserveCells_keeps (hK.sub rfl) | (fail_if_no_progress refine Free.mk hK ?_ (Frame.only fun p hp => by
        cases p <;> first
          | exact absurd hp (by with_unfolding_all decide) | exact rfl | exact ⟨rfl, rfl, rfl, rfl, rfl⟩))

theorem releaseRx_keeps {K : State → Prop} (hK : Free [.pools, .ports, .routing] K) {p : Nat} {s : State}
    (h0 : K s) : K (releaseRx p s) := by
  unfold releaseRx
  try dsimp -proj only
  with_reducible repeat' first
    | assumption | apply detachRx_keeps (hK.sub rfl) | apply keep_ite | split

theorem emptyQueue_keeps {K : State → Prop}
    (hK : Free [.host, .pools, .ports, .routing, .traffic, .perf, .blocked, .drops, .out] K) {p : Nat}
    {k : Nat × List QPkt} {s : State} (h0 : K s) : K (emptyQueue p k s) := by
  unfold emptyQueue
  with_reducible repeat' first
    | assumption | apply flush_keeps (hK.sub rfl) | apply routeAgain_keeps (hK.sub rfl) | intro _
    | apply keep_forEach | intro _ | apply keep_ite | split

theorem leaveUp_keeps {K : State → Prop}
    (hK : Free [.host, .pools, .ports, .drones, .routing, .traffic, .flows, .course, .perf, .blocked, .drops, .out] K)
    {p : Nat} {st : LaneState} {s : State} (h0 : K s) : K (leaveUp p st s) := by
  unfold leaveUp
  try dsimp -proj only
  with_reducible repeat' first
    | assumption | apply acceptPacket_keeps (hK.sub rfl) | apply updPort_keeps (hK.sub rfl)
    | apply markRx_keeps (hK.sub rfl) | apply postEvent_keeps (hK.sub rfl) | apply routeAgain_keeps (hK.sub rfl)
    | apply releaseRx_keeps (hK.sub rfl) | apply emptyQueue_keeps (hK.sub rfl)
    | apply loseEndpoint_keeps (hK.sub rfl) | intro _ | apply keep_forEach | intro _
    | (fail_if_no_progress refine Free.mk hK ?_ (Frame.only fun p hp => by
        cases p <;> first
          | exact absurd hp (by with_unfolding_all decide) | exact rfl | exact ⟨rfl, rfl, rfl, rfl, rfl⟩))
    | apply keep_ite | split

theorem portLost_keeps {K : State → Prop}
    (hK : Free [.host, .pools, .ports, .drones, .routing, .traffic, .flows, .course, .perf, .blocked, .drops, .out] K)
    {p : Nat} {s : State} (h0 : K s) : K (portLost p s) := by
  unfold portLost
  try dsimp -proj only
  with_reducible repeat' first
    | assumption | apply enterLock_keeps (hK.sub rfl) | apply leaveUp_keeps (hK.sub rfl) | apply keep_ite | split

theorem portsLost_keeps {K : State → Prop}
    (hK : Free [.host, .pools, .ports, .drones, .routing, .traffic, .flows, .course, .perf, .blocked, .drops, .out] K)
    {m : Nat} {s : State} (h0 : K s) : K (portsLost m s) := by
  unfold portsLost
  with_reducible repeat' first
    | assumption | apply startPort_keeps (hK.sub rfl) | apply portLost_keeps (hK.sub rfl) | intro _
    | apply keep_forEach | intro _ | apply keep_ite | split

theorem portWaits_keeps {K : State → Prop}
    (hK : Free [.host, .pools, .ports, .drones, .routing, .traffic, .flows, .course, .perf, .blocked, .drops, .out] K)
    {p : Nat} {s : State} (h0 : K s) : K (portWaits p s) := by
  unfold portWaits
  try dsimp -proj only
  with_reducible repeat' first
    | assumption | apply leaveUp_keeps (hK.sub rfl) | apply updPort_keeps (hK.sub rfl)
    | (fail_if_no_progress refine Free.mk hK ?_ (Frame.only fun p hp => by
        cases p <;> first
          | exact absurd hp (by with_unfolding_all decide) | exact rfl | exact ⟨rfl, rfl, rfl, rfl, rfl⟩))
    | apply keep_ite | split

theorem disablePort_keeps {K : State → Prop}
    (hK : Free [.host, .pools, .ports, .drones, .routing, .traffic, .flows, .course, .perf, .blocked, .drops, .out] K)
    {p : Nat} {s : State} (h0 : K s) : K (disablePort p s) := by
  unfold disablePort
  try dsimp -proj only
  with_reducible repeat' first
    | assumption | apply leaveUp_keeps (hK.sub rfl) | apply updPort_keeps (hK.sub rfl)
    | (fail_if_no_progress refine Free.mk hK ?_ (Frame.only fun p hp => by
        cases p <;> first
          | exact absurd hp (by with_unfolding_all decide) | exact rfl | exact ⟨rfl, rfl, rfl, rfl, rfl⟩))
    | apply keep_ite | split

theorem quarantinePort_keeps {K : State → Prop}
    (hK : Free [.host, .pools, .ports, .drones, .routing, .traffic, .flows, .course, .perf, .blocked, .drops, .out] K)
    {p : Nat} {cause : Nat} {s : State} (h0 : K s) : K (quarantinePort p cause s) := by
  unfold quarantinePort
  try dsimp -proj only
  with_reducible repeat' first
    | assumption | apply leaveUp_keeps (hK.sub rfl) | apply updPort_keeps (hK.sub rfl)
    | apply postEvent_keeps (hK.sub rfl) | (fail_if_no_progress refine Free.mk hK ?_ (Frame.only fun p hp => by
        cases p <;> first
          | exact absurd hp (by with_unfolding_all decide) | exact rfl | exact ⟨rfl, rfl, rfl, rfl, rfl⟩))
    | apply keep_ite | split

theorem failPort_keeps {K : State → Prop} (hK : Free [.host, .ports, .blocked, .out] K) {p : Nat} {code : Nat}
    {s : State} (h0 : K s) : K (failPort p code s) := by
  unfold failPort
  with_reducible repeat' first
    | assumption | apply postEvent_keeps (hK.sub rfl) | apply updPort_keeps (hK.sub rfl)
    | (fail_if_no_progress refine Free.mk hK ?_ (Frame.only fun p hp => by
        cases p <;> first
          | exact absurd hp (by with_unfolding_all decide) | exact rfl | exact ⟨rfl, rfl, rfl, rfl, rfl⟩))

theorem bringUp_keeps {K : State → Prop}
    (hK : Free [.host, .pools, .ports, .clock, .routing, .blocked, .out] K) {p : Nat} {s : State} (h0 : K s) :
    K (bringUp p s) := by
  unfold bringUp
  try dsimp -proj only
  with_reducible repeat' first
    | assumption | apply startPort_keeps (hK.sub rfl) | apply applyCarve_keeps (hK.sub rfl)
    | apply postEvent_keeps (hK.sub rfl) | apply updPort_keeps (hK.sub rfl) | intro _ | apply keep_forEach
    | intro _ | (fail_if_no_progress refine Free.mk hK ?_ (Frame.only fun p hp => by
        cases p <;> first
          | exact absurd hp (by with_unfolding_all decide) | exact rfl | exact ⟨rfl, rfl, rfl, rfl, rfl⟩))
    | apply keep_ite | split

theorem bringUpAll_keeps {K : State → Prop}
    (hK : Free [.host, .pools, .ports, .clock, .routing, .blocked, .out] K) {s : State} (h0 : K s) :
    K (bringUpAll s) := by
  unfold bringUpAll
  try dsimp -proj only
  with_reducible repeat' first
    | assumption | apply bringUp_keeps (hK.sub rfl) | apply postEvent_keeps (hK.sub rfl) | intro _
    | apply keep_forEach | intro _ | apply keep_ite | split

theorem loadPorts_keeps {K : State → Prop}
    (hK : Free [.host, .pools, .ports, .drones, .clock, .routing, .traffic, .flows, .course, .perf, .blocked, .drops, .out] K)
    {es : List (BitVec 256)} {s : State} (h0 : K s) : K (loadPorts es s) := by
  unfold loadPorts
  try dsimp -proj only
  with_reducible repeat' first
    | assumption | apply bringUpAll_keeps (hK.sub rfl) | apply updPort_keeps (hK.sub rfl)
    | apply disablePort_keeps (hK.sub rfl) | intro _ | apply keep_forEach | intro _
    | (fail_if_no_progress refine Free.mk hK ?_ (Frame.only fun p hp => by
        cases p <;> first
          | exact absurd hp (by with_unfolding_all decide) | exact rfl | exact ⟨rfl, rfl, rfl, rfl, rfl⟩))
    | apply keep_ite | split

theorem portTableLoad_keeps {K : State → Prop}
    (hK : Free [.host, .pools, .ports, .drones, .clock, .routing, .traffic, .flows, .course, .perf, .blocked, .drops, .out] K)
    {d : Desc} {h : HostRead} {t : Tok} {s : State} (h0 : K s) : K (portTableLoad d h t s) := by
  unfold portTableLoad
  try dsimp -proj only
  with_reducible repeat' first
    | assumption | apply bad_keeps (hK.sub rfl) | apply noteRead_keeps (hK.sub rfl) | apply ok_keeps (hK.sub rfl)
    | apply loadPorts_keeps (hK.sub rfl) | apply keep_ite | split

theorem execPortTableLoad_keeps {K : State → Prop}
    (hK : Free [.host, .pools, .ports, .drones, .clock, .routing, .traffic, .flows, .course, .perf, .blocked, .drops, .out] K)
    {sq : BitVec 8} {d : Desc} {host : HostRead} {s : State} (h0 : K s) {st1 : State}
    (he : execPortTableLoad sq d host s = .next st1) : K st1 := by
  unfold execPortTableLoad at he
  repeat' (split at he)
  all_goals (injection he with he; subst he)
  with_reducible repeat' first
    | assumption | apply portTableLoad_keeps (hK.sub rfl) | apply bad_keeps (hK.sub rfl) | intro _
    | apply runCommand_keeps (hK.sub rfl) | intro _ | apply keep_ite | split

theorem enterUp_keeps {K : State → Prop}
    (hK : Free [.host, .pools, .ports, .routing, .course, .blocked, .out] K) {p : Nat} {s : State} (h0 : K s) :
    K (enterUp p s) := by
  unfold enterUp
  try dsimp -proj only
  with_reducible repeat' first
    | assumption | refine reserveCells_keeps (hK.sub rfl) ?_ (by first | assumption | rfl)
    | apply applyCarve_keeps (hK.sub rfl) | apply detachRx_keeps (hK.sub rfl) | apply updPort_keeps (hK.sub rfl)
    | apply postEvent_keeps (hK.sub rfl) | apply endpointBack_keeps (hK.sub rfl)
    | (fail_if_no_progress refine Free.mk hK ?_ (Frame.only fun p hp => by
        cases p <;> first
          | exact absurd hp (by with_unfolding_all decide) | exact rfl | exact ⟨rfl, rfl, rfl, rfl, rfl⟩))
    | apply keep_ite | split

theorem checkUp_keeps {K : State → Prop}
    (hK : Free [.host, .pools, .ports, .routing, .course, .blocked, .out] K) {p : Nat} {s : State} (h0 : K s) :
    K (checkUp p s) := by
  unfold checkUp
  try dsimp -proj only
  with_reducible repeat' first
    | assumption | apply enterUp_keeps (hK.sub rfl) | apply keep_ite | split

theorem judgeInit_keeps {K : State → Prop}
    (hK : Free [.host, .pools, .ports, .drones, .routing, .traffic, .flows, .course, .perf, .blocked, .drops, .out] K)
    {p : Nat} {x : Packet} {s : State} (h0 : K s) : K (judgeInit p x s) := by
  unfold judgeInit
  try dsimp -proj only
  with_reducible repeat' first
    | assumption | apply quarantinePort_keeps (hK.sub rfl) | apply checkUp_keeps (hK.sub rfl)
    | apply updPort_keeps (hK.sub rfl) | apply keep_foldl | apply keep_foldl_fst | intro _
    | (fail_if_no_progress refine Free.mk hK ?_ (Frame.only fun p hp => by
        cases p <;> first
          | exact absurd hp (by with_unfolding_all decide) | exact rfl | exact ⟨rfl, rfl, rfl, rfl, rfl⟩))
    | apply keep_ite | split

theorem enterInit_keeps {K : State → Prop}
    (hK : Free [.host, .pools, .ports, .drones, .routing, .traffic, .flows, .course, .perf, .blocked, .drops, .out] K)
    {p : Nat} {s : State} (h0 : K s) : K (enterInit p s) := by
  unfold enterInit
  try dsimp -proj only
  with_reducible repeat' first
    | assumption | apply updPort_keeps (hK.sub rfl) | apply judgeInit_keeps (hK.sub rfl)
    | (fail_if_no_progress refine Free.mk hK ?_ (Frame.only fun p hp => by
        cases p <;> first
          | exact absurd hp (by with_unfolding_all decide) | exact rfl | exact ⟨rfl, rfl, rfl, rfl, rfl⟩)) | split

theorem hearInit_keeps {K : State → Prop}
    (hK : Free [.host, .pools, .ports, .drones, .routing, .traffic, .flows, .course, .perf, .blocked, .drops, .out] K)
    {p : Nat} {x : Packet} {s : State} (h0 : K s) : K (hearInit p x s) := by
  unfold hearInit
  try dsimp -proj only
  with_reducible repeat' first
    | assumption | apply judgeInit_keeps (hK.sub rfl) | apply updPort_keeps (hK.sub rfl)
    | apply quarantinePort_keeps (hK.sub rfl) | (fail_if_no_progress refine Free.mk hK ?_ (Frame.only fun p hp => by
        cases p <;> first
          | exact absurd hp (by with_unfolding_all decide) | exact rfl | exact ⟨rfl, rfl, rfl, rfl, rfl⟩))
    | apply keep_ite | split

theorem takeRx_keeps {K : State → Prop} (hK : Free [.ports] K) {p : Nat} {x : Packet} {s : State} (h0 : K s)
    {r1} {st1 : State} (he : takeRx p x s = (r1, st1)) : K st1 := by
  unfold takeRx at he
  repeat' (split at he)
  all_goals (try first | contradiction | cases he)
  with_reducible repeat' first
    | assumption | apply updPort_keeps (hK.sub rfl)
    | (fail_if_no_progress refine Free.mk hK ?_ (Frame.only fun p hp => by
        cases p <;> first
          | exact absurd hp (by with_unfolding_all decide) | exact rfl | exact ⟨rfl, rfl, rfl, rfl, rfl⟩)) | split

theorem linkInitRx_keeps {K : State → Prop}
    (hK : Free [.host, .pools, .ports, .drones, .routing, .traffic, .flows, .course, .perf, .blocked, .drops, .out] K)
    {p : Nat} {x : Packet} {s : State} (h0 : K s) : K (linkInitRx p x s) := by
  unfold linkInitRx
  try dsimp -proj only
  with_reducible repeat' first
    | assumption | refine takeRx_keeps (hK.sub rfl) ?_ (by first | assumption | rfl)
    | apply sampleArrival_keeps (hK.sub rfl) | apply countArrival_keeps (hK.sub rfl)
    | apply dropBad_keeps (hK.sub rfl) | apply hearInit_keeps (hK.sub rfl) | apply returnCredit_keeps (hK.sub rfl)
    | apply keep_ite | split

theorem execLinkInit_keeps {K : State → Prop}
    (hK : Free [.host, .pools, .ports, .drones, .routing, .traffic, .flows, .course, .perf, .blocked, .drops, .out] K)
    {port : BitVec 7} {p : Packet} {s : State} (h0 : K s) {st1 : State} (he : execLinkInit port p s = .next st1) :
    K st1 := by
  unfold execLinkInit at he
  repeat' (split at he)
  all_goals (injection he with he; subst he)
  with_reducible repeat' first
    | assumption | apply linkInitRx_keeps (hK.sub rfl)

theorem packetRx_keeps {K : State → Prop}
    (hK : Free [.host, .pools, .ports, .drones, .routing, .traffic, .flows, .course, .perf, .blocked, .drops, .out] K)
    {p : Nat} {x : Packet} {s : State} (h0 : K s) : K (packetRx p x s) := by
  unfold packetRx
  try dsimp -proj only
  with_reducible repeat' first
    | assumption | apply linkInitRx_keeps (hK.sub rfl)
    | refine takeRx_keeps (hK.sub rfl) ?_ (by first | assumption | rfl) | apply acceptPacket_keeps (hK.sub rfl)
    | apply dropArrival_keeps (hK.sub rfl) | apply sampleArrival_keeps (hK.sub rfl)
    | apply countArrival_keeps (hK.sub rfl) | apply keep_ite | split

theorem execPacketRx_keeps {K : State → Prop}
    (hK : Free [.host, .pools, .ports, .drones, .routing, .traffic, .flows, .course, .perf, .blocked, .drops, .out] K)
    {port : BitVec 7} {p : Packet} {s : State} (h0 : K s) {st1 : State} (he : execPacketRx port p s = .next st1) :
    K st1 := by
  unfold execPacketRx at he
  repeat' (split at he)
  all_goals (injection he with he; subst he)
  with_reducible repeat' first
    | assumption | apply packetRx_keeps (hK.sub rfl)

theorem enterMeasure_keeps {K : State → Prop} (hK : Free [.ports] K) {p : Nat} {s : State} (h0 : K s) :
    K (enterMeasure p s) := by
  unfold enterMeasure
  with_reducible repeat' first
    | assumption | apply updPort_keeps (hK.sub rfl)
    | (fail_if_no_progress refine Free.mk hK ?_ (Frame.only fun p hp => by
        cases p <;> first
          | exact absurd hp (by with_unfolding_all decide) | exact rfl | exact ⟨rfl, rfl, rfl, rfl, rfl⟩))

theorem enterMargin_keeps {K : State → Prop} (hK : Free [.ports] K) {p : Nat} {s : State} (h0 : K s) :
    K (enterMargin p s) := by
  unfold enterMargin
  with_reducible repeat' first
    | assumption | apply updPort_keeps (hK.sub rfl)
    | (fail_if_no_progress refine Free.mk hK ?_ (Frame.only fun p hp => by
        cases p <;> first
          | exact absurd hp (by with_unfolding_all decide) | exact rfl | exact ⟨rfl, rfl, rfl, rfl, rfl⟩))

theorem measured_keeps {K : State → Prop} (hK : Free [.host, .ports, .blocked, .out] K) {p : Nat} {s : State}
    (h0 : K s) : K (measured p s) := by
  unfold measured
  try dsimp -proj only
  with_reducible repeat' first
    | assumption | apply enterMargin_keeps (hK.sub rfl) | apply updPort_keeps (hK.sub rfl)
    | apply failPort_keeps (hK.sub rfl) | (fail_if_no_progress refine Free.mk hK ?_ (Frame.only fun p hp => by
        cases p <;> first
          | exact absurd hp (by with_unfolding_all decide) | exact rfl | exact ⟨rfl, rfl, rfl, rfl, rfl⟩))
    | apply keep_ite | split

theorem timeUpdate_keeps {K : State → Prop} (hK : Free [.host, .ports, .blocked, .out] K) {p : Nat} {v : Nat}
    {s : State} (h0 : K s) : K (timeUpdate p v s) := by
  unfold timeUpdate
  try dsimp -proj only
  with_reducible repeat' first
    | assumption | apply updPort_keeps (hK.sub rfl) | apply measured_keeps (hK.sub rfl)
    | (fail_if_no_progress refine Free.mk hK ?_ (Frame.only fun p hp => by
        cases p <;> first
          | exact absurd hp (by with_unfolding_all decide) | exact rfl | exact ⟨rfl, rfl, rfl, rfl, rfl⟩))
    | apply keep_ite | split

theorem execTime_keeps {K : State → Prop} (hK : Free [.host, .ports, .blocked, .out] K) {port : BitVec 7}
    {value : BitVec 64} {s : State} (h0 : K s) {st1 : State} (he : execTime port value s = .next st1) : K st1 := by
  unfold execTime at he
  repeat' (split at he)
  all_goals (injection he with he; subst he)
  with_reducible repeat' first
    | assumption | apply timeUpdate_keeps (hK.sub rfl)

theorem noteWorst_keeps {K : State → Prop} (hK : Free [.ports] K) {p : Nat} {s : State} (h0 : K s) :
    K (noteWorst p s) := by
  unfold noteWorst
  with_reducible repeat' first
    | assumption | apply updPort_keeps (hK.sub rfl) | apply keep_foldl | apply keep_foldl_fst | intro _
    | (fail_if_no_progress refine Free.mk hK ?_ (Frame.only fun p hp => by
        cases p <;> first
          | exact absurd hp (by with_unfolding_all decide) | exact rfl | exact ⟨rfl, rfl, rfl, rfl, rfl⟩))

theorem marginFail_keeps {K : State → Prop} (hK : Free [.host, .ports, .blocked, .out] K) {p : Nat} {j : Nat}
    {s : State} (h0 : K s) : K (marginFail p j s) := by
  unfold marginFail
  with_reducible repeat' first
    | assumption | apply failPort_keeps (hK.sub rfl) | apply updPort_keeps (hK.sub rfl)
    | apply noteWorst_keeps (hK.sub rfl) | (fail_if_no_progress refine Free.mk hK ?_ (Frame.only fun p hp => by
        cases p <;> first
          | exact absurd hp (by with_unfolding_all decide) | exact rfl | exact ⟨rfl, rfl, rfl, rfl, rfl⟩))

theorem marginLoss_keeps {K : State → Prop} (hK : Free [.host, .ports, .blocked, .out] K) {p : Nat}
    {lane : Nat} {s : State} (h0 : K s) : K (marginLoss p lane s) := by
  unfold marginLoss
  with_reducible repeat' first
    | assumption | apply marginFail_keeps (hK.sub rfl) | apply keep_foldl | apply keep_foldl_fst | intro _

theorem marginEnd_keeps {K : State → Prop}
    (hK : Free [.host, .pools, .ports, .drones, .routing, .traffic, .flows, .course, .perf, .blocked, .drops, .out] K)
    {p : Nat} {s : State} (h0 : K s) : K (marginEnd p s) := by
  unfold marginEnd
  try dsimp -proj only
  with_reducible repeat' first
    | assumption | apply marginFail_keeps (hK.sub rfl) | apply noteWorst_keeps (hK.sub rfl)
    | apply updPort_keeps (hK.sub rfl) | apply enterInit_keeps (hK.sub rfl)
    | (fail_if_no_progress refine Free.mk hK ?_ (Frame.only fun p hp => by
        cases p <;> first
          | exact absurd hp (by with_unfolding_all decide) | exact rfl | exact ⟨rfl, rfl, rfl, rfl, rfl⟩))
    | apply keep_ite | split

theorem execMarginWindowEnd_keeps {K : State → Prop}
    (hK : Free [.host, .pools, .ports, .drones, .routing, .traffic, .flows, .course, .perf, .blocked, .drops, .out] K)
    {port : BitVec 7} {s : State} (h0 : K s) {st1 : State} (he : execMarginWindowEnd port s = .next st1) : K st1 := by
  unfold execMarginWindowEnd at he
  repeat' (split at he)
  all_goals (injection he with he; subst he)
  with_reducible repeat' first
    | assumption | apply marginEnd_keeps (hK.sub rfl)

theorem helloCame_keeps {K : State → Prop}
    (hK : Free [.host, .pools, .ports, .drones, .routing, .traffic, .flows, .course, .perf, .blocked, .drops, .out] K)
    {m : Nat} {s : State} (h0 : K s) : K (helloCame m s) := by
  unfold helloCame
  with_reducible repeat' first
    | assumption | apply enterInit_keeps (hK.sub rfl) | intro _ | apply keep_forEach | intro _

theorem lockTimeout_keeps {K : State → Prop} (hK : Free [.host, .ports, .blocked, .out] K) {p : Nat}
    {s : State} (h0 : K s) : K (lockTimeout p s) := by
  unfold lockTimeout
  try dsimp -proj only
  with_reducible repeat' first
    | assumption | apply failPort_keeps (hK.sub rfl) | apply keep_ite | split

theorem execLockTimeout_keeps {K : State → Prop} (hK : Free [.host, .ports, .blocked, .out] K)
    {port : BitVec 7} {s : State} (h0 : K s) {st1 : State} (he : execLockTimeout port s = .next st1) : K st1 := by
  unfold execLockTimeout at he
  repeat' (split at he)
  all_goals (injection he with he; subst he)
  with_reducible repeat' first
    | assumption | apply lockTimeout_keeps (hK.sub rfl)

theorem measureTimeout_keeps {K : State → Prop} (hK : Free [.host, .ports, .blocked, .out] K) {p : Nat}
    {s : State} (h0 : K s) : K (measureTimeout p s) := by
  unfold measureTimeout
  try dsimp -proj only
  with_reducible repeat' first
    | assumption | apply failPort_keeps (hK.sub rfl) | apply keep_ite | split

theorem execMeasureTimeout_keeps {K : State → Prop} (hK : Free [.host, .ports, .blocked, .out] K)
    {port : BitVec 7} {s : State} (h0 : K s) {st1 : State} (he : execMeasureTimeout port s = .next st1) : K st1 := by
  unfold execMeasureTimeout at he
  repeat' (split at he)
  all_goals (injection he with he; subst he)
  with_reducible repeat' first
    | assumption | apply measureTimeout_keeps (hK.sub rfl)

theorem flitTimeout_keeps {K : State → Prop}
    (hK : Free [.host, .pools, .ports, .drones, .routing, .traffic, .flows, .course, .perf, .blocked, .drops, .out] K)
    {p : Nat} {s : State} (h0 : K s) : K (flitTimeout p s) := by
  unfold flitTimeout
  try dsimp -proj only
  with_reducible repeat' first
    | assumption | apply portLost_keeps (hK.sub rfl) | apply keep_ite | split

theorem execFlitTimeout_keeps {K : State → Prop}
    (hK : Free [.host, .pools, .ports, .drones, .routing, .traffic, .flows, .course, .perf, .blocked, .drops, .out] K)
    {port : BitVec 7} {s : State} (h0 : K s) {st1 : State} (he : execFlitTimeout port s = .next st1) : K st1 := by
  unfold execFlitTimeout at he
  repeat' (split at he)
  all_goals (injection he with he; subst he)
  with_reducible repeat' first
    | assumption | apply flitTimeout_keeps (hK.sub rfl)

theorem ackTimeout_keeps {K : State → Prop}
    (hK : Free [.host, .pools, .ports, .drones, .routing, .traffic, .flows, .course, .perf, .blocked, .drops, .out] K)
    {p : Nat} {s : State} (h0 : K s) : K (ackTimeout p s) := by
  unfold ackTimeout
  try dsimp -proj only
  with_reducible repeat' first
    | assumption | apply portLost_keeps (hK.sub rfl) | apply keep_ite | split

theorem execAckTimeout_keeps {K : State → Prop}
    (hK : Free [.host, .pools, .ports, .drones, .routing, .traffic, .flows, .course, .perf, .blocked, .drops, .out] K)
    {port : BitVec 7} {s : State} (h0 : K s) {st1 : State} (he : execAckTimeout port s = .next st1) : K st1 := by
  unfold execAckTimeout at he
  repeat' (split at he)
  all_goals (injection he with he; subst he)
  with_reducible repeat' first
    | assumption | apply ackTimeout_keeps (hK.sub rfl)

theorem creditDeadline_keeps {K : State → Prop}
    (hK : Free [.host, .pools, .ports, .drones, .routing, .traffic, .flows, .course, .perf, .blocked, .drops, .out] K)
    {p : Nat} {s : State} (h0 : K s) : K (creditDeadline p s) := by
  unfold creditDeadline
  try dsimp -proj only
  with_reducible repeat' first
    | assumption | apply portLost_keeps (hK.sub rfl) | apply keep_ite | split

theorem execCreditDeadline_keeps {K : State → Prop}
    (hK : Free [.host, .pools, .ports, .drones, .routing, .traffic, .flows, .course, .perf, .blocked, .drops, .out] K)
    {port : BitVec 7} {s : State} (h0 : K s) {st1 : State} (he : execCreditDeadline port s = .next st1) : K st1 := by
  unfold execCreditDeadline at he
  repeat' (split at he)
  all_goals (injection he with he; subst he)
  with_reducible repeat' first
    | assumption | apply creditDeadline_keeps (hK.sub rfl)

theorem tackDeadline_keeps {K : State → Prop}
    (hK : Free [.host, .pools, .ports, .drones, .routing, .traffic, .flows, .course, .perf, .blocked, .drops, .out] K)
    {e : Nat} {s : State} (h0 : K s) : K (tackDeadline e s) := by
  unfold tackDeadline
  try dsimp -proj only
  with_reducible repeat' first
    | assumption | apply portLost_keeps (hK.sub rfl) | apply keep_ite | split

theorem execTackDeadline_keeps {K : State → Prop}
    (hK : Free [.host, .pools, .ports, .drones, .routing, .traffic, .flows, .course, .perf, .blocked, .drops, .out] K)
    {endpoint : BitVec 15} {s : State} (h0 : K s) {st1 : State} (he : execTackDeadline endpoint s = .next st1) : K
    st1 := by
  unfold execTackDeadline at he
  repeat' (split at he)
  all_goals (injection he with he; subst he)
  with_reducible repeat' first
    | assumption | apply tackDeadline_keeps (hK.sub rfl)

theorem nextShared_keeps {K : State → Prop} (hK : Free [.ports] K) {p t : Nat} : ∀ {k : Nat} {s : State}, K s →
    ∀ {r1} {st1 : State}, nextShared p t k s = (st1, r1) → K st1 := by
  intro k
  induction k with
  | zero => intro s h0 r1 st1 he; cases he; exact h0
  | succ k ih =>
    intro s h0 r1 st1 he
    unfold nextShared at he
    split at he
    · cases he
      exact h0
    · extract_lets v pass at he
      have hp : ∀ u, K u → K (pass u) := fun u h => updPort_keeps hK h
      clear_value pass
      split at he
      · exact ih (hp _ (updPort_keeps hK h0)) he
      · split at he
        · exact ih (hp _ h0) he
        · extract_lets at he
          split at he
          · cases he
            exact updPort_keeps hK (updPort_keeps hK h0)
          · exact ih (hp _ (updPort_keeps hK h0)) he

theorem nextPacket_keeps {K : State → Prop} (hK : Free [.ports] K) {p t : Nat} {s : State} (h0 : K s) {r1} {st1 : State}
    (he : nextPacket p t s = (st1, r1)) : K st1 := by
  unfold nextPacket at he
  split at he
  · cases he
    exact h0
  · exact nextShared_keeps hK h0 he

theorem beginPacket_keeps {K : State → Prop}
    (hK : Free [.host, .pools, .ports, .traffic, .perf, .blocked, .out] K) {p : Nat} {sub : Nat} {t : Nat}
    {depth : Nat} {x : QPkt} {s : State} (h0 : K s) : K (beginPacket p sub t depth x s) := by
  unfold beginPacket
  try dsimp -proj only
  with_reducible repeat' first
    | assumption | apply count_keeps (hK.sub rfl) | apply updPort_keeps (hK.sub rfl)
    | apply samplePacket_keeps (hK.sub rfl) | (fail_if_no_progress refine Free.mk hK ?_ (Frame.only fun p hp => by
        cases p <;> first
          | exact absurd hp (by with_unfolding_all decide) | exact rfl | exact ⟨rfl, rfl, rfl, rfl, rfl⟩))
    | apply keep_ite | split

theorem startPacket_keeps {K : State → Prop}
    (hK : Free [.host, .pools, .ports, .routing, .traffic, .perf, .blocked, .out] K) {p : Nat} {sub : Nat}
    {t : Nat} {s : State} (h0 : K s) : K (startPacket p sub t s) := by
  unfold startPacket
  try dsimp -proj only
  with_reducible repeat' first
    | assumption | apply updQueue_keeps (hK.sub rfl) | apply count_keeps (hK.sub rfl)
    | apply beginPacket_keeps (hK.sub rfl) | apply updPort_keeps (hK.sub rfl)
    | (fail_if_no_progress refine Free.mk hK ?_ (Frame.only fun p hp => by
        cases p <;> first
          | exact absurd hp (by with_unfolding_all decide) | exact rfl | exact ⟨rfl, rfl, rfl, rfl, rfl⟩))
    | apply keep_ite | split

theorem putInit_keeps {K : State → Prop} (hK : Free [.host, .pools, .ports, .traffic, .perf, .blocked, .out] K)
    {p : Nat} {lane : Nat} {s : State} (h0 : K s) : K (putInit p lane s) := by
  unfold putInit
  try dsimp -proj only
  with_reducible repeat' first
    | assumption | apply updPort_keeps (hK.sub rfl) | apply beginPacket_keeps (hK.sub rfl)
    | (fail_if_no_progress refine Free.mk hK ?_ (Frame.only fun p hp => by
        cases p <;> first
          | exact absurd hp (by with_unfolding_all decide) | exact rfl | exact ⟨rfl, rfl, rfl, rfl, rfl⟩))
    | apply keep_ite | split

theorem testEarlier_keeps {K : State → Prop} (hK : Free [.host, .pools, .ports, .routing, .traffic, .perf, .blocked, .drops, .out] K) {p sub m : Nat} : ∀ {k : Nat} {s : State}, K s →
    K (testEarlier p sub m k s) := by
  intro k
  induction k with
  | zero => intro s h0; exact h0
  | succ k ih =>
    intro s h0
    unfold testEarlier
    try dsimp -proj only
    with_reducible repeat' first
      | assumption | apply ih | apply releaseRx_keeps (hK.sub rfl) | apply ageOut_keeps (hK.sub rfl)
      | apply updQueue_keeps (hK.sub rfl) | apply keep_ite | split

theorem testBefore_keeps {K : State → Prop}
    (hK : Free [.host, .pools, .ports, .routing, .traffic, .perf, .blocked, .drops, .out] K) {p : Nat} {m : Nat}
    {s : State} (h0 : K s) : K (testBefore p m s) := by
  unfold testBefore
  with_reducible repeat' first
    | assumption | apply testEarlier_keeps (hK.sub rfl) | apply keep_foldl | apply keep_foldl_fst | intro _

theorem fillStream_keeps {K : State → Prop} (hK : Free [.host, .pools, .ports, .routing, .traffic, .perf, .blocked, .drops, .out] K) {p lane : Nat} : ∀ {k pos : Nat} {s : State}, K s →
    K (fillStream p lane k pos s) := by
  intro k
  induction k with
  | zero => intro pos s h0; exact h0
  | succ k ih =>
    intro pos s h0
    unfold fillStream
    split
    · exact h0
    · dsimp only
      have hb := testBefore_keeps (p := p) (m := momentOf s (leaveTime s p lane pos)) (hK.sub rfl) h0
      split
      · exact ih (startPacket_keeps (hK.sub rfl) (updPort_keeps (hK.sub rfl) (nextPacket_keeps (hK.sub rfl) hb ‹_›)))
      · have h1 := nextPacket_keeps (hK.sub rfl) hb ‹_›
        exact keep_ite (ih h1) h1

theorem stageStream_keeps {K : State → Prop}
    (hK : Free [.host, .pools, .ports, .routing, .traffic, .perf, .blocked, .drops, .out] K) {p : Nat} {lane : Nat}
    {s : State} (h0 : K s) : K (stageStream p lane s) := by
  unfold stageStream
  try dsimp -proj only
  with_reducible repeat' first
    | assumption | apply fillStream_keeps (hK.sub rfl) | apply putInit_keeps (hK.sub rfl) | apply keep_ite | split

theorem ageCheck_keeps {K : State → Prop}
    (hK : Free [.host, .pools, .ports, .routing, .traffic, .perf, .blocked, .drops, .out] K) {port : Nat}
    {sub : Nat} {i : Nat} {s : State} (h0 : K s) : K (ageCheck port sub i s) := by
  unfold ageCheck
  with_reducible repeat' first
    | assumption | apply updQueue_keeps (hK.sub rfl) | apply releaseRx_keeps (hK.sub rfl)
    | apply ageOut_keeps (hK.sub rfl) | (fail_if_no_progress refine Free.mk hK ?_ (Frame.only fun p hp => by
        cases p <;> first
          | exact absurd hp (by with_unfolding_all decide) | exact rfl | exact ⟨rfl, rfl, rfl, rfl, rfl⟩))
    | apply keep_ite | split

theorem execAgeCheck_keeps {K : State → Prop}
    (hK : Free [.host, .pools, .ports, .routing, .traffic, .perf, .blocked, .drops, .out] K) {port : BitVec 7}
    {sublane : BitVec 4} {index : BitVec 16} {s : State} (h0 : K s) {st1 : State}
    (he : execAgeCheck port sublane index s = .next st1) : K st1 := by
  unfold execAgeCheck at he
  repeat' (split at he)
  all_goals (injection he with he; subst he)
  with_reducible repeat' first
    | assumption | apply ageCheck_keeps (hK.sub rfl)

theorem testHead_keeps {K : State → Prop} (hK : Free [.host, .pools, .ports, .routing, .traffic, .perf, .blocked, .drops, .out] K) {p sub : Nat} : ∀ {k : Nat} {s : State}, K s →
    K (testHead p sub k s) := by
  intro k
  induction k with
  | zero => intro s h0; exact h0
  | succ k ih =>
    intro s h0
    unfold testHead
    repeat' split
    · exact h0
    · exact ih (releaseRx_keeps (hK.sub rfl) (ageOut_keeps (hK.sub rfl) (updQueue_keeps (hK.sub rfl) h0)))
    · exact h0

theorem testHeads_keeps {K : State → Prop}
    (hK : Free [.host, .pools, .ports, .routing, .traffic, .perf, .blocked, .drops, .out] K) {s : State}
    (h0 : K s) : K (testHeads s) := by
  unfold testHeads
  with_reducible repeat' first
    | assumption | apply testHead_keeps (hK.sub rfl) | apply keep_foldl | apply keep_foldl_fst | intro _

theorem noteLeft_keeps {K : State → Prop} (hK : Free [.groups] K) {ps : List QPkt} {s : State} (h0 : K s) :
    K (noteLeft ps s) := by
  unfold noteLeft
  try dsimp -proj only
  with_reducible repeat' first
    | assumption | (fail_if_no_progress refine Free.mk hK ?_ (Frame.only fun p hp => by
        cases p <;> first
          | exact absurd hp (by with_unfolding_all decide) | exact rfl | exact ⟨rfl, rfl, rfl, rfl, rfl⟩))
    | apply keep_ite | split

theorem newFlit_keeps {K : State → Prop}
    (hK : Free [.host, .pools, .groups, .ports, .routing, .traffic, .perf, .blocked, .drops, .out] K) {p : Nat}
    {lane : Nat} {s : State} (h0 : K s) {r1 r2} {st1 : State} (he : newFlit p lane s = (st1, r1, r2)) : K st1 := by
  unfold newFlit at he
  try dsimp -proj only at he
  repeat' (split at he)
  all_goals (try first | contradiction | cases he)
  try dsimp -proj only
  with_reducible repeat' first
    | assumption | apply stageStream_keeps (hK.sub rfl) | apply updPort_keeps (hK.sub rfl)
    | apply noteLeft_keeps (hK.sub rfl) | (fail_if_no_progress refine Free.mk hK ?_ (Frame.only fun p hp => by
        cases p <;> first
          | exact absurd hp (by with_unfolding_all decide) | exact rfl | exact ⟨rfl, rfl, rfl, rfl, rfl⟩))
    | apply keep_ite | split

theorem driveCodeword_keeps {K : State → Prop} (hK : Free [.ports, .out] K) {p : Nat} {lane : Nat}
    {header : Nat} {flit : List Byte} {s : State} (h0 : K s) : K (driveCodeword p lane header flit s) := by
  unfold driveCodeword
  try dsimp -proj only
  with_reducible repeat' first
    | assumption | apply updPort_keeps (hK.sub rfl)
    | (fail_if_no_progress refine Free.mk hK ?_ (Frame.only fun p hp => by
        cases p <;> first
          | exact absurd hp (by with_unfolding_all decide) | exact rfl | exact ⟨rfl, rfl, rfl, rfl, rfl⟩))

theorem flitTx_keeps {K : State → Prop} (hK : Free [.host, .pools, .groups, .ports, .drones, .routing, .traffic, .flows, .course, .perf, .blocked, .drops, .out] K) {p lane : Nat} {s : State} (h0 : K s) :
    K (flitTx p lane s) := by
  unfold flitTx
  extract_lets now from1 u q again r
  have hu : K u := updPort_keeps (hK.sub rfl) h0
  have hr : ∀ {v x}, r = some (v, x) → K v := by
    intro v x e
    simp only [r] at e
    clear_value again
    split at e
    · cases e
      exact updPort_keeps (hK.sub rfl) hu
    · split at e
      · cases e
      · injection e with e
        exact newFlit_keeps (hK.sub rfl) (updPort_keeps (hK.sub rfl) hu) (r1 := x.1) (r2 := x.2) e
  clear_value r
  split
  · exact portLost_keeps (hK.sub rfl) hu
  · have hv := hr rfl
    split
    · exact driveCodeword_keeps (hK.sub rfl) hv
    · dsimp only
      refine checkUp_keeps (hK.sub rfl) (keep_ite ?_ ?_)
      · exact enterMargin_keeps (hK.sub rfl) (driveCodeword_keeps (hK.sub rfl) (updPort_keeps (hK.sub rfl) hv))
      · exact driveCodeword_keeps (hK.sub rfl) (updPort_keeps (hK.sub rfl) hv)

theorem lockTx_keeps {K : State → Prop} (hK : Free [.ports, .out] K) {p : Nat} {lane : Nat} {s : State}
    (h0 : K s) : K (lockTx p lane s) := by
  unfold lockTx
  try dsimp -proj only
  with_reducible repeat' first
    | assumption | apply updPort_keeps (hK.sub rfl) | apply driveCodeword_keeps (hK.sub rfl)
    | apply enterMeasure_keeps (hK.sub rfl) | (fail_if_no_progress refine Free.mk hK ?_ (Frame.only fun p hp => by
        cases p <;> first
          | exact absurd hp (by with_unfolding_all decide) | exact rfl | exact ⟨rfl, rfl, rfl, rfl, rfl⟩))
    | apply keep_ite | split

theorem codewordTx_keeps {K : State → Prop}
    (hK : Free [.host, .pools, .groups, .ports, .drones, .routing, .traffic, .flows, .course, .perf, .blocked, .drops, .out] K)
    {p : Nat} {lane : Nat} {s : State} (h0 : K s) : K (codewordTx p lane s) := by
  unfold codewordTx
  try dsimp -proj only
  with_reducible repeat' first
    | assumption | apply flitTx_keeps (hK.sub rfl) | apply lockTx_keeps (hK.sub rfl) | apply keep_ite | split

theorem execCodewordTx_keeps {K : State → Prop}
    (hK : Free [.host, .pools, .groups, .ports, .drones, .routing, .traffic, .flows, .course, .perf, .blocked, .drops, .out] K)
    {port : BitVec 7} {lane : BitVec 4} {s : State} (h0 : K s) {st1 : State}
    (he : execCodewordTx port lane s = .next st1) : K st1 := by
  unfold execCodewordTx at he
  repeat' (split at he)
  all_goals (injection he with he; subst he)
  with_reducible repeat' first
    | assumption | apply codewordTx_keeps (hK.sub rfl)

theorem acceptFlit_keeps {K : State → Prop}
    (hK : Free [.host, .pools, .ports, .drones, .routing, .traffic, .flows, .course, .perf, .blocked, .drops, .out] K)
    {p : Nat} {lane : Nat} {bs : List Byte} {s : State} (h0 : K s) : K (acceptFlit p lane bs s) := by
  unfold acceptFlit
  try dsimp -proj only
  with_reducible repeat' first
    | assumption | apply updPort_keeps (hK.sub rfl) | apply portLost_keeps (hK.sub rfl)
    | (fail_if_no_progress refine Free.mk hK ?_ (Frame.only fun p hp => by
        cases p <;> first
          | exact absurd hp (by with_unfolding_all decide) | exact rfl | exact ⟨rfl, rfl, rfl, rfl, rfl⟩)) | split

theorem flitLoss_keeps {K : State → Prop}
    (hK : Free [.host, .pools, .ports, .drones, .routing, .traffic, .flows, .course, .perf, .blocked, .drops, .out] K)
    {p : Nat} {lane : Nat} {s : State} (h0 : K s) : K (flitLoss p lane s) := by
  unfold flitLoss
  try dsimp -proj only
  with_reducible repeat' first
    | assumption | apply marginLoss_keeps (hK.sub rfl) | apply updPort_keeps (hK.sub rfl)
    | apply portLost_keeps (hK.sub rfl) | (fail_if_no_progress refine Free.mk hK ?_ (Frame.only fun p hp => by
        cases p <;> first
          | exact absurd hp (by with_unfolding_all decide) | exact rfl | exact ⟨rfl, rfl, rfl, rfl, rfl⟩))
    | apply keep_ite | split

theorem flitRx_keeps {K : State → Prop}
    (hK : Free [.host, .pools, .ports, .drones, .routing, .traffic, .flows, .course, .perf, .blocked, .drops, .out] K)
    {p : Nat} {lane : Nat} {cw : Option Message} {s : State} (h0 : K s) : K (flitRx p lane cw s) := by
  unfold flitRx
  try dsimp -proj only
  with_reducible repeat' first
    | assumption | apply flitLoss_keeps (hK.sub rfl) | apply drop_keeps (hK.sub rfl)
    | apply acceptFlit_keeps (hK.sub rfl) | apply keep_ite | split

theorem lockRx_keeps {K : State → Prop}
    (hK : Free [.host, .pools, .ports, .drones, .routing, .traffic, .flows, .course, .perf, .blocked, .drops, .out] K)
    {p : Nat} {lane : Nat} {cw : Option Message} {s : State} (h0 : K s) : K (lockRx p lane cw s) := by
  unfold lockRx
  try dsimp -proj only
  with_reducible repeat' first
    | assumption | apply portLost_keeps (hK.sub rfl) | apply updPort_keeps (hK.sub rfl)
    | apply enterMeasure_keeps (hK.sub rfl) | (fail_if_no_progress refine Free.mk hK ?_ (Frame.only fun p hp => by
        cases p <;> first
          | exact absurd hp (by with_unfolding_all decide) | exact rfl | exact ⟨rfl, rfl, rfl, rfl, rfl⟩))
    | apply keep_ite | split

theorem countSymbols_keeps {K : State → Prop} (hK : Free [.ports, .course] K) {p : Nat} {lane : Nat}
    {cw : Codeword} {s : State} (h0 : K s) : K (countSymbols p lane cw s) := by
  unfold countSymbols
  try dsimp -proj only
  with_reducible repeat' first
    | assumption | apply updPort_keeps (hK.sub rfl)
    | (fail_if_no_progress refine Free.mk hK ?_ (Frame.only fun p hp => by
        cases p <;> first
          | exact absurd hp (by with_unfolding_all decide) | exact rfl | exact ⟨rfl, rfl, rfl, rfl, rfl⟩))
    | apply keep_ite | split

theorem hearCodeword_keeps {K : State → Prop} (hK : Free [.ports] K) {p : Nat} {lane : Nat} {cw : Codeword}
    {s : State} (h0 : K s) {r1} {st1 : State} (he : hearCodeword p lane cw s = (r1, st1)) : K st1 := by
  unfold hearCodeword at he
  try dsimp -proj only at he
  repeat' (split at he)
  all_goals (try first | contradiction | cases he)
  try dsimp -proj only
  with_reducible repeat' first
    | assumption | apply updPort_keeps (hK.sub rfl)
    | (fail_if_no_progress refine Free.mk hK ?_ (Frame.only fun p hp => by
        cases p <;> first
          | exact absurd hp (by with_unfolding_all decide) | exact rfl | exact ⟨rfl, rfl, rfl, rfl, rfl⟩))

theorem takeDeskewed_keeps {K : State → Prop} (hK : Free [.host, .pools, .ports, .drones, .routing, .traffic, .flows, .course, .perf, .blocked, .drops, .out] K) {p : Nat} : ∀ {k : Nat} {s : State}, K s →
    K (takeDeskewed p k s) := by
  intro k
  induction k with
  | zero => intro s h0; exact h0
  | succ k ih =>
    intro s h0
    unfold takeDeskewed
    try dsimp -proj only
    with_reducible repeat' first
      | assumption | apply ih | apply flitRx_keeps (hK.sub rfl) | apply updPort_keeps (hK.sub rfl)
      | apply keep_ite | split

theorem deskewRx_keeps {K : State → Prop}
    (hK : Free [.host, .pools, .ports, .drones, .routing, .traffic, .flows, .course, .perf, .blocked, .drops, .out] K)
    {p : Nat} {lane : Nat} {m : Option Message} {s : State} (h0 : K s) : K (deskewRx p lane m s) := by
  unfold deskewRx
  try dsimp -proj only
  with_reducible repeat' first
    | assumption | apply updPort_keeps (hK.sub rfl) | apply takeDeskewed_keeps (hK.sub rfl)
    | (fail_if_no_progress refine Free.mk hK ?_ (Frame.only fun p hp => by
        cases p <;> first
          | exact absurd hp (by with_unfolding_all decide) | exact rfl | exact ⟨rfl, rfl, rfl, rfl, rfl⟩))
    | apply keep_ite | split

theorem codewordRx_keeps {K : State → Prop}
    (hK : Free [.host, .pools, .ports, .drones, .routing, .traffic, .flows, .course, .perf, .blocked, .drops, .out] K)
    {p : Nat} {lane : Nat} {cw : Codeword} {s : State} (h0 : K s) : K (codewordRx p lane cw s) := by
  unfold codewordRx
  try dsimp -proj only
  with_reducible repeat' first
    | assumption | refine hearCodeword_keeps (hK.sub rfl) ?_ (by first | assumption | rfl)
    | apply countSymbols_keeps (hK.sub rfl) | apply deskewRx_keeps (hK.sub rfl) | apply lockRx_keeps (hK.sub rfl)
    | apply keep_ite | split

theorem execCodewordRx_keeps {K : State → Prop}
    (hK : Free [.host, .pools, .ports, .drones, .routing, .traffic, .flows, .course, .perf, .blocked, .drops, .out] K)
    {port : BitVec 7} {lane : BitVec 4} {cw : Codeword} {s : State} (h0 : K s) {st1 : State}
    (he : execCodewordRx port lane cw s = .next st1) : K st1 := by
  unfold execCodewordRx at he
  repeat' (split at he)
  all_goals (injection he with he; subst he)
  with_reducible repeat' first
    | assumption | apply codewordRx_keeps (hK.sub rfl)

theorem ackRx_keeps {K : State → Prop}
    (hK : Free [.host, .pools, .ports, .routing, .course, .perf, .blocked, .out] K) {p : Nat} {fsn : BitVec 12}
    {replay : Bool} {rtag : BitVec 2} {s : State} (h0 : K s) : K (ackRx p fsn replay rtag s) := by
  unfold ackRx
  try dsimp -proj only
  with_reducible repeat' first
    | assumption | apply updPort_keeps (hK.sub rfl) | apply releaseBuf_keeps (hK.sub rfl) | intro _
    | apply keep_forEach | intro _ | (fail_if_no_progress refine Free.mk hK ?_ (Frame.only fun p hp => by
        cases p <;> first
          | exact absurd hp (by with_unfolding_all decide) | exact rfl | exact ⟨rfl, rfl, rfl, rfl, rfl⟩))
    | apply keep_ite | split

theorem execAck_keeps {K : State → Prop}
    (hK : Free [.host, .pools, .ports, .routing, .course, .perf, .blocked, .out] K) {port : BitVec 7}
    {fsn : BitVec 12} {replay : Bool} {rtag : BitVec 2} {s : State} (h0 : K s) {st1 : State}
    (he : execAck port fsn replay rtag s = .next st1) : K st1 := by
  unfold execAck at he
  repeat' (split at he)
  all_goals (injection he with he; subst he)
  with_reducible repeat' first
    | assumption | apply ackRx_keeps (hK.sub rfl)

theorem creditRx_keeps {K : State → Prop} (hK : Free [.ports, .drops] K) {p : Nat} {sub : Nat} {n : BitVec 12}
    {s : State} (h0 : K s) : K (creditRx p sub n s) := by
  unfold creditRx
  try dsimp -proj only
  with_reducible repeat' first
    | assumption | apply drop_keeps (hK.sub rfl) | apply updPort_keeps (hK.sub rfl)
    | (fail_if_no_progress refine Free.mk hK ?_ (Frame.only fun p hp => by
        cases p <;> first
          | exact absurd hp (by with_unfolding_all decide) | exact rfl | exact ⟨rfl, rfl, rfl, rfl, rfl⟩))
    | apply keep_ite | split

theorem execCredit_keeps {K : State → Prop} (hK : Free [.ports, .perf, .drops] K) {port : BitVec 7}
    {sublane : BitVec 4} {count : BitVec 12} {s : State} (h0 : K s) {st1 : State}
    (he : execCredit port sublane count s = .next st1) : K st1 := by
  unfold execCredit at he
  repeat' (split at he)
  all_goals (injection he with he; subst he)
  with_reducible repeat' first
    | assumption | apply creditRx_keeps (hK.sub rfl) | apply count_keeps (hK.sub rfl)

theorem upstreamLost_keeps {K : State → Prop} (hK : Free [.host, .clock, .blocked, .out] K) {m : Nat}
    {s : State} (h0 : K s) : K (upstreamLost m s) := by
  unfold upstreamLost
  with_reducible repeat' first
    | assumption | apply refEvent_keeps (hK.sub rfl)
    | (fail_if_no_progress refine Free.mk hK ?_ (Frame.only fun p hp => by
        cases p <;> first
          | exact absurd hp (by with_unfolding_all decide) | exact rfl | exact ⟨rfl, rfl, rfl, rfl, rfl⟩))
    | apply keep_ite | split

theorem droneLock_keeps {K : State → Prop} (hK : Free [.drones, .routing] K) {m : Nat} {s : State} (h0 : K s) :
    K (droneLock m s) := by
  unfold droneLock
  try dsimp -proj only
  with_reducible repeat' first
    | assumption | apply updDrone_keeps (hK.sub rfl)
    | (fail_if_no_progress refine Free.mk hK ?_ (Frame.only fun p hp => by
        cases p <;> first
          | exact absurd hp (by with_unfolding_all decide) | exact rfl | exact ⟨rfl, rfl, rfl, rfl, rfl⟩))

theorem checkNeighbour_keeps {K : State → Prop}
    (hK : Free [.host, .rows, .slots, .pools, .skeinMem, .hanks, .groups, .bed, .ports, .drones, .routing, .traffic, .flows, .course, .perf, .blocked, .drops, .out] K)
    {n : Nat} {s : State} (h0 : K s) : K (checkNeighbour n s) := by
  unfold checkNeighbour
  with_reducible repeat' first
    | assumption | apply declareLost_keeps (hK.sub rfl) | apply portsLost_keeps (hK.sub rfl)
    | (fail_if_no_progress refine Free.mk hK ?_ (Frame.only fun p hp => by
        cases p <;> first
          | exact absurd hp (by with_unfolding_all decide) | exact rfl | exact ⟨rfl, rfl, rfl, rfl, rfl⟩))
    | apply keep_ite | split

theorem droneLeaves_keeps {K : State → Prop} (hK : Free [.host, .blocked, .out] K) {m : Nat} {st : LaneState}
    {s : State} (h0 : K s) : K (droneLeaves m st s) := by
  unfold droneLeaves
  with_reducible repeat' first
    | assumption | apply postEvent_keeps (hK.sub rfl) | apply keep_ite | split

theorem droneLost_keeps {K : State → Prop}
    (hK : Free [.host, .rows, .slots, .pools, .skeinMem, .hanks, .groups, .bed, .ports, .drones, .clock, .routing, .traffic, .flows, .course, .perf, .blocked, .drops, .out] K)
    {m : Nat} {s : State} (h0 : K s) : K (droneLost m s) := by
  unfold droneLost
  try dsimp -proj only
  with_reducible repeat' first
    | assumption | apply checkNeighbour_keeps (hK.sub rfl) | apply droneLock_keeps (hK.sub rfl)
    | apply upstreamLost_keeps (hK.sub rfl) | apply droneLeaves_keeps (hK.sub rfl) | apply keep_ite | split

theorem droneTimeout_keeps {K : State → Prop}
    (hK : Free [.host, .rows, .slots, .pools, .skeinMem, .hanks, .groups, .bed, .ports, .drones, .clock, .routing, .traffic, .flows, .course, .perf, .blocked, .drops, .out] K)
    {m : Nat} {s : State} (h0 : K s) : K (droneTimeout m s) := by
  unfold droneTimeout
  try dsimp -proj only
  with_reducible repeat' first
    | assumption | apply droneLost_keeps (hK.sub rfl) | apply keep_ite | split

theorem execDroneLaneLost_keeps {K : State → Prop}
    (hK : Free [.host, .rows, .slots, .pools, .skeinMem, .hanks, .groups, .bed, .ports, .drones, .clock, .routing, .traffic, .flows, .course, .perf, .blocked, .drops, .out] K)
    {lane : BitVec 5} {s : State} (h0 : K s) {st1 : State} (he : execDroneLaneLost lane s = .next st1) : K st1 := by
  unfold execDroneLaneLost at he
  repeat' (split at he)
  all_goals (injection he with he; subst he)
  with_reducible repeat' first
    | assumption | apply droneTimeout_keeps (hK.sub rfl)

theorem quarantineLane_keeps {K : State → Prop}
    (hK : Free [.host, .rows, .slots, .pools, .skeinMem, .hanks, .groups, .bed, .ports, .drones, .clock, .routing, .traffic, .flows, .course, .perf, .blocked, .drops, .out] K)
    {m : Nat} {cause : Nat} {s : State} (h0 : K s) : K (quarantineLane m cause s) := by
  unfold quarantineLane
  try dsimp -proj only
  with_reducible repeat' first
    | assumption | apply upstreamLost_keeps (hK.sub rfl) | apply droneLeaves_keeps (hK.sub rfl)
    | apply updDrone_keeps (hK.sub rfl) | apply postEvent_keeps (hK.sub rfl)
    | apply quarantinePort_keeps (hK.sub rfl) | apply checkNeighbour_keeps (hK.sub rfl) | intro _
    | apply keep_forEach | intro _ | (fail_if_no_progress refine Free.mk hK ?_ (Frame.only fun p hp => by
        cases p <;> first
          | exact absurd hp (by with_unfolding_all decide) | exact rfl | exact ⟨rfl, rfl, rfl, rfl, rfl⟩))
    | apply keep_ite | split

theorem driveLines_keeps {K : State → Prop} (hK : Free [.drones] K) {s : State} (h0 : K s) : K (driveLines s) := by
  unfold driveLines
  with_reducible repeat' first
    | assumption | (fail_if_no_progress refine Free.mk hK ?_ (Frame.only fun p hp => by
        cases p <;> first
          | exact absurd hp (by with_unfolding_all decide) | exact rfl | exact ⟨rfl, rfl, rfl, rfl, rfl⟩))
    | apply keep_ite | split

theorem beatTx_keeps {K : State → Prop} (hK : Free [.drones, .out] K) {m : Nat} {s : State} (h0 : K s) :
    K (beatTx m s) := by
  unfold beatTx
  try dsimp -proj only
  with_reducible repeat' first
    | assumption | apply updDrone_keeps (hK.sub rfl) | apply droneSend_keeps (hK.sub rfl)
    | (fail_if_no_progress refine Free.mk hK ?_ (Frame.only fun p hp => by
        cases p <;> first
          | exact absurd hp (by with_unfolding_all decide) | exact rfl | exact ⟨rfl, rfl, rfl, rfl, rfl⟩))
    | apply keep_ite | split

theorem execDroneBeatTx_keeps {K : State → Prop} (hK : Free [.drones, .out] K) {lane : BitVec 5} {s : State}
    (h0 : K s) {st1 : State} (he : execDroneBeatTx lane s = .next st1) : K st1 := by
  unfold execDroneBeatTx at he
  repeat' (split at he)
  all_goals (injection he with he; subst he)
  with_reducible repeat' first
    | assumption | apply beatTx_keeps (hK.sub rfl)

theorem beatRx_keeps {K : State → Prop} (hK : Free [.drones, .course] K) {m : Nat} {b : Byte} {s : State}
    (h0 : K s) : K (beatRx m b s) := by
  unfold beatRx
  try dsimp -proj only
  with_reducible repeat' first
    | assumption | apply updDrone_keeps (hK.sub rfl) | apply setFault_keeps (hK.sub rfl)
    | (fail_if_no_progress refine Free.mk hK ?_ (Frame.only fun p hp => by
        cases p <;> first
          | exact absurd hp (by with_unfolding_all decide) | exact rfl | exact ⟨rfl, rfl, rfl, rfl, rfl⟩))
    | apply keep_ite | split

theorem execBeat_keeps {K : State → Prop} (hK : Free [.drones, .course] K) {lane : BitVec 5} {data : Byte}
    {s : State} (h0 : K s) {st1 : State} (he : execBeat lane data s = .next st1) : K st1 := by
  unfold execBeat at he
  repeat' (split at he)
  all_goals (injection he with he; subst he)
  with_reducible repeat' first
    | assumption | apply beatRx_keeps (hK.sub rfl)

theorem commaAlign_keeps {K : State → Prop} (hK : Free [.drones, .clock] K) {m : Nat} {s : State} (h0 : K s) :
    K (commaAlign m s) := by
  unfold commaAlign
  try dsimp -proj only
  with_reducible repeat' first
    | assumption | apply updDrone_keeps (hK.sub rfl)
    | (fail_if_no_progress refine Free.mk hK ?_ (Frame.only fun p hp => by
        cases p <;> first
          | exact absurd hp (by with_unfolding_all decide) | exact rfl | exact ⟨rfl, rfl, rfl, rfl, rfl⟩))
    | apply keep_ite | split

theorem execCommaAlign_keeps {K : State → Prop} (hK : Free [.drones, .clock] K) {lane : BitVec 5} {s : State}
    (h0 : K s) {st1 : State} (he : execCommaAlign lane s = .next st1) : K st1 := by
  unfold execCommaAlign at he
  repeat' (split at he)
  all_goals (injection he with he; subst he)
  with_reducible repeat' first
    | assumption | apply commaAlign_keeps (hK.sub rfl)

theorem frameError_keeps {K : State → Prop} (hK : Free [.drones] K) {m : Nat} {groups : List (BitVec 10)}
    {s : State} (h0 : K s) : K (frameError m groups s) := by
  unfold frameError
  with_reducible repeat' first
    | assumption | apply updDrone_keeps (hK.sub rfl)
    | (fail_if_no_progress refine Free.mk hK ?_ (Frame.only fun p hp => by
        cases p <;> first
          | exact absurd hp (by with_unfolding_all decide) | exact rfl | exact ⟨rfl, rfl, rfl, rfl, rfl⟩))
    | apply keep_ite | split

theorem execDroneFrameError_keeps {K : State → Prop} (hK : Free [.drones] K) {lane : BitVec 5}
    {groups : List (BitVec 10)} {s : State} (h0 : K s) {st1 : State}
    (he : execDroneFrameError lane groups s = .next st1) : K st1 := by
  unfold execDroneFrameError at he
  repeat' (split at he)
  all_goals (injection he with he; subst he)
  with_reducible repeat' first
    | assumption | apply frameError_keeps (hK.sub rfl)

theorem helloTx_keeps {K : State → Prop} (hK : Free [.drones, .out] K) {m : Nat} {s : State} (h0 : K s) :
    K (helloTx m s) := by
  unfold helloTx
  try dsimp -proj only
  with_reducible repeat' first
    | assumption | apply updDrone_keeps (hK.sub rfl) | apply droneSend_keeps (hK.sub rfl)
    | (fail_if_no_progress refine Free.mk hK ?_ (Frame.only fun p hp => by
        cases p <;> first
          | exact absurd hp (by with_unfolding_all decide) | exact rfl | exact ⟨rfl, rfl, rfl, rfl, rfl⟩))
    | apply keep_ite | split

theorem execHelloTx_keeps {K : State → Prop} (hK : Free [.drones, .out] K) {lane : BitVec 5} {s : State}
    (h0 : K s) {st1 : State} (he : execHelloTx lane s = .next st1) : K st1 := by
  unfold execHelloTx at he
  repeat' (split at he)
  all_goals (injection he with he; subst he)
  with_reducible repeat' first
    | assumption | apply helloTx_keeps (hK.sub rfl)

theorem fixLevel_keeps {K : State → Prop} (hK : Free [.course] K) {n : Nat} {l : Nat} {s : State} (h0 : K s) :
    K (fixLevel n l s) := by
  unfold fixLevel
  with_reducible repeat' first
    | assumption | (fail_if_no_progress refine Free.mk hK ?_ (Frame.only fun p hp => by
        cases p <;> first
          | exact absurd hp (by with_unfolding_all decide) | exact rfl | exact ⟨rfl, rfl, rfl, rfl, rfl⟩))
    | apply keep_ite | split

theorem helloRx_keeps {K : State → Prop}
    (hK : Free [.host, .rows, .slots, .pools, .skeinMem, .hanks, .groups, .bed, .ports, .drones, .clock, .routing, .traffic, .flows, .course, .perf, .blocked, .drops, .out] K)
    {m : Nat} {b : BitVec 224} {s : State} (h0 : K s) : K (helloRx m b s) := by
  unfold helloRx
  try dsimp -proj only
  with_reducible repeat' first
    | assumption | apply quarantineLane_keeps (hK.sub rfl) | apply updDrone_keeps (hK.sub rfl)
    | apply helloCame_keeps (hK.sub rfl) | apply takeUpstream_keeps (hK.sub rfl)
    | apply fixLevel_keeps (hK.sub rfl) | (fail_if_no_progress refine Free.mk hK ?_ (Frame.only fun p hp => by
        cases p <;> first
          | exact absurd hp (by with_unfolding_all decide) | exact rfl | exact ⟨rfl, rfl, rfl, rfl, rfl⟩))
    | apply keep_ite | split

theorem execHello_keeps {K : State → Prop}
    (hK : Free [.host, .rows, .slots, .pools, .skeinMem, .hanks, .groups, .bed, .ports, .drones, .clock, .routing, .traffic, .flows, .course, .perf, .blocked, .drops, .out] K)
    {lane : BitVec 5} {body : BitVec 224} {s : State} (h0 : K s) {st1 : State}
    (he : execHello lane body s = .next st1) : K st1 := by
  unfold execHello at he
  repeat' (split at he)
  all_goals (injection he with he; subst he)
  with_reducible repeat' first
    | assumption | apply helloRx_keeps (hK.sub rfl)

theorem droneMeasureFails_keeps {K : State → Prop}
    (hK : Free [.host, .rows, .slots, .pools, .skeinMem, .hanks, .groups, .bed, .ports, .drones, .clock, .routing, .traffic, .flows, .course, .perf, .blocked, .drops, .out] K)
    {m : Nat} {s : State} (h0 : K s) : K (droneMeasureFails m s) := by
  unfold droneMeasureFails
  try dsimp -proj only
  with_reducible repeat' first
    | assumption | apply upstreamLost_keeps (hK.sub rfl) | apply droneLeaves_keeps (hK.sub rfl)
    | apply updDrone_keeps (hK.sub rfl) | apply checkNeighbour_keeps (hK.sub rfl)
    | apply postEvent_keeps (hK.sub rfl) | (fail_if_no_progress refine Free.mk hK ?_ (Frame.only fun p hp => by
        cases p <;> first
          | exact absurd hp (by with_unfolding_all decide) | exact rfl | exact ⟨rfl, rfl, rfl, rfl, rfl⟩))
    | apply keep_ite | split

theorem delayReqTx_keeps {K : State → Prop}
    (hK : Free [.host, .rows, .slots, .pools, .skeinMem, .hanks, .groups, .bed, .ports, .drones, .clock, .routing, .traffic, .flows, .course, .perf, .blocked, .drops, .out] K)
    {m : Nat} {s : State} (h0 : K s) : K (delayReqTx m s) := by
  unfold delayReqTx
  try dsimp -proj only
  with_reducible repeat' first
    | assumption | apply droneMeasureFails_keeps (hK.sub rfl) | apply droneSend_keeps (hK.sub rfl)
    | apply updDrone_keeps (hK.sub rfl) | (fail_if_no_progress refine Free.mk hK ?_ (Frame.only fun p hp => by
        cases p <;> first
          | exact absurd hp (by with_unfolding_all decide) | exact rfl | exact ⟨rfl, rfl, rfl, rfl, rfl⟩))
    | apply keep_ite | split

theorem execDelayReqTx_keeps {K : State → Prop}
    (hK : Free [.host, .rows, .slots, .pools, .skeinMem, .hanks, .groups, .bed, .ports, .drones, .clock, .routing, .traffic, .flows, .course, .perf, .blocked, .drops, .out] K)
    {lane : BitVec 5} {s : State} (h0 : K s) {st1 : State} (he : execDelayReqTx lane s = .next st1) : K st1 := by
  unfold execDelayReqTx at he
  repeat' (split at he)
  all_goals (injection he with he; subst he)
  with_reducible repeat' first
    | assumption | apply delayReqTx_keeps (hK.sub rfl)

theorem delayReqRx_keeps {K : State → Prop} (hK : Free [.drones, .out] K) {m : Nat} {req : BitVec 32}
    {t1 : BitVec 64} {s : State} (h0 : K s) : K (delayReqRx m req t1 s) := by
  unfold delayReqRx
  try dsimp -proj only
  with_reducible repeat' first
    | assumption | apply droneSend_keeps (hK.sub rfl) | apply keep_ite | split

theorem execDelayReq_keeps {K : State → Prop} (hK : Free [.drones, .out] K) {lane : BitVec 5}
    {reqId : BitVec 32} {t1 : BitVec 64} {s : State} (h0 : K s) {st1 : State}
    (he : execDelayReq lane reqId t1 s = .next st1) : K st1 := by
  unfold execDelayReq at he
  repeat' (split at he)
  all_goals (injection he with he; subst he)
  with_reducible repeat' first
    | assumption | apply delayReqRx_keeps (hK.sub rfl)

theorem droneMeasured_keeps {K : State → Prop}
    (hK : Free [.host, .rows, .slots, .pools, .skeinMem, .hanks, .groups, .bed, .ports, .drones, .clock, .routing, .traffic, .flows, .course, .perf, .blocked, .drops, .out] K)
    {m : Nat} {s : State} (h0 : K s) : K (droneMeasured m s) := by
  unfold droneMeasured
  try dsimp -proj only
  with_reducible repeat' first
    | assumption | apply updDrone_keeps (hK.sub rfl) | apply measured_keeps (hK.sub rfl)
    | apply takeUpstream_keeps (hK.sub rfl) | apply neighbourBack_keeps (hK.sub rfl)
    | apply postEvent_keeps (hK.sub rfl) | apply droneMeasureFails_keeps (hK.sub rfl)
    | (fail_if_no_progress refine Free.mk hK ?_ (Frame.only fun p hp => by
        cases p <;> first
          | exact absurd hp (by with_unfolding_all decide) | exact rfl | exact ⟨rfl, rfl, rfl, rfl, rfl⟩))
    | apply keep_ite | split

theorem delayRespRx_keeps {K : State → Prop}
    (hK : Free [.host, .rows, .slots, .pools, .skeinMem, .hanks, .groups, .bed, .ports, .drones, .clock, .routing, .traffic, .flows, .course, .perf, .blocked, .drops, .out] K)
    {m : Nat} {req : BitVec 32} {t1 : BitVec 64} {t2 : BitVec 64} {t3 : BitVec 64} {s : State} (h0 : K s) :
    K (delayRespRx m req t1 t2 t3 s) := by
  unfold delayRespRx
  try dsimp -proj only
  with_reducible repeat' first
    | assumption | apply updDrone_keeps (hK.sub rfl) | apply droneMeasured_keeps (hK.sub rfl)
    | (fail_if_no_progress refine Free.mk hK ?_ (Frame.only fun p hp => by
        cases p <;> first
          | exact absurd hp (by with_unfolding_all decide) | exact rfl | exact ⟨rfl, rfl, rfl, rfl, rfl⟩))
    | apply keep_ite | split

theorem execDelayResp_keeps {K : State → Prop}
    (hK : Free [.host, .rows, .slots, .pools, .skeinMem, .hanks, .groups, .bed, .ports, .drones, .clock, .routing, .traffic, .flows, .course, .perf, .blocked, .drops, .out] K)
    {lane : BitVec 5} {reqId : BitVec 32} {t1 : BitVec 64} {t2 : BitVec 64} {t3 : BitVec 64} {s : State} (h0 : K s)
    {st1 : State} (he : execDelayResp lane reqId t1 t2 t3 s = .next st1) : K st1 := by
  unfold execDelayResp at he
  repeat' (split at he)
  all_goals (injection he with he; subst he)
  with_reducible repeat' first
    | assumption | apply delayRespRx_keeps (hK.sub rfl)

theorem relockLanes_keeps {K : State → Prop} (hK : Free [.host, .ports, .drones, .blocked, .out] K) {s : State}
    (h0 : K s) : K (relockLanes s) := by
  unfold relockLanes
  with_reducible repeat' first
    | assumption | apply measured_keeps (hK.sub rfl)
    | (fail_if_no_progress refine Free.mk hK ?_ (Frame.only fun p hp => by
        cases p <;> first
          | exact absurd hp (by with_unfolding_all decide) | exact rfl | exact ⟨rfl, rfl, rfl, rfl, rfl⟩))
    | apply keep_ite | split

theorem portsGo_keeps {K : State → Prop} (hK : Free [.ports, .routing] K) {s : State} (h0 : K s) :
    K (portsGo s) := by
  unfold portsGo
  with_reducible repeat' first
    | assumption | apply enterLock_keeps (hK.sub rfl) | intro _ | apply keep_forEach | intro _

theorem refLock_keeps {K : State → Prop}
    (hK : Free [.host, .ports, .drones, .clock, .routing, .perf, .blocked, .out] K) {s : State} (h0 : K s) :
    K (refLock s) := by
  unfold refLock
  try dsimp -proj only
  with_reducible repeat' first
    | assumption | apply portsGo_keeps (hK.sub rfl) | apply relockLanes_keeps (hK.sub rfl)
    | apply timeMoved_keeps (hK.sub rfl) | (fail_if_no_progress refine Free.mk hK ?_ (Frame.only fun p hp => by
        cases p <;> first
          | exact absurd hp (by with_unfolding_all decide) | exact rfl | exact ⟨rfl, rfl, rfl, rfl, rfl⟩))
    | apply keep_ite | split

theorem execRefLock_keeps {K : State → Prop}
    (hK : Free [.host, .ports, .drones, .clock, .routing, .perf, .blocked, .out] K) {s : State} (h0 : K s)
    {st1 : State} (he : execRefLock s = .next st1) : K st1 := by
  unfold execRefLock at he
  repeat' (split at he)
  all_goals (injection he with he; subst he)
  with_reducible repeat' first
    | assumption | apply refLock_keeps (hK.sub rfl)

theorem altLock_keeps {K : State → Prop} (hK : Free [.host, .ports, .drones, .clock, .blocked, .out] K)
    {s : State} (h0 : K s) : K (altLock s) := by
  unfold altLock
  try dsimp -proj only
  with_reducible repeat' first
    | assumption | apply refEvent_keeps (hK.sub rfl) | apply relockLanes_keeps (hK.sub rfl)
    | apply takeUpstream_keeps (hK.sub rfl) | (fail_if_no_progress refine Free.mk hK ?_ (Frame.only fun p hp => by
        cases p <;> first
          | exact absurd hp (by with_unfolding_all decide) | exact rfl | exact ⟨rfl, rfl, rfl, rfl, rfl⟩))
    | apply keep_ite | split

theorem execAltLaneLock_keeps {K : State → Prop} (hK : Free [.host, .ports, .drones, .clock, .blocked, .out] K)
    {s : State} (h0 : K s) {st1 : State} (he : execAltLaneLock s = .next st1) : K st1 := by
  unfold execAltLaneLock at he
  repeat' (split at he)
  all_goals (injection he with he; subst he)
  with_reducible repeat' first
    | assumption | apply altLock_keeps (hK.sub rfl)

theorem holdoverEnd_keeps {K : State → Prop}
    (hK : Free [.host, .pools, .ports, .drones, .clock, .routing, .traffic, .flows, .course, .perf, .blocked, .drops, .out] K)
    {s : State} (h0 : K s) : K (holdoverEnd s) := by
  unfold holdoverEnd
  try dsimp -proj only
  with_reducible repeat' first
    | assumption | apply refEvent_keeps (hK.sub rfl) | apply portWaits_keeps (hK.sub rfl) | intro _
    | apply keep_forEach | intro _ | (fail_if_no_progress refine Free.mk hK ?_ (Frame.only fun p hp => by
        cases p <;> first
          | exact absurd hp (by with_unfolding_all decide) | exact rfl | exact ⟨rfl, rfl, rfl, rfl, rfl⟩))
    | apply keep_ite | split

theorem execHoldoverExpiry_keeps {K : State → Prop}
    (hK : Free [.host, .pools, .ports, .drones, .clock, .routing, .traffic, .flows, .course, .perf, .blocked, .drops, .out] K)
    {s : State} (h0 : K s) {st1 : State} (he : execHoldoverExpiry s = .next st1) : K st1 := by
  unfold execHoldoverExpiry at he
  repeat' (split at he)
  all_goals (injection he with he; subst he)
  with_reducible repeat' first
    | assumption | apply holdoverEnd_keeps (hK.sub rfl)

theorem bridgeLosesLock_keeps {K : State → Prop}
    (hK : Free [.host, .pools, .ports, .drones, .clock, .routing, .traffic, .flows, .course, .perf, .blocked, .drops, .out] K)
    {b : Nat} {s : State} (h0 : K s) : K (bridgeLosesLock b s) := by
  unfold bridgeLosesLock
  with_reducible repeat' first
    | assumption | apply portWaits_keeps (hK.sub rfl) | intro _ | apply keep_forEach | intro _
    | (fail_if_no_progress refine Free.mk hK ?_ (Frame.only fun p hp => by
        cases p <;> first
          | exact absurd hp (by with_unfolding_all decide) | exact rfl | exact ⟨rfl, rfl, rfl, rfl, rfl⟩))
    | apply keep_ite | split

theorem execLossOfLock_keeps {K : State → Prop}
    (hK : Free [.host, .pools, .ports, .drones, .clock, .routing, .traffic, .flows, .course, .perf, .blocked, .drops, .out] K)
    {bridge : BitVec 2} {s : State} (h0 : K s) {st1 : State} (he : execLossOfLock bridge s = .next st1) : K st1 := by
  unfold execLossOfLock at he
  repeat' (split at he)
  all_goals (injection he with he; subst he)
  with_reducible repeat' first
    | assumption | apply bridgeLosesLock_keeps (hK.sub rfl)

theorem tmarkTx_keeps {K : State → Prop} (hK : Free [.drones, .out] K) {m : Nat} {s : State} (h0 : K s) :
    K (tmarkTx m s) := by
  unfold tmarkTx
  try dsimp -proj only
  with_reducible repeat' first
    | assumption | apply droneSend_keeps (hK.sub rfl) | apply keep_ite | split

theorem execTmarkTx_keeps {K : State → Prop} (hK : Free [.drones, .out] K) {lane : BitVec 5} {s : State}
    (h0 : K s) {st1 : State} (he : execTmarkTx lane s = .next st1) : K st1 := by
  unfold execTmarkTx at he
  repeat' (split at he)
  all_goals (injection he with he; subst he)
  with_reducible repeat' first
    | assumption | apply tmarkTx_keeps (hK.sub rfl)

theorem steer_keeps {K : State → Prop} (hK : Free [.host, .ports, .clock, .routing, .perf, .blocked, .out] K)
    {m : Nat} {target : Nat} {s : State} (h0 : K s) : K (steer m target s) := by
  unfold steer
  try dsimp -proj only
  with_reducible repeat' first
    | assumption | apply portsGo_keeps (hK.sub rfl) | apply timeMoved_keeps (hK.sub rfl)
    | apply refEvent_keeps (hK.sub rfl) | (fail_if_no_progress refine Free.mk hK ?_ (Frame.only fun p hp => by
        cases p <;> first
          | exact absurd hp (by with_unfolding_all decide) | exact rfl | exact ⟨rfl, rfl, rfl, rfl, rfl⟩))
    | apply keep_ite | split

theorem checkSkew_keeps {K : State → Prop} (hK : Free [.host, .drones, .blocked, .out] K) {m : Nat}
    {target : Nat} {s : State} (h0 : K s) : K (checkSkew m target s) := by
  unfold checkSkew
  try dsimp -proj only
  with_reducible repeat' first
    | assumption | apply updDrone_keeps (hK.sub rfl) | apply refEvent_keeps (hK.sub rfl)
    | (fail_if_no_progress refine Free.mk hK ?_ (Frame.only fun p hp => by
        cases p <;> first
          | exact absurd hp (by with_unfolding_all decide) | exact rfl | exact ⟨rfl, rfl, rfl, rfl, rfl⟩))
    | apply keep_ite | split

theorem tmarkRx_keeps {K : State → Prop}
    (hK : Free [.host, .ports, .drones, .clock, .routing, .perf, .blocked, .out] K) {m : Nat} {v : BitVec 64}
    {crc : Byte} {s : State} (h0 : K s) : K (tmarkRx m v crc s) := by
  unfold tmarkRx
  try dsimp -proj only
  with_reducible repeat' first
    | assumption | apply steer_keeps (hK.sub rfl) | apply checkSkew_keeps (hK.sub rfl) | apply keep_ite | split

theorem execTmark_keeps {K : State → Prop}
    (hK : Free [.host, .ports, .drones, .clock, .routing, .perf, .blocked, .out] K) {lane : BitVec 5}
    {value : BitVec 64} {crc : Byte} {s : State} (h0 : K s) {st1 : State}
    (he : execTmark lane value crc s = .next st1) : K st1 := by
  unfold execTmark at he
  repeat' (split at he)
  all_goals (injection he with he; subst he)
  with_reducible repeat' first
    | assumption | apply tmarkRx_keeps (hK.sub rfl)

theorem bringUpDrone_keeps {K : State → Prop} (hK : Free [.host, .drones, .routing, .blocked, .out] K)
    {m : Nat} {s : State} (h0 : K s) : K (bringUpDrone m s) := by
  unfold bringUpDrone
  try dsimp -proj only
  with_reducible repeat' first
    | assumption | apply postEvent_keeps (hK.sub rfl) | apply updDrone_keeps (hK.sub rfl)
    | apply droneLock_keeps (hK.sub rfl) | (fail_if_no_progress refine Free.mk hK ?_ (Frame.only fun p hp => by
        cases p <;> first
          | exact absurd hp (by with_unfolding_all decide) | exact rfl | exact ⟨rfl, rfl, rfl, rfl, rfl⟩))
    | apply keep_ite | split

theorem bringUpDrones_keeps {K : State → Prop} (hK : Free [.host, .drones, .routing, .blocked, .out] K)
    {s : State} (h0 : K s) : K (bringUpDrones s) := by
  unfold bringUpDrones
  with_reducible repeat' first
    | assumption | apply bringUpDrone_keeps (hK.sub rfl) | intro _ | apply keep_forEach | intro _

theorem disableDrone_keeps {K : State → Prop}
    (hK : Free [.host, .rows, .slots, .pools, .skeinMem, .hanks, .groups, .bed, .ports, .drones, .clock, .routing, .traffic, .flows, .course, .perf, .blocked, .drops, .out] K)
    {m : Nat} {s : State} (h0 : K s) : K (disableDrone m s) := by
  unfold disableDrone
  try dsimp -proj only
  with_reducible repeat' first
    | assumption | apply upstreamLost_keeps (hK.sub rfl) | apply droneLeaves_keeps (hK.sub rfl)
    | apply updDrone_keeps (hK.sub rfl) | apply checkNeighbour_keeps (hK.sub rfl)
    | (fail_if_no_progress refine Free.mk hK ?_ (Frame.only fun p hp => by
        cases p <;> first
          | exact absurd hp (by with_unfolding_all decide) | exact rfl | exact ⟨rfl, rfl, rfl, rfl, rfl⟩))
    | apply keep_ite | split

theorem loadDrones_keeps {K : State → Prop}
    (hK : Free [.host, .rows, .slots, .pools, .skeinMem, .hanks, .groups, .bed, .ports, .drones, .clock, .routing, .traffic, .flows, .course, .perf, .blocked, .drops, .out] K)
    {es : List (BitVec 192)} {s : State} (h0 : K s) : K (loadDrones es s) := by
  unfold loadDrones
  try dsimp -proj only
  with_reducible repeat' first
    | assumption | apply bringUpDrones_keeps (hK.sub rfl) | apply disableDrone_keeps (hK.sub rfl)
    | apply updDrone_keeps (hK.sub rfl) | intro _ | apply keep_forEach | intro _
    | (fail_if_no_progress refine Free.mk hK ?_ (Frame.only fun p hp => by
        cases p <;> first
          | exact absurd hp (by with_unfolding_all decide) | exact rfl | exact ⟨rfl, rfl, rfl, rfl, rfl⟩))
    | apply keep_ite | split

theorem droneTableLoad_keeps {K : State → Prop}
    (hK : Free [.host, .rows, .slots, .pools, .skeinMem, .hanks, .groups, .bed, .ports, .drones, .clock, .routing, .traffic, .flows, .course, .perf, .blocked, .drops, .out] K)
    {d : Desc} {h : HostRead} {t : Tok} {s : State} (h0 : K s) : K (droneTableLoad d h t s) := by
  unfold droneTableLoad
  try dsimp -proj only
  with_reducible repeat' first
    | assumption | apply bad_keeps (hK.sub rfl) | apply noteRead_keeps (hK.sub rfl) | apply ok_keeps (hK.sub rfl)
    | apply loadDrones_keeps (hK.sub rfl) | apply keep_ite | split

theorem execDroneTableLoad_keeps {K : State → Prop}
    (hK : Free [.host, .rows, .slots, .pools, .skeinMem, .hanks, .groups, .bed, .ports, .drones, .clock, .routing, .traffic, .flows, .course, .perf, .blocked, .drops, .out] K)
    {sq : BitVec 8} {d : Desc} {host : HostRead} {s : State} (h0 : K s) {st1 : State}
    (he : execDroneTableLoad sq d host s = .next st1) : K st1 := by
  unfold execDroneTableLoad at he
  repeat' (split at he)
  all_goals (injection he with he; subst he)
  with_reducible repeat' first
    | assumption | apply droneTableLoad_keeps (hK.sub rfl) | apply bad_keeps (hK.sub rfl) | intro _
    | apply runCommand_keeps (hK.sub rfl) | intro _ | apply keep_ite | split

theorem pegLoad_keeps {K : State → Prop}
    (hK : Free [.host, .pools, .ports, .drones, .clock, .routing, .blocked, .out] K) {d : Desc} {h : HostRead}
    {t : Tok} {s : State} (h0 : K s) : K (pegLoad d h t s) := by
  unfold pegLoad
  try dsimp -proj only
  with_reducible repeat' first
    | assumption | apply bad_keeps (hK.sub rfl) | apply noteRead_keeps (hK.sub rfl) | apply ok_keeps (hK.sub rfl)
    | apply bringUpAll_keeps (hK.sub rfl) | apply bringUpDrones_keeps (hK.sub rfl)
    | (fail_if_no_progress refine Free.mk hK ?_ (Frame.only fun p hp => by
        cases p <;> first
          | exact absurd hp (by with_unfolding_all decide) | exact rfl | exact ⟨rfl, rfl, rfl, rfl, rfl⟩))
    | apply keep_ite | split

theorem execPegLoad_keeps {K : State → Prop}
    (hK : Free [.host, .pools, .ports, .drones, .clock, .routing, .perf, .blocked, .out] K) {sq : BitVec 8}
    {d : Desc} {host : HostRead} {s : State} (h0 : K s) {st1 : State} (he : execPegLoad sq d host s = .next st1) :
    K st1 := by
  unfold execPegLoad at he
  repeat' (split at he)
  all_goals (injection he with he; subst he)
  with_reducible repeat' first
    | assumption | apply pegLoad_keeps (hK.sub rfl) | apply bad_keeps (hK.sub rfl) | intro _
    | apply runCommand_keeps (hK.sub rfl) | intro _ | apply keep_ite | split

theorem restartPort_keeps {K : State → Prop}
    (hK : Free [.host, .pools, .ports, .drones, .routing, .traffic, .flows, .course, .perf, .blocked, .drops, .out] K)
    {p : Nat} {t : Tok} {s : State} (h0 : K s) : K (restartPort p t s) := by
  unfold restartPort
  try dsimp -proj only
  with_reducible repeat' first
    | assumption | apply bad_keeps (hK.sub rfl) | apply startPort_keeps (hK.sub rfl)
    | apply leaveUp_keeps (hK.sub rfl) | apply complete_keeps (hK.sub rfl)
    | apply quarantinePort_keeps (hK.sub rfl) | apply ok_keeps (hK.sub rfl) | apply keep_ite | split

theorem restartDrone_keeps {K : State → Prop}
    (hK : Free [.host, .rows, .slots, .pools, .skeinMem, .hanks, .groups, .bed, .ports, .drones, .clock, .routing, .traffic, .flows, .course, .perf, .blocked, .drops, .out] K)
    {m : Nat} {t : Tok} {s : State} (h0 : K s) : K (restartDrone m t s) := by
  unfold restartDrone
  with_reducible repeat' first
    | assumption | apply bad_keeps (hK.sub rfl) | apply ok_keeps (hK.sub rfl) | apply droneLost_keeps (hK.sub rfl)
    | apply droneLock_keeps (hK.sub rfl) | apply keep_ite | split

theorem portRestart_keeps {K : State → Prop}
    (hK : Free [.host, .rows, .slots, .pools, .skeinMem, .hanks, .groups, .bed, .ports, .drones, .clock, .routing, .traffic, .flows, .course, .perf, .blocked, .drops, .out] K)
    {d : Desc} {t : Tok} {s : State} (h0 : K s) : K (portRestart d t s) := by
  unfold portRestart
  try dsimp -proj only
  with_reducible repeat' first
    | assumption | apply restartPort_keeps (hK.sub rfl) | apply bad_keeps (hK.sub rfl)
    | apply restartDrone_keeps (hK.sub rfl) | apply keep_ite | split

theorem execPortRestart_keeps {K : State → Prop}
    (hK : Free [.host, .rows, .slots, .pools, .skeinMem, .hanks, .groups, .bed, .ports, .drones, .clock, .routing, .traffic, .flows, .course, .perf, .blocked, .drops, .out] K)
    {sq : BitVec 8} {d : Desc} {s : State} (h0 : K s) {st1 : State} (he : execPortRestart sq d s = .next st1) : K
    st1 := by
  unfold execPortRestart at he
  repeat' (split at he)
  all_goals (injection he with he; subst he)
  with_reducible repeat' first
    | assumption | apply portRestart_keeps (hK.sub rfl) | apply bad_keeps (hK.sub rfl) | intro _
    | apply runCommand_keeps (hK.sub rfl) | intro _ | apply keep_ite | split

theorem dwellEnd_keeps {K : State → Prop} (hK : Free [.ports, .drones, .routing] K) {drone : Bool} {i : Nat}
    {s : State} (h0 : K s) : K (dwellEnd drone i s) := by
  unfold dwellEnd
  try dsimp -proj only
  with_reducible repeat' first
    | assumption | apply droneLock_keeps (hK.sub rfl) | apply startPort_keeps (hK.sub rfl) | apply keep_ite | split

theorem execFailedDwellEnd_keeps {K : State → Prop} (hK : Free [.ports, .drones, .routing] K) {drone : Bool}
    {index : BitVec 7} {s : State} (h0 : K s) {st1 : State} (he : execFailedDwellEnd drone index s = .next st1) : K
    st1 := by
  unfold execFailedDwellEnd at he
  repeat' (split at he)
  all_goals (injection he with he; subst he)
  with_reducible repeat' first
    | assumption | apply dwellEnd_keeps (hK.sub rfl)

theorem sendCourse_keeps {K : State → Prop} (hK : Free [.drones, .course, .out] K) {s : State} (h0 : K s) :
    K (sendCourse s) := by
  unfold sendCourse
  with_reducible repeat' first
    | assumption | apply toPartner_keeps (hK.sub rfl)
    | (fail_if_no_progress refine Free.mk hK ?_ (Frame.only fun p hp => by
        cases p <;> first
          | exact absurd hp (by with_unfolding_all decide) | exact rfl | exact ⟨rfl, rfl, rfl, rfl, rfl⟩))

theorem setupDone_keeps {K : State → Prop} (hK : Free [.host, .course, .blocked, .out] K) {status : Nat}
    {s : State} (h0 : K s) : K (setupDone status s) := by
  unfold setupDone
  with_reducible repeat' first
    | assumption | apply complete_keeps (hK.sub rfl)
    | (fail_if_no_progress refine Free.mk hK ?_ (Frame.only fun p hp => by
        cases p <;> first
          | exact absurd hp (by with_unfolding_all decide) | exact rfl | exact ⟨rfl, rfl, rfl, rfl, rfl⟩)) | split

theorem decideCourse_keeps {K : State → Prop} (hK : Free [.host, .course, .blocked, .out] K) {s : State}
    (h0 : K s) : K (decideCourse s) := by
  unfold decideCourse
  with_reducible repeat' first
    | assumption | apply setupDone_keeps (hK.sub rfl) | apply postEvent_keeps (hK.sub rfl)
    | (fail_if_no_progress refine Free.mk hK ?_ (Frame.only fun p hp => by
        cases p <;> first
          | exact absurd hp (by with_unfolding_all decide) | exact rfl | exact ⟨rfl, rfl, rfl, rfl, rfl⟩))
    | apply keep_ite | split

theorem courseSetup_keeps {K : State → Prop} (hK : Free [.host, .drones, .course, .blocked, .out] K) {t : Tok}
    {s : State} (h0 : K s) : K (courseSetup t s) := by
  unfold courseSetup
  try dsimp -proj only
  with_reducible repeat' first
    | assumption | apply bad_keeps (hK.sub rfl) | apply decideCourse_keeps (hK.sub rfl)
    | apply sendCourse_keeps (hK.sub rfl) | (fail_if_no_progress refine Free.mk hK ?_ (Frame.only fun p hp => by
        cases p <;> first
          | exact absurd hp (by with_unfolding_all decide) | exact rfl | exact ⟨rfl, rfl, rfl, rfl, rfl⟩))
    | apply keep_ite | split

theorem execCourseSetup_keeps {K : State → Prop} (hK : Free [.host, .drones, .course, .perf, .blocked, .out] K)
    {sq : BitVec 8} {d : Desc} {s : State} (h0 : K s) {st1 : State} (he : execCourseSetup sq d s = .next st1) : K
    st1 := by
  unfold execCourseSetup at he
  repeat' (split at he)
  all_goals (injection he with he; subst he)
  with_reducible repeat' first
    | assumption | apply courseSetup_keeps (hK.sub rfl) | apply bad_keeps (hK.sub rfl) | intro _
    | apply runCommand_keeps (hK.sub rfl) | intro _ | apply keep_ite | split

theorem courseRepeat_keeps {K : State → Prop} (hK : Free [.drones, .course, .out] K) {s : State} (h0 : K s) :
    K (courseRepeat s) := by
  unfold courseRepeat
  try dsimp -proj only
  with_reducible repeat' first
    | assumption | apply sendCourse_keeps (hK.sub rfl) | apply keep_ite | split

theorem execCourseRepeat_keeps {K : State → Prop} (hK : Free [.drones, .course, .out] K) {s : State} (h0 : K s)
    {st1 : State} (he : execCourseRepeat s = .next st1) : K st1 := by
  unfold execCourseRepeat at he
  repeat' (split at he)
  all_goals (injection he with he; subst he)
  with_reducible repeat' first
    | assumption | apply courseRepeat_keeps (hK.sub rfl)

theorem hearCourse_keeps {K : State → Prop}
    (hK : Free [.host, .rows, .slots, .pools, .skeinMem, .hanks, .groups, .bed, .ports, .drones, .clock, .routing, .traffic, .flows, .course, .perf, .blocked, .drops, .out] K)
    {lane : Nat} {b : BitVec 192} {s : State} (h0 : K s) : K (hearCourse lane b s) := by
  unfold hearCourse
  try dsimp -proj only
  with_reducible repeat' first
    | assumption | apply quarantineLane_keeps (hK.sub rfl) | apply decideCourse_keeps (hK.sub rfl)
    | (fail_if_no_progress refine Free.mk hK ?_ (Frame.only fun p hp => by
        cases p <;> first
          | exact absurd hp (by with_unfolding_all decide) | exact rfl | exact ⟨rfl, rfl, rfl, rfl, rfl⟩))
    | apply keep_ite | split

theorem execCourse_keeps {K : State → Prop}
    (hK : Free [.host, .rows, .slots, .pools, .skeinMem, .hanks, .groups, .bed, .ports, .drones, .clock, .routing, .traffic, .flows, .course, .perf, .blocked, .drops, .out] K)
    {lane : BitVec 5} {body : BitVec 192} {s : State} (h0 : K s) {st1 : State}
    (he : execCourse lane body s = .next st1) : K st1 := by
  unfold execCourse at he
  repeat' (split at he)
  all_goals (injection he with he; subst he)
  with_reducible repeat' first
    | assumption | apply hearPartner_keeps (hK.sub rfl) | apply hearCourse_keeps (hK.sub rfl) | intro _

theorem clearLow_keeps {K : State → Prop} (hK : Free [.host, .ports, .drones, .clock] K) {off : Nat}
    {s : State} (h0 : K s) : K (clearLow off s) := by
  unfold clearLow
  with_reducible repeat' first
    | assumption | apply updPort_keeps (hK.sub rfl) | apply updDrone_keeps (hK.sub rfl)
    | (fail_if_no_progress refine Free.mk hK ?_ (Frame.only fun p hp => by
        cases p <;> first
          | exact absurd hp (by with_unfolding_all decide) | exact rfl | exact ⟨rfl, rfl, rfl, rfl, rfl⟩))
    | apply keep_ite | split

theorem clearHigh_keeps {K : State → Prop} (hK : Free [.perf, .blocked, .power] K) {off : Nat} {s : State}
    (h0 : K s) : K (clearHigh off s) := by
  unfold clearHigh
  with_reducible repeat' first
    | assumption | (fail_if_no_progress refine Free.mk hK ?_ (Frame.only fun p hp => by
        cases p <;> first
          | exact absurd hp (by with_unfolding_all decide) | exact rfl | exact ⟨rfl, rfl, rfl, rfl, rfl⟩)) | split

theorem writeHostCtrl_keeps {K : State → Prop}
    (hK : Free [.flash, .host, .rows, .slots, .pools, .skeinMem, .hanks, .groups, .bed, .ports, .drones, .clock, .routing, .traffic, .flows, .course, .perf, .slotCounts, .boot, .blocked, .power, .drops, .out] K)
    {v : Nat} {s : State} (h0 : K s) : K (writeHostCtrl v s) := by
  unfold writeHostCtrl
  with_reducible repeat' first
    | assumption | apply poweredReset_keeps (hK.sub rfl) | apply hostInterfaceReset_keeps (hK.sub rfl)
    | apply setRingsEn_keeps (hK.sub rfl) | apply keep_ite | split

theorem writeCarve_keeps {K : State → Prop} (hK : Free [.pools] K) {n : Nat} {v : Nat} {s : State} (h0 : K s) :
    K (writeCarve n v s) := by
  unfold writeCarve
  with_reducible repeat' first
    | assumption | (fail_if_no_progress refine Free.mk hK ?_ (Frame.only fun p hp => by
        cases p <;> first
          | exact absurd hp (by with_unfolding_all decide) | exact rfl | exact ⟨rfl, rfl, rfl, rfl, rfl⟩))
    | apply keep_ite | split

theorem writeFabricId_keeps {K : State → Prop}
    (hK : Free [.host, .pools, .ports, .clock, .routing, .blocked, .out] K) {v : Nat} {s : State} (h0 : K s) :
    K (writeFabricId v s) := by
  unfold writeFabricId
  with_reducible repeat' first
    | assumption | apply bringUpAll_keeps (hK.sub rfl)
    | (fail_if_no_progress refine Free.mk hK ?_ (Frame.only fun p hp => by
        cases p <;> first
          | exact absurd hp (by with_unfolding_all decide) | exact rfl | exact ⟨rfl, rfl, rfl, rfl, rfl⟩))
    | apply keep_ite | split

theorem writeRefCtrl_keeps {K : State → Prop} (hK : Free [.clock] K) {v : Nat} {s : State} (h0 : K s) :
    K (writeRefCtrl v s) := by
  unfold writeRefCtrl
  with_reducible repeat' first
    | assumption | (fail_if_no_progress refine Free.mk hK ?_ (Frame.only fun p hp => by
        cases p <;> first
          | exact absurd hp (by with_unfolding_all decide) | exact rfl | exact ⟨rfl, rfl, rfl, rfl, rfl⟩))
    | apply keep_ite | split

theorem writeCourseCfg_keeps {K : State → Prop} (hK : Free [.course] K) {v : Nat} {s : State} (h0 : K s) :
    K (writeCourseCfg v s) := by
  unfold writeCourseCfg
  with_reducible repeat' first
    | assumption | (fail_if_no_progress refine Free.mk hK ?_ (Frame.only fun p hp => by
        cases p <;> first
          | exact absurd hp (by with_unfolding_all decide) | exact rfl | exact ⟨rfl, rfl, rfl, rfl, rfl⟩))
    | apply keep_ite | split

theorem writePwrCfg_keeps {K : State → Prop} (hK : Free [.power] K) {v : Nat} {s : State} (h0 : K s) :
    K (writePwrCfg v s) := by
  unfold writePwrCfg
  try dsimp -proj only
  with_reducible repeat' first
    | assumption | (fail_if_no_progress refine Free.mk hK ?_ (Frame.only fun p hp => by
        cases p <;> first
          | exact absurd hp (by with_unfolding_all decide) | exact rfl | exact ⟨rfl, rfl, rfl, rfl, rfl⟩))
    | apply keep_ite | split

theorem writeWord_keeps {K : State → Prop} (hK : Free [.host, .boot, .out] K) {off : Nat} {v : Nat} {s : State}
    (h0 : K s) : K (writeWord off v s) := by
  unfold writeWord
  try dsimp -proj only
  with_reducible repeat' first
    | assumption | apply maskVector_keeps (hK.sub rfl)
    | (fail_if_no_progress refine Free.mk hK ?_ (Frame.only fun p hp => by
        cases p <;> first
          | exact absurd hp (by with_unfolding_all decide) | exact rfl | exact ⟨rfl, rfl, rfl, rfl, rfl⟩))
    | apply keep_ite | split

theorem writeNarrow_keeps {K : State → Prop}
    (hK : Free [.flash, .host, .rows, .slots, .pools, .skeinMem, .hanks, .groups, .bed, .ports, .drones, .clock, .routing, .traffic, .flows, .course, .perf, .slotCounts, .boot, .blocked, .power, .drops, .out] K)
    {off : Nat} {v : Nat} {s : State} (h0 : K s) : K (writeNarrow off v s) := by
  unfold writeNarrow
  with_reducible repeat' first
    | assumption | apply writeWord_keeps (hK.sub rfl) | apply writeHostCtrl_keeps (hK.sub rfl)
    | apply writeFabricId_keeps (hK.sub rfl) | apply writeRefCtrl_keeps (hK.sub rfl)
    | apply writeCourseCfg_keeps (hK.sub rfl) | apply writeSampleCtrl_keeps (hK.sub rfl)
    | apply attest_keeps (hK.sub rfl) | apply writePwrCfg_keeps (hK.sub rfl) | apply writeCarve_keeps (hK.sub rfl)
    | apply writeSqCtrl_keeps (hK.sub rfl) | (fail_if_no_progress refine Free.mk hK ?_ (Frame.only fun p hp => by
        cases p <;> first
          | exact absurd hp (by with_unfolding_all decide) | exact rfl | exact ⟨rfl, rfl, rfl, rfl, rfl⟩))
    | apply keep_ite | split

theorem writeWide_keeps {K : State → Prop} (hK : Free [.flash, .host, .clock, .perf, .boot, .blocked, .out] K)
    {off : Nat} {v : Nat} {s : State} (h0 : K s) : K (writeWide off v s) := by
  unfold writeWide
  with_reducible repeat' first
    | assumption | apply writeDumpCtrl_keeps (hK.sub rfl) | apply fwUpdate_keeps (hK.sub rfl)
    | apply writeSelector_keeps (hK.sub rfl) | apply updSq_keeps (hK.sub rfl) | apply updCq_keeps (hK.sub rfl)
    | apply writeCqCtrl_keeps (hK.sub rfl) | (fail_if_no_progress refine Free.mk hK ?_ (Frame.only fun p hp => by
        cases p <;> first
          | exact absurd hp (by with_unfolding_all decide) | exact rfl | exact ⟨rfl, rfl, rfl, rfl, rfl⟩))
    | apply keep_ite | split

theorem answer_keeps {K : State → Prop} (hK : Free [.out] K) {off : Nat} {v : Nat} {s : State} (h0 : K s) :
    K (answer off v s) := by
  unfold answer
  with_reducible repeat' first
    | assumption | (fail_if_no_progress refine Free.mk hK ?_ (Frame.only fun p hp => by
        cases p <;> first
          | exact absurd hp (by with_unfolding_all decide) | exact rfl | exact ⟨rfl, rfl, rfl, rfl, rfl⟩))

theorem write32_keeps {K : State → Prop}
    (hK : Free [.flash, .host, .rows, .slots, .pools, .skeinMem, .hanks, .groups, .bed, .ports, .drones, .clock, .routing, .traffic, .flows, .course, .perf, .slotCounts, .boot, .blocked, .power, .drops, .out] K)
    {off : Nat} {v : Nat} {s : State} (h0 : K s) : K (write32 off v s) := by
  unfold write32
  try dsimp -proj only
  with_reducible repeat' first
    | assumption | apply writeNarrow_keeps (hK.sub rfl) | apply writeWide_keeps (hK.sub rfl)
    | (fail_if_no_progress refine Free.mk hK ?_ (Frame.only fun p hp => by
        cases p <;> first
          | exact absurd hp (by with_unfolding_all decide) | exact rfl | exact ⟨rfl, rfl, rfl, rfl, rfl⟩))
    | apply keep_ite | split

theorem read32_keeps {K : State → Prop}
    (hK : Free [.host, .ports, .drones, .clock, .perf, .blocked, .power, .out] K) {off : Nat} {s : State}
    (h0 : K s) : K (read32 off s) := by
  unfold read32
  try dsimp -proj only
  with_reducible repeat' first
    | assumption | apply answer_keeps (hK.sub rfl) | apply clearLow_keeps (hK.sub rfl)
    | apply clearHigh_keeps (hK.sub rfl) | (fail_if_no_progress refine Free.mk hK ?_ (Frame.only fun p hp => by
        cases p <;> first
          | exact absurd hp (by with_unfolding_all decide) | exact rfl | exact ⟨rfl, rfl, rfl, rfl, rfl⟩))
    | apply keep_ite | split

theorem write64_keeps {K : State → Prop}
    (hK : Free [.flash, .host, .rows, .slots, .pools, .skeinMem, .hanks, .groups, .bed, .ports, .drones, .clock, .routing, .traffic, .flows, .course, .perf, .slotCounts, .boot, .blocked, .power, .drops, .out] K)
    {off : Nat} {v : Nat} {s : State} (h0 : K s) : K (write64 off v s) := by
  unfold write64
  with_reducible repeat' first
    | assumption | apply writeWide_keeps (hK.sub rfl) | apply write32_keeps (hK.sub rfl) | apply keep_ite | split

theorem read64_keeps {K : State → Prop}
    (hK : Free [.host, .ports, .drones, .clock, .perf, .blocked, .power, .out] K) {off : Nat} {s : State}
    (h0 : K s) : K (read64 off s) := by
  unfold read64
  try dsimp -proj only
  with_reducible repeat' first
    | assumption | apply answer_keeps (hK.sub rfl) | apply clearHigh_keeps (hK.sub rfl)
    | apply clearLow_keeps (hK.sub rfl) | apply keep_ite | split

theorem writeBar_keeps {K : State → Prop}
    (hK : Free [.flash, .host, .rows, .slots, .pools, .skeinMem, .hanks, .groups, .bed, .ports, .drones, .clock, .routing, .traffic, .flows, .course, .perf, .slotCounts, .boot, .blocked, .power, .drops, .out] K)
    {a : BarAddr} {w : AccessWidth} {v : Nat} {s : State} (h0 : K s) : K (writeBar a w v s) := by
  unfold writeBar
  with_reducible repeat' first
    | assumption | apply write32_keeps (hK.sub rfl) | apply write64_keeps (hK.sub rfl)
    | apply doorbell_keeps (hK.sub rfl) | split

theorem readBar_keeps {K : State → Prop}
    (hK : Free [.host, .ports, .drones, .clock, .perf, .blocked, .power, .out] K) {a : BarRead} {s : State}
    (h0 : K s) : K (readBar a s) := by
  unfold readBar
  with_reducible repeat' first
    | assumption | apply read32_keeps (hK.sub rfl) | apply read64_keeps (hK.sub rfl)
    | apply answer_keeps (hK.sub rfl) | split

theorem execRegisterWrite_keeps {K : State → Prop}
    (hK : Free [.flash, .host, .rows, .slots, .pools, .skeinMem, .hanks, .groups, .bed, .ports, .drones, .clock, .routing, .traffic, .flows, .course, .perf, .slotCounts, .boot, .blocked, .power, .drops, .out] K)
    {offset : BarAddr} {width : AccessWidth} {value : BitVec 64} {s : State} (h0 : K s) {st1 : State}
    (he : execRegisterWrite offset width value s = .next st1) : K st1 := by
  unfold execRegisterWrite at he
  repeat' (split at he)
  all_goals (injection he with he; subst he)
  with_reducible repeat' first
    | assumption | apply hostAccess_keeps (hK.sub rfl) | apply writeBar_keeps (hK.sub rfl) | intro _

theorem execRegisterReadClear_keeps {K : State → Prop}
    (hK : Free [.host, .ports, .drones, .clock, .perf, .blocked, .power, .out] K) {access : BarRead} {s : State}
    (h0 : K s) {st1 : State} (he : execRegisterReadClear access s = .next st1) : K st1 := by
  unfold execRegisterReadClear at he
  repeat' (split at he)
  all_goals (injection he with he; subst he)
  with_reducible repeat' first
    | assumption | apply hostAccess_keeps (hK.sub rfl) | apply readBar_keeps (hK.sub rfl) | intro _

theorem execRegisterHalfAccess_keeps {K : State → Prop}
    (hK : Free [.flash, .host, .rows, .slots, .pools, .skeinMem, .hanks, .groups, .bed, .ports, .drones, .clock, .routing, .traffic, .flows, .course, .perf, .slotCounts, .boot, .blocked, .power, .drops, .out] K)
    {offset : BitVec 26} {write : Bool} {value : BitVec 32} {s : State} (h0 : K s) {st1 : State}
    (he : execRegisterHalfAccess offset write value s = .next st1) : K st1 := by
  unfold execRegisterHalfAccess at he
  repeat' (split at he)
  all_goals (injection he with he; subst he)
  with_reducible repeat' first
    | assumption | apply hostAccess_keeps (hK.sub rfl) | apply write32_keeps (hK.sub rfl)
    | apply read32_keeps (hK.sub rfl) | intro _ | apply keep_ite | split

theorem discardBad_keeps {K : State → Prop}
    (hK : Free [.host, .pools, .ports, .routing, .perf, .blocked, .drops, .out] K) {port : Nat} {x : QPkt}
    {s : State} (h0 : K s) : K (discardBad port x s) := by
  unfold discardBad
  with_reducible repeat' first
    | assumption | apply releaseBuf_keeps (hK.sub rfl) | apply countBad_keeps (hK.sub rfl)
    | apply drop_keeps (hK.sub rfl) | apply count_keeps (hK.sub rfl) | apply keep_ite | split

theorem discardOwn_keeps {K : State → Prop}
    (hK : Free [.host, .pools, .ports, .routing, .perf, .blocked, .drops, .out] K) {ps : List Packet} {s : State}
    (h0 : K s) : K (discardOwn ps s) := by
  unfold discardOwn
  with_reducible repeat' first
    | assumption | apply discardBad_keeps (hK.sub rfl) | intro _ | apply keep_forEach | intro _

theorem discardQueued_keeps {K : State → Prop}
    (hK : Free [.host, .pools, .ports, .routing, .perf, .blocked, .drops, .out] K) {port : Nat} {sub : Nat}
    {x : QPkt} {s : State} (h0 : K s) : K (discardQueued port sub x s) := by
  unfold discardQueued
  with_reducible repeat' first
    | assumption | apply releaseRx_keeps (hK.sub rfl) | apply discardBad_keeps (hK.sub rfl)
    | apply updQueue_keeps (hK.sub rfl)

theorem discardInbox_keeps {K : State → Prop}
    (hK : Free [.host, .pools, .ports, .routing, .perf, .blocked, .drops, .out] K) {x : QPkt} {s : State}
    (h0 : K s) : K (discardInbox x s) := by
  unfold discardInbox
  with_reducible repeat' first
    | assumption | apply discardBad_keeps (hK.sub rfl)
    | (fail_if_no_progress refine Free.mk hK ?_ (Frame.only fun p hp => by
        cases p <;> first
          | exact absurd hp (by with_unfolding_all decide) | exact rfl | exact ⟨rfl, rfl, rfl, rfl, rfl⟩))

theorem dropWaiting_keeps {K : State → Prop}
    (hK : Free [.host, .pools, .groups, .bed, .ports, .routing, .traffic, .perf, .blocked, .drops, .out] K)
    {gid : Nat} {k : Nat × Option Nat} {op : Op} {c : Nat} {s : State} (h0 : K s) : K (dropWaiting gid k op c s) := by
  unfold dropWaiting
  try dsimp -proj only
  with_reducible repeat' first
    | assumption | apply count_keeps (hK.sub rfl) | apply failApply_keeps (hK.sub rfl)
    | (fail_if_no_progress refine Free.mk hK ?_ (Frame.only fun p hp => by
        cases p <;> first
          | exact absurd hp (by with_unfolding_all decide) | exact rfl | exact ⟨rfl, rfl, rfl, rfl, rfl⟩)) | split

theorem poisonCtx_keeps {K : State → Prop}
    (hK : Free [.host, .rows, .slots, .pools, .skeinMem, .hanks, .groups, .bed, .ports, .routing, .traffic, .flows, .course, .perf, .blocked, .drops, .out] K)
    {gid : Nat} {k : Nat × Option Nat} {c : Ctx} {s : State} (h0 : K s) : K (poisonCtx gid k c s) := by
  unfold poisonCtx
  with_reducible repeat' first
    | assumption | apply dropRunning_keeps (hK.sub rfl) | apply dropWaiting_keeps (hK.sub rfl)
    | apply takeAbort_keeps (hK.sub rfl) | apply count_keeps (hK.sub rfl) | apply keep_ite | split

theorem poisonMap_keeps {K : State → Prop}
    (hK : Free [.host, .rows, .slots, .pools, .skeinMem, .hanks, .groups, .bed, .ports, .routing, .traffic, .flows, .course, .perf, .blocked, .drops, .out] K)
    {gid : Nat} {x : Stitch} {b : Nat} {s : State} (h0 : K s) : K (poisonMap gid x b s) := by
  unfold poisonMap
  try dsimp -proj only
  with_reducible repeat' first
    | assumption | apply dropRunning_keeps (hK.sub rfl) | apply releaseHolder_keeps (hK.sub rfl)
    | apply count_keeps (hK.sub rfl) | apply failApply_keeps (hK.sub rfl)
    | (fail_if_no_progress refine Free.mk hK ?_ (Frame.only fun p hp => by
        cases p <;> first
          | exact absurd hp (by with_unfolding_all decide) | exact rfl | exact ⟨rfl, rfl, rfl, rfl, rfl⟩)) | split

theorem poisonPart_keeps {K : State → Prop}
    (hK : Free [.host, .pools, .groups, .perf, .blocked, .drops, .out] K) {gid : Nat} {k : Nat × Option Nat}
    {x : PartBuf} {b : Nat} {s : State} (h0 : K s) : K (poisonPart gid k x b s) := by
  unfold poisonPart
  try dsimp -proj only
  with_reducible repeat' first
    | assumption | apply drop_keeps (hK.sub rfl) | apply count_keeps (hK.sub rfl)
    | apply releaseHolder_keeps (hK.sub rfl) | apply updInst_keeps (hK.sub rfl) | intro _ | apply keep_forEach
    | intro _ | (fail_if_no_progress refine Free.mk hK ?_ (Frame.only fun p hp => by
        cases p <;> first
          | exact absurd hp (by with_unfolding_all decide) | exact rfl | exact ⟨rfl, rfl, rfl, rfl, rfl⟩))

theorem poisonTransfer_keeps {K : State → Prop}
    (hK : Free [.host, .pools, .groups, .ports, .routing, .perf, .blocked, .drops, .out] K) {gid : Nat}
    {t : Transfer} {s : State} (h0 : K s) : K (poisonTransfer gid t s) := by
  unfold poisonTransfer
  try dsimp -proj only
  with_reducible repeat' first
    | assumption | apply discardQueued_keeps (hK.sub rfl) | apply updGroup_keeps (hK.sub rfl) | intro _
    | apply keep_forEach | intro _ | (fail_if_no_progress refine Free.mk hK ?_ (Frame.only fun p hp => by
        cases p <;> first
          | exact absurd hp (by with_unfolding_all decide) | exact rfl | exact ⟨rfl, rfl, rfl, rfl, rfl⟩))
    | apply keep_ite | split

theorem poisonBuffer_keeps {K : State → Prop}
    (hK : Free [.host, .rows, .slots, .pools, .skeinMem, .hanks, .groups, .bed, .ports, .routing, .traffic, .flows, .course, .perf, .blocked, .drops, .out] K)
    {g : Group} {b : Nat} {s : State} (h0 : K s) : K (poisonBuffer g b s) := by
  unfold poisonBuffer
  try dsimp -proj only
  with_reducible repeat' first
    | assumption | apply poisonCtx_keeps (hK.sub rfl) | apply poisonMap_keeps (hK.sub rfl)
    | apply poisonPart_keeps (hK.sub rfl) | apply discardOwn_keeps (hK.sub rfl) | apply updGroup_keeps (hK.sub rfl)
    | apply poisonTransfer_keeps (hK.sub rfl) | apply trimHeld_keeps (hK.sub rfl)
    | apply settled_keeps (hK.sub rfl) | intro _ | (unfold id; assumption) | apply keep_forEach | intro _
    | (fail_if_no_progress refine Free.mk hK ?_ (Frame.only fun p hp => by
        cases p <;> first
          | exact absurd hp (by with_unfolding_all decide) | exact rfl | exact ⟨rfl, rfl, rfl, rfl, rfl⟩))

theorem poisonCell_keeps {K : State → Prop}
    (hK : Free [.host, .rows, .slots, .pools, .skeinMem, .hanks, .groups, .bed, .ports, .routing, .traffic, .flows, .course, .perf, .blocked, .drops, .out] K)
    {cell : Nat × Nat} {s : State} (h0 : K s) : K (poisonCell cell s) := by
  unfold poisonCell
  try dsimp -proj only
  with_reducible repeat' first
    | assumption | apply discardQueued_keeps (hK.sub rfl) | apply discardInbox_keeps (hK.sub rfl)
    | apply loseSample_keeps (hK.sub rfl) | apply freeCell_keeps (hK.sub rfl)
    | apply poisonBuffer_keeps (hK.sub rfl) | intro _ | apply keep_forEach | intro _
    | (fail_if_no_progress refine Free.mk hK ?_ (Frame.only fun p hp => by
        cases p <;> first
          | exact absurd hp (by with_unfolding_all decide) | exact rfl | exact ⟨rfl, rfl, rfl, rfl, rfl⟩)) | split

theorem strike_keeps {K : State → Prop}
    (hK : Free [.host, .rows, .slots, .pools, .skeinMem, .hanks, .groups, .bed, .ports, .routing, .traffic, .flows, .course, .perf, .blocked, .drops, .out] K)
    {f : DataFault} {s : State} (h0 : K s) : K (strike f s) := by
  unfold strike
  with_reducible repeat' first
    | assumption | apply poisonCell_keeps (hK.sub rfl) | apply discardQueued_keeps (hK.sub rfl)
    | apply discardInbox_keeps (hK.sub rfl) | apply dropRunning_keeps (hK.sub rfl) | split

theorem foldl_countIn_slots (e : Nat → PEv) : ∀ (l : List Nat) (p : Perf),
    let q := l.foldl (fun p h => countIn (e h) 1 p) p
    q.retired = p.retired ∧ q.wasted = p.wasted ∧ q.front = p.front ∧ q.back = p.back ∧ q.handshakes = p.handshakes
  | [], _ => ⟨rfl, rfl, rfl, rfl, rfl⟩
  | h :: l, p => foldl_countIn_slots e l (countIn (e h) 1 p)

theorem correctErrors_keeps {K : State → Prop} (hK : Free [.course, .perf] K) {hanks : List Nat} {s : State} (h0 : K s) :
    K (correctErrors hanks s) := by
  unfold correctErrors
  refine Free.mk hK h0 (Frame.only fun p hp => ?_)
  cases p <;> first
    | exact absurd hp (by with_unfolding_all decide) | exact rfl
    | exact foldl_countIn_slots (fun h => { code := 0x22, hank := some h }) hanks s.perf

theorem correctWords_keeps {K : State → Prop} (hK : Free [.course, .perf] K) {n : Nat} {s : State} (h0 : K s) :
    K (correctWords n s) := by
  unfold correctWords
  with_reducible repeat' first
    | assumption | (fail_if_no_progress refine Free.mk hK ?_ (Frame.only fun p hp => by
        cases p <;> first
          | exact absurd hp (by with_unfolding_all decide) | exact rfl | exact ⟨rfl, rfl, rfl, rfl, rfl⟩))

theorem tickErrors_keeps {K : State → Prop}
    (hK : Free [.host, .rows, .slots, .pools, .skeinMem, .hanks, .groups, .bed, .ports, .routing, .traffic, .flows, .course, .perf, .blocked, .drops, .out] K)
    {s : State} (h0 : K s) : K (tickErrors s) := by
  unfold tickErrors
  try dsimp -proj only
  with_reducible repeat' first
    | assumption | apply strike_keeps (hK.sub rfl) | apply correctWords_keeps (hK.sub rfl)
    | apply correctErrors_keeps (hK.sub rfl) | intro _ | apply keep_forEach | intro _ | apply keep_ite | split

theorem serveWatchdog_keeps {K : State → Prop} (hK : Free [.boot] K) {s : State} (h0 : K s) :
    K (serveWatchdog s) := by
  unfold serveWatchdog
  try dsimp -proj only
  with_reducible repeat' first
    | assumption | (fail_if_no_progress refine Free.mk hK ?_ (Frame.only fun p hp => by
        cases p <;> first
          | exact absurd hp (by with_unfolding_all decide) | exact rfl | exact ⟨rfl, rfl, rfl, rfl, rfl⟩))
    | apply keep_ite | split

theorem tick_keeps {K : State → Prop}
    (hK : Free [.flash, .host, .rows, .slots, .pools, .skeinMem, .hanks, .groups, .bed, .ports, .drones, .clock, .routing, .traffic, .flows, .course, .perf, .slotCounts, .boot, .blocked, .power, .drops, .out] K)
    {s : State} (h0 : K s) : K (tick s) := by
  unfold tick
  try dsimp -proj only
  with_reducible repeat' first
    | assumption | apply resendLeaving_keeps (hK.sub rfl) | apply signStep_keeps (hK.sub rfl)
    | apply attestStep_keeps (hK.sub rfl) | apply stageStep_keeps (hK.sub rfl)
    | apply serveWatchdog_keeps (hK.sub rfl) | apply driveLines_keeps (hK.sub rfl)
    | apply testHeads_keeps (hK.sub rfl) | apply tickHandshakes_keeps (hK.sub rfl)
    | apply tickRails_keeps (hK.sub rfl) | apply tickRate_keeps (hK.sub rfl) | apply tickErrors_keeps (hK.sub rfl)
    | apply takeRecord_keeps (hK.sub rfl) | apply applySelectors_keeps (hK.sub rfl) | intro _
    | (unfold id; assumption) | apply keep_forEach | intro _
    | (fail_if_no_progress refine Free.mk hK ?_ (Frame.only fun p hp => by
        cases p <;> first
          | exact absurd hp (by with_unfolding_all decide) | exact rfl | exact ⟨rfl, rfl, rfl, rfl, rfl⟩))
    | apply keep_ite | split

end Sys2Proof.Machine
end

