-- ==== Sys2Proof/Laws/Tables.lean ====
section
/-!
SUPPORT. Laws of the sparse tables: a read after a write gives the value written, a write leaves every other key alone, and
every operation keeps the canonical form (keys rising, no entry that reads as an unlisted one).
-/
namespace Sys2Proof.Machine

variable {α : Type}

theorem tget_nil (d : α) (k : Nat) : tget d [] k = d := rfl

theorem tget_cons (d : α) (q : Nat × α) (t : Table α) (k : Nat) :
    tget d (q :: t) k = if q.1 = k then q.2 else tget d t k := rfl

theorem tget_tdel (d : α) (t : Table α) (k j : Nat) :
    tget d (tdel t k) j = if j = k then d else tget d t j := by
  induction t with
  | nil => simp [tdel, tget]
  | cons q t ih =>
    obtain ⟨i, v⟩ := q
    by_cases hik : i = k
    · subst hik
      simp only [tdel, if_true, ih, tget]
      by_cases hj : j = i
      · simp [hj]
      · simp [hj, Ne.symm hj]
    · simp only [tdel, hik, if_false, tget, ih]
      by_cases hj : j = k
      · subst hj; simp [hik]
      · simp [hj]

theorem tget_tins_other (d : α) (t : Table α) (k j : Nat) (v : α) (h : j ≠ k) :
    tget d (tins k v t) j = tget d t j := by
  induction t with
  | nil => simp [tins, tget, Ne.symm h]
  | cons q t ih =>
    obtain ⟨i, w⟩ := q
    by_cases hki : k < i
    · simp [tins, hki, tget, Ne.symm h]
    · simp [tins, hki, tget, ih]

theorem tget_tins_tdel (d : α) (t : Table α) (k : Nat) (v : α) : tget d (tins k v (tdel t k)) k = v := by
  induction t with
  | nil => simp [tdel, tins, tget]
  | cons q t ih =>
    obtain ⟨i, w⟩ := q
    by_cases hik : i = k
    · simp [tdel, hik, ih]
    · by_cases hki : k < i
      · simp [tdel, hik, tins, hki, tget]
      · simp [tdel, hik, tins, hki, tget, ih]

theorem tget_tset [DecidableEq α] (d : α) (t : Table α) (k j : Nat) (v : α) :
    tget d (tset d t k v) j = if j = k then v else tget d t j := by
  unfold tset
  split
  · rename_i hv
    rw [tget_tdel, hv]
  · by_cases hj : j = k
    · subst hj; simp [tget_tins_tdel]
    · simp [hj, tget_tins_other, tget_tdel]

@[simp] theorem tget_tset_self [DecidableEq α] (d : α) (t : Table α) (k : Nat) (v : α) :
    tget d (tset d t k v) k = v := by simp [tget_tset]

theorem tget_tset_other [DecidableEq α] (d : α) (t : Table α) (k j : Nat) (v : α) (h : j ≠ k) :
    tget d (tset d t k v) j = tget d t j := by simp [tget_tset, h]

/-- A lookup with a default of its own, at another key. -/
theorem tget_tset_any [DecidableEq α] (d e : α) (t : Table α) (k j : Nat) (v : α) (h : j ≠ k) :
    tget e (tset d t k v) j = tget e t j := by
  unfold tset
  split
  · rw [tget_tdel, if_neg h]
  · rw [tget_tins_other _ _ _ _ _ h, tget_tdel, if_neg h]

/-! ## The canonical form -/

/-- The canonical form as a pairwise order with no default entry. -/
theorem tableWf_iff [DecidableEq α] (d : α) (t : Table α) :
    tableWf d t = true ↔ (t.Pairwise fun a b => a.1 < b.1) ∧ ∀ q ∈ t, q.2 ≠ d := by
  induction t with
  | nil => simp [tableWf]
  | cons q t ih =>
    obtain ⟨k, v⟩ := q
    simp only [tableWf, Bool.and_eq_true, ih, List.pairwise_cons, List.mem_cons, forall_eq_or_imp, bne_iff_ne]
    constructor
    · rintro ⟨⟨hv, hk⟩, hp, hd⟩
      refine ⟨⟨?_, hp⟩, hv, hd⟩
      intro b hb
      cases t with
      | nil => simp at hb
      | cons r t =>
        simp only [decide_eq_true_eq] at hk
        rcases List.mem_cons.mp hb with rfl | hb
        · exact hk
        · exact lt_trans hk ((List.pairwise_cons.mp hp).1 b hb)
    · rintro ⟨⟨hk, hp⟩, hv, hd⟩
      refine ⟨⟨hv, ?_⟩, hp, hd⟩
      cases t with
      | nil => rfl
      | cons r t => simpa using hk r (by simp)

theorem tableWf_filter [DecidableEq α] (d : α) (t : Table α) (p : Nat × α → Bool) (h : tableWf d t = true) :
    tableWf d (t.filter p) = true := by
  rw [tableWf_iff] at h ⊢
  exact ⟨h.1.filter p, fun q hq => h.2 q (List.mem_of_mem_filter hq)⟩

theorem tdel_eq_filter (t : Table α) (k : Nat) : tdel t k = t.filter fun q => decide (q.1 ≠ k) := by
  induction t with
  | nil => rfl
  | cons q t ih =>
    obtain ⟨i, v⟩ := q
    by_cases h : i = k
    · simp [tdel, h, ih]
    · simp [tdel, h, ih]

theorem tableWf_tdel [DecidableEq α] (d : α) (t : Table α) (k : Nat) (h : tableWf d t = true) :
    tableWf d (tdel t k) = true := by
  rw [tdel_eq_filter]; exact tableWf_filter d t _ h

theorem mem_tins (t : Table α) (k : Nat) (v : α) (q : Nat × α) : q ∈ tins k v t ↔ q = (k, v) ∨ q ∈ t := by
  induction t with
  | nil => simp [tins]
  | cons r t ih =>
    obtain ⟨i, w⟩ := r
    by_cases h : k < i
    · simp [tins, h]
    · simp only [tins, h, if_false, List.mem_cons, ih]; tauto

theorem tableWf_tins [DecidableEq α] (d : α) (t : Table α) (k : Nat) (v : α) (h : tableWf d t = true) (hv : v ≠ d)
    (hk : ∀ q ∈ t, q.1 ≠ k) : tableWf d (tins k v t) = true := by
  rw [tableWf_iff] at h ⊢
  refine ⟨?_, fun q hq => ?_⟩
  · induction t with
    | nil => simp [tins]
    | cons r t ih =>
      obtain ⟨i, w⟩ := r
      have hp := List.pairwise_cons.mp h.1
      by_cases hi : k < i
      · simp only [tins, hi, if_true, List.pairwise_cons]
        refine ⟨fun q hq => ?_, hp⟩
        rcases List.mem_cons.mp hq with rfl | hq
        · exact hi
        · exact lt_trans hi (hp.1 q hq)
      · simp only [tins, hi, if_false, List.pairwise_cons]
        refine ⟨fun q hq => ?_, ih ⟨hp.2, fun q hq => h.2 q (List.mem_cons_of_mem _ hq)⟩
          (fun q hq => hk q (List.mem_cons_of_mem _ hq))⟩
        have hne : i ≠ k := hk (i, w) (by simp)
        rcases (mem_tins t k v q).mp hq with rfl | hq
        · exact lt_of_le_of_ne (not_lt.mp hi) hne
        · exact hp.1 q hq
  · rcases (mem_tins t k v q).mp hq with rfl | hq
    · exact hv
    · exact h.2 q hq

theorem tableWf_tset [DecidableEq α] (d : α) (t : Table α) (k : Nat) (v : α) (h : tableWf d t = true) :
    tableWf d (tset d t k v) = true := by
  unfold tset
  split
  · exact tableWf_tdel d t k h
  · rename_i hv
    refine tableWf_tins d _ k v (tableWf_tdel d t k h) hv fun q hq => ?_
    rw [tdel_eq_filter] at hq
    simpa using (List.mem_filter.mp hq).2

end Sys2Proof.Machine
end

