-- ==== Sys2Proof/Laws/Memory.lean ====
section
/-!
SUPPORT. Laws of skein memory (R175, R185, R186, R189): reads after writes, and that every operation over memory keeps its
canonical form.
-/
namespace Sys2Proof.Machine

theorem memGet_memSet (m : List Host.Cell) (a b : Nat) (v : Byte) :
    memGet (memSet m a v) b = if b = a then v else memGet m b := tget_tset 0 m a b v

theorem memWf_memSet (m : List Host.Cell) (a : Nat) (v : Byte) (h : tableWf 0 m = true) :
    tableWf 0 (memSet m a v) = true := tableWf_tset 0 m a v h

theorem memWf_memWrite (bs : List Byte) : ∀ (m : List Host.Cell) (a : Nat), tableWf 0 m = true →
    tableWf 0 (memWrite m a bs) = true := by
  induction bs with
  | nil => intro m a h; exact h
  | cons b bs ih => intro m a h; exact ih _ _ (memWf_memSet m a b h)

/-- A write of bytes at rising addresses: inside its range a read gives the byte written, outside it the old byte. -/
theorem memGet_memWrite (bs : List Byte) : ∀ (m : List Host.Cell) (a b : Nat),
    memGet (memWrite m a bs) b = if a ≤ b ∧ b < a + bs.length then bs.getD (b - a) 0 else memGet m b := by
  induction bs with
  | nil => intro m a b; simp [memWrite]
  | cons v bs ih =>
    intro m a b
    rw [memWrite, ih, memGet_memSet]
    by_cases h1 : b = a
    · subst h1
      simp
    · by_cases h2 : a + 1 ≤ b ∧ b < a + 1 + bs.length
      · have : b - a = (b - (a + 1)) + 1 := by omega
        have h3 : a ≤ b ∧ b < a + (v :: bs).length := by simp; omega
        rw [if_pos h2, if_pos h3, this, List.getD_cons_succ]
      · have h3 : ¬ (a ≤ b ∧ b < a + (v :: bs).length) := by simp; omega
        rw [if_neg h2, if_neg h3, if_neg h1]

theorem memWf_memZeroHank (m : List Host.Cell) (h : Nat) (w : tableWf 0 m = true) : tableWf 0 (memZeroHank m h) = true :=
  tableWf_filter 0 m _ w

theorem memWf_foldSet {β : Type} (l : List β) (f : β → Nat) (g : β → Byte) : ∀ m : List Host.Cell, tableWf 0 m = true →
    tableWf 0 (l.foldl (fun m c => memSet m (f c) (g c)) m) = true := by
  induction l with
  | nil => intro m h; exact h
  | cons x l ih => intro m h; exact ih _ (memWf_memSet m _ _ h)

theorem memWf_memCopyHank (m : List Host.Cell) (a b : Nat) (w : tableWf 0 m = true) :
    tableWf 0 (memCopyHank m a b) = true :=
  memWf_foldSet _ _ _ _ (memWf_memZeroHank m b w)

theorem memWf_arrayWrite (hanks : List Nat) (o : Nat) (bs : List Byte) (s : State) (w : tableWf 0 s.skein.mem = true) :
    tableWf 0 (arrayWrite hanks o bs s).skein.mem = true := by
  unfold arrayWrite
  have h : ∀ (l : List (Nat × Nat × Nat)) (a : List Host.Cell × List Byte), tableWf 0 a.1 = true →
      tableWf 0 (l.foldl (fun (a : List Host.Cell × List Byte) r =>
        (memWrite a.1 (hanks.getD r.1 0 * hankBytes + r.2.1) (a.2.take r.2.2), a.2.drop r.2.2)) a).1 = true := by
    intro l
    induction l with
    | nil => intro a h; exact h
    | cons r l ih => intro a h; exact ih _ (memWf_memWrite _ _ _ h)
  exact h _ _ w

end Sys2Proof.Machine
end

