-- ==== Sys2Proof/Laws/Stable.lean ====
section
/-!
SUPPORT. Properties of the state that depend only on the flash, skein memory, the needle bed's slot counts and the queue
(`Stable`): what each primitive change must keep. A property that is stable is kept by every command: by the frames where a
function leaves those four alone, and by Laws/StableAll elsewhere.
-/
namespace Sys2Proof.Machine

/-- Every part but the flash, skein memory, the slot counts and the queue. -/
abbrev freeParts : List Part :=
  [.host, .rows, .slots, .pools, .hanks, .groups, .bed, .ports, .drones, .clock, .routing, .traffic, .flows, .course, .perf,
    .boot, .blocked, .power, .drops, .out]

/-- A property that every primitive change keeps. -/
structure Stable (K : State → Prop) : Prop where
  /-- Anything but the flash, skein memory, the slot counts and the queue may change. -/
  free : Free freeParts K
  /-- Skein memory changes, in its canonical form if it was. -/
  mem : ∀ {u : State} {m : List Host.Cell}, K u → (tableWf 0 u.skein.mem = true → tableWf 0 m = true) →
    K { u with skein := { u.skein with mem := m } }
  /-- Column slots are counted with their handshakes. -/
  slots : ∀ {u : State} {retired busy front back : Nat}, K u → K (countSlots retired busy front back u)
  /-- A module reset. -/
  reset : ∀ {u : State} {c : Nat}, K u → K (moduleReset c u)
  /-- The flash changes, but not its identity, and the floor in force does not go down. -/
  flash : ∀ {u : State} {f : Flash}, K u → f.identity = u.flash.identity →
    (bootControl u.flash).1.floor ≤ (bootControl f).1.floor → K { u with flash := f }

end Sys2Proof.Machine
end

