-- ==== Sys2Proof/Laws/StableAll.lean ====
section
/-!
SUPPORT. Stable properties are kept by the functions that change the flash, skein memory or the slot counts. With the
frames, they are kept by every command.
-/
set_option linter.unusedVariables false
set_option linter.unusedTactic false
set_option linter.unreachableTactic false

namespace Sys2Proof.Machine

theorem Stable.keepsMem {K : State → Prop} (hK : Stable K) {u t : State} {m : List Host.Cell} (h : K u)
    (w : tableWf 0 u.skein.mem = true → tableWf 0 m = true)
    (c : ChangesOnly freeParts { u with skein := { u.skein with mem := m } } t) : K t := hK.free.keep (hK.mem h w) c

theorem arrayWrite_stable {K : State → Prop} (hK : Stable K) {hanks : List Nat} {o : Nat} {bs : List Byte} {s : State}
    (h0 : K s) : K (arrayWrite hanks o bs s) :=
  hK.mem h0 (memWf_arrayWrite hanks o bs s)

theorem allocArray_stable {K : State → Prop} (hK : Stable K) {st : HankState} {n : Nat} {s : State} (h0 : K s) {r1}
    {st1 : State} (he : allocArray st n s = some (r1, st1)) : K st1 := by
  unfold allocArray at he
  split at he
  · cases he
    exact h0
  · obtain ⟨⟨hs, off, v⟩, e1, e2⟩ := Option.map_eq_some_iff.mp he
    have hv : ∀ x, ((List.range n).foldl (fun (r : Option (List Nat × Bool × State)) k =>
        match r with
        | none => none
        | some (hs, off, s_1) =>
          match placeHank s_1 (s.skein.ordinal % s.config.skeins) k with
          | none => none
          | some (h, o) =>
            let s := setHank st h s_1
            some (hs ++ [h], off || o, { s with skein := { s.skein with mem := memZeroHank s.skein.mem h } }))
        (some ([], false, s))) = some x → K x.2.2 := by
      refine keep_foldl_any (K := fun r : Option (List Nat × Bool × State) => ∀ x, r = some x → K x.2.2) ?_ ?_
      · intro x hx
        cases hx
        exact h0
      · intro r k hr x hx
        match r, hr with
        | none, _ => cases hx
        | some (hs, off, u), hr =>
          dsimp only at hx
          split at hx
          · cases hx
          · cases hx
            have h2 : K u := hr _ rfl
            exact hK.mem (setHank_keeps (hK.free.sub rfl) h2) (memWf_memZeroHank _ _)
    cases e2
    exact hK.free.keep (hv _ e1) (by
      intro p hp; cases p <;> first | exact absurd hp (by decide) | rfl | exact ⟨rfl, rfl, rfl, rfl, rfl⟩)

theorem moduleReset_stable {K : State → Prop} (hK : Stable K) {code : Nat} {s : State} (h0 : K s) :
    K (moduleReset code s) := hK.reset h0

theorem poweredReset_stable {K : State → Prop} (hK : Stable K) {code : Nat} {s : State} (h0 : K s) :
    K (poweredReset code s) := by
  unfold poweredReset
  with_reducible repeat' first
    | assumption | apply moduleReset_stable hK | apply keep_ite | split

theorem controlOk_seal (c : BootControl) : controlOk (sealControl c) = true := by
  simp [controlOk, sealControl, controlCrc]

/-- A new boot control record, written to the copy not in force, does not lower the floor in force (R414, R415). -/
theorem bootControl_floor_of_write {f : Flash} {n : BootControl} (hn : controlOk n = true)
    (hf : (bootControl f).1.floor ≤ n.floor) :
    (bootControl f).1.floor ≤
      (bootControl (if (bootControl f).2 then { f with ctrl0 := n } else { f with ctrl1 := n })).1.floor := by
  by_cases h0 : (controlOk f.ctrl0 && (!controlOk f.ctrl1 || decide (f.ctrl1.generation ≤ f.ctrl0.generation))) = true
  · have e : bootControl f = (f.ctrl0, false) := by simp only [bootControl, h0, if_true]
    have k0 : controlOk f.ctrl0 = true := by
      cases k : controlOk f.ctrl0 <;> simp_all
    rw [e] at hf ⊢
    simp only [bootControl, hn, k0, Bool.not_true, Bool.false_or, Bool.true_and, Bool.false_eq_true, if_false, if_true]
    split
    · exact BitVec.le_refl _
    · exact hf
  · by_cases h1 : controlOk f.ctrl1 = true
    · have e : bootControl f = (f.ctrl1, true) := by
        unfold bootControl
        dsimp only
        rw [if_neg h0, if_pos h1]
      rw [e] at hf ⊢
      simp only [bootControl, hn, h1, Bool.not_true, Bool.false_or, Bool.true_and, if_true]
      split
      · exact hf
      · exact BitVec.le_refl _
    · have e : (bootControl f).1.floor = 0 := by
        unfold bootControl
        dsimp only
        rw [if_neg h0, if_neg h1]
        rfl
      rw [e]
      exact BitVec.le_def.mpr (Nat.zero_le _)

theorem writeControl_stable {K : State → Prop} (hK : Stable K) {g : BootControl → BootControl} {s : State} (h0 : K s) :
    K (writeControl g s) := by
  unfold writeControl
  dsimp only
  split
  · exact h0
  · rename_i hf
    refine hK.flash h0 ?_ ?_
    · split <;> rfl
    · exact bootControl_floor_of_write (controlOk_seal _) (BitVec.not_lt.mp hf)

theorem bootRecords_stable {K : State → Prop} (hK : Stable K) {s : State} (h0 : K s) {r1 r2} {st1 : State}
    (he : bootRecords s = (st1, r1, r2)) : K st1 := by
  unfold bootRecords at he
  try dsimp -proj only at he
  repeat' (split at he)
  all_goals (try first | contradiction | cases he)
  try dsimp -proj only
  with_reducible repeat' first
    | assumption | apply writeControl_stable hK
    | (fail_if_no_progress refine Free.mk hK.free ?_ (Frame.only fun p hp => by
        cases p <;> first
          | exact absurd hp (by with_unfolding_all decide) | exact rfl | exact ⟨rfl, rfl, rfl, rfl, rfl⟩))
    | apply keep_ite | split

theorem bootRom_stable {K : State → Prop} (hK : Stable K) {s : State} (h0 : K s) : K (bootRom s) := by
  unfold bootRom
  try dsimp -proj only
  with_reducible repeat' first
    | assumption | refine bootRecords_stable hK ?_ (by first | assumption | rfl)
    | apply setResult_keeps (hK.free.sub rfl) | apply startSlot_keeps (hK.free.sub rfl)
    | (fail_if_no_progress refine Free.mk hK.free ?_ (Frame.only fun p hp => by
        cases p <;> first
          | exact absurd hp (by with_unfolding_all decide) | exact rfl | exact ⟨rfl, rfl, rfl, rfl, rfl⟩))
    | apply keep_ite | split

theorem execModuleReset_stable {K : State → Prop} (hK : Stable K) {s : State} (h0 : K s) {st1 : State}
    (he : execModuleReset s = .next st1) : K st1 := by
  unfold execModuleReset at he
  repeat' (split at he)
  all_goals (injection he with he; subst he)
  with_reducible repeat' first
    | assumption | apply hostAccess_keeps (hK.free.sub rfl) | apply poweredReset_stable hK | intro _

theorem allocShard_stable {K : State → Prop} (hK : Stable K) {r : Record} {k : Nat} {owner : Bool} {s : State}
    (h0 : K s) {a'} {t' : State} (he : allocShard r k owner s = some (a', t')) : K t' := by
  unfold allocShard at he
  dsimp only at he
  refine keep_foldl_any (K := fun a : Option (Shard × State) => ∀ x, a = some x → K x.2) ?_ ?_ _ he
  · intro x e
    cases e
    exact h0
  · intro a x ha y e
    match a, ha with
    | none, _ => cases e
    | some (sh, u), ha =>
      dsimp only at e
      split at e
      · cases e
      · cases e
        exact allocArray_stable hK (ha _ rfl) ‹_›

theorem keepShard_stable {K : State → Prop} (hK : Stable K) {r : Record} {sh : Shard} {owner : Bool} {s : State}
    (h0 : K s) {a'} {t' : State} (he : keepShard r sh owner s = some (a', t')) : K t' := by
  unfold keepShard at he
  dsimp only at he
  refine keep_foldl_any (K := fun a : Option (Shard × State) => ∀ x, a = some x → K x.2) ?_ ?_ _ he
  · intro x e
    cases e
    refine keep_forEach h0 fun a s h => ?_
    split
    · exact h
    · exact setHank_keeps (hK.free.sub rfl) h
  · intro a x ha y e
    match a, ha with
    | none, _ => cases e
    | some (sh, u), ha =>
      obtain ⟨⟨hs, v⟩, e1, e2⟩ := Option.map_eq_some_iff.mp e
      cases e2
      exact allocArray_stable hK (ha _ rfl) e1

theorem allocShards_stable {K : State → Prop} (hK : Stable K) {r : Record} {kept : List Shard} {s : State}
    (h0 : K s) {a'} {t' : State} (he : allocShards r kept s = some (a', t')) : K t' := by
  unfold allocShards at he
  dsimp only at he
  refine keep_foldl_any (K := fun a : Option (List Shard × State) => ∀ x, a = some x → K x.2) ?_ ?_ _ he
  · intro x e
    cases e
    exact h0
  · intro a w ha y e
    match a, ha with
    | none, _ => cases e
    | some (l, u), ha =>
      obtain ⟨⟨sh, v⟩, e1, e2⟩ := Option.map_eq_some_iff.mp e
      cases e2
      split at e1
      · exact keepShard_stable hK (ha _ rfl) e1
      · exact allocShard_stable hK (ha _ rfl) e1

theorem reserveGroup_stable {K : State → Prop} (hK : Stable K) {r : Record} {check : BitVec 64} {kept : List Shard}
    {s : State} (h0 : K s) {r1} {st1 : State} (he : reserveGroup r check kept s = some (r1, st1)) : K st1 := by
  have h1 : K (applyCarve s) := applyCarve_keeps (hK.free.sub rfl) h0
  unfold reserveGroup at he
  extract_lets insts short cells none' inCells at he
  split at he
  · cases he
  · have h2 : ∀ {x y}, inCells = some (x, y) → K y := by
      intro x y e
      simp only [inCells] at e
      split at e
      · cases e
        exact h0
      · split at e
        · cases e
          exact reserveCells_keeps (hK.free.sub rfl) h1 ‹_›
        · split at e
          · cases e
            exact h0
          · cases e
    clear_value inCells
    split at he
    · cases he
    · split at he
      · cases he
      · split at he
        · cases he
        · injection he with he
          injection he with _ he
          rw [← he]
          exact keep_forEach (allocShards_stable hK (allocArray_stable hK (h2 rfl) ‹_›) ‹_›)
            fun _ _ h => updSlot_keeps (hK.free.sub rfl) h

theorem countSlots_stable {K : State → Prop} (hK : Stable K) {retired busy front back : Nat} {s : State} (h0 : K s) :
    K (countSlots retired busy front back s) := hK.slots h0

theorem tickHandshakes_stable {K : State → Prop} (hK : Stable K) {s : State} (h0 : K s) : K (tickHandshakes s) := by
  unfold tickHandshakes
  try dsimp -proj only
  with_reducible repeat' first
    | assumption | apply countSlots_stable hK
    | (fail_if_no_progress refine Free.mk hK.free ?_ (Frame.only fun p hp => by
        cases p <;> first
          | exact absurd hp (by with_unfolding_all decide) | exact rfl | exact ⟨rfl, rfl, rfl, rfl, rfl⟩))
    | apply keep_ite | split

theorem copyHank_stable {K : State → Prop} (hK : Stable K) {h : Nat} {s : State} (h0 : K s) : K (copyHank h s) := by
  unfold copyHank
  split
  · exact h0
  · rename_i c _
    refine count_keeps (hK.free.sub rfl) (hK.keepsMem h0 (memWf_memCopyHank s.skein.mem h c) ?_)
    intro p hp
    cases p <;> first | exact absurd hp (by decide) | rfl | exact ⟨rfl, rfl, rfl, rfl, rfl⟩

theorem guardedWrite_stable {K : State → Prop} (hK : Stable K) {priv : Nat} {hanks : List Nat} {o : Nat}
    {bs : List Byte} {s : State} (h0 : K s) : K (guardedWrite priv hanks o bs s) := by
  unfold guardedWrite
  try dsimp -proj only
  with_reducible repeat' first
    | assumption | apply copyHank_stable hK | apply countSkein_keeps (hK.free.sub rfl) | apply arrayWrite_stable hK
    | intro _ | apply keep_forEach | intro _

theorem mirrorWrite_stable {K : State → Prop} (hK : Stable K) {p : Packet} {s0 : State} (h0 : K s0) :
    K (mirrorWrite p s0) := by
  unfold mirrorWrite
  try dsimp -proj only
  with_reducible repeat' first
    | assumption | apply guardedWrite_stable hK | apply sealNow_keeps (hK.free.sub rfl)
    | apply updShard_keeps (hK.free.sub rfl)
    | (fail_if_no_progress refine Free.mk hK.free ?_ (Frame.only fun p hp => by
        cases p <;> first
          | exact absurd hp (by with_unfolding_all decide) | exact rfl | exact ⟨rfl, rfl, rfl, rfl, rfl⟩))
    | apply keep_ite | split

theorem storeStream_stable {K : State → Prop} (hK : Stable K) {g : Group} {op : Op} {sh : Shard} {c : Nat}
    {q : Nat × List Val} {s : State} (h0 : K s) {r1} {st1 : State} (he : storeStream g op sh c q s = (st1, r1)) : K
    st1 := by
  unfold storeStream at he
  try dsimp -proj only at he
  repeat' (split at he)
  all_goals (try first | contradiction | cases he)
  try dsimp -proj only
  with_reducible repeat' first
    | assumption | apply guardedWrite_stable hK | split

theorem endApply_stable {K : State → Prop} (hK : Stable K) {g : Group} {op : Op} {sh : Shard} {x : Stitch}
    {time : Nat} {front : Nat} {back : Nat} {s : State} (h0 : K s) : K (endApply g op sh x time front back s) := by
  unfold endApply
  try dsimp -proj only
  with_reducible repeat' first
    | assumption | apply stallStitch_keeps (hK.free.sub rfl) | apply countChunkRead_keeps (hK.free.sub rfl)
    | refine storeStream_stable hK ?_ (by first | assumption | rfl) | apply settleStitch_keeps (hK.free.sub rfl)
    | apply countValue_keeps (hK.free.sub rfl) | apply count_keeps (hK.free.sub rfl)
    | apply addNondet_keeps (hK.free.sub rfl) | apply finishApply_keeps (hK.free.sub rfl)
    | apply updOp_keeps (hK.free.sub rfl) | apply releaseHeld_keeps (hK.free.sub rfl) | intro _
    | (unfold id; assumption) | apply keep_forEach | intro _ | apply keep_foldl | apply keep_foldl_fst | intro _
    | (fail_if_no_progress refine Free.mk hK.free ?_ (Frame.only fun p hp => by
        cases p <;> first
          | exact absurd hp (by with_unfolding_all decide) | exact rfl | exact ⟨rfl, rfl, rfl, rfl, rfl⟩))
    | apply keep_ite | split

theorem endStitch_stable {K : State → Prop} (hK : Stable K) {front : Nat} {back : Nat} {s : State} (h0 : K s) :
    K (endStitch front back s) := by
  unfold endStitch
  with_reducible repeat' first
    | assumption | apply endVoid_keeps (hK.free.sub rfl) | apply endReduce_keeps (hK.free.sub rfl)
    | apply endMap_keeps (hK.free.sub rfl) | apply endApply_stable hK | apply keep_ite | split

theorem castOn_stable {K : State → Prop} (hK : Stable K) {d : Desc} {h : HostRead} {t : Tok} {s : State}
    (h0 : K s) : K (castOn d h t s) := by
  unfold castOn
  try dsimp -proj only
  with_reducible repeat' first
    | assumption | apply complete_keeps (hK.free.sub rfl) | apply noteRead_keeps (hK.free.sub rfl)
    | apply castFails_keeps (hK.free.sub rfl) | refine reserveGroup_stable hK ?_ (by first | assumption | rfl)
    | apply castReserved_keeps (hK.free.sub rfl) | apply keep_ite | split

theorem execCastOn_stable {K : State → Prop} (hK : Stable K) {sq : BitVec 8} {d : Desc} {host : HostRead}
    {s : State} (h0 : K s) {st1 : State} (he : execCastOn sq d host s = .next st1) : K st1 := by
  unfold execCastOn at he
  repeat' (split at he)
  all_goals (injection he with he; subst he)
  with_reducible repeat' first
    | assumption | apply castOn_stable hK | intro _ | apply runCommand_keeps (hK.free.sub rfl) | intro _

theorem reserveAgain_stable {K : State → Prop} (hK : Stable K) {failed : Bool} {r : Record} {check : BitVec 64}
    {kept : List Shard} {s : State} (h0 : K s) {r1} {st1 : State}
    (he : reserveAgain failed r check kept s = some (r1, st1)) : K st1 := by
  unfold reserveAgain at he
  repeat' (split at he)
  all_goals (try first | contradiction | cases he)
  with_reducible repeat' first
    | assumption | refine reserveGroup_stable hK ?_ (by first | assumption | rfl) | apply keep_ite | split

theorem recastNow_stable {K : State → Prop} (hK : Stable K) {gid : Nat} {s : State} (h0 : K s) :
    K (recastNow gid s) := by
  unfold recastNow
  try dsimp -proj only
  with_reducible repeat' first
    | assumption | apply bad_keeps (hK.free.sub rfl) | apply endGroup_keeps (hK.free.sub rfl)
    | refine reserveAgain_stable hK ?_ (by first | assumption | rfl) | apply releaseHank_keeps (hK.free.sub rfl)
    | apply castFails_keeps (hK.free.sub rfl) | apply castReserved_keeps (hK.free.sub rfl) | intro _
    | apply keep_forEach | intro _ | (fail_if_no_progress refine Free.mk hK.free ?_ (Frame.only fun p hp => by
        cases p <;> first
          | exact absurd hp (by with_unfolding_all decide) | exact rfl | exact ⟨rfl, rfl, rfl, rfl, rfl⟩))
    | apply keep_ite | split

theorem recastCheck_stable {K : State → Prop} (hK : Stable K) {gid : Nat} {s : State} (h0 : K s) :
    K (recastCheck gid s) := by
  unfold recastCheck
  with_reducible repeat' first
    | assumption | apply recastNow_stable hK | apply keep_ite | split

theorem settled_stable {K : State → Prop} (hK : Stable K) {gid : Nat} {s : State} (h0 : K s) :
    K (settled gid s) := by
  unfold settled
  with_reducible repeat' first
    | assumption | apply recastCheck_stable hK | apply settle_keeps (hK.free.sub rfl)

theorem execRecast_stable {K : State → Prop} (hK : Stable K) {sq : BitVec 8} {d : Desc} {host : HostRead}
    {s : State} (h0 : K s) {st1 : State} (he : execRecast sq d host s = .next st1) : K st1 := by
  unfold execRecast at he
  repeat' (split at he)
  all_goals (injection he with he; subst he)
  with_reducible repeat' first
    | assumption | apply recastCheck_stable hK | apply recast_keeps (hK.free.sub rfl) | intro _
    | apply runCommand_keeps (hK.free.sub rfl) | intro _

theorem groupPacket_stable {K : State → Prop} (hK : Stable K) {gid : Nat} {p : Packet}
    {f : Via → Packet → State → State} {s : State} (h0 : K s) (hf : ∀ a b u, K u → K (f a b u)) :
    K (groupPacket gid p f s) := by
  unfold groupPacket
  with_reducible repeat' first
    | assumption | apply settled_stable hK | apply consume_keeps (hK.free.sub rfl)
    | apply drop_keeps (hK.free.sub rfl) | apply count_keeps (hK.free.sub rfl) | apply hf | apply keep_ite | split

theorem execCollUp_stable {K : State → Prop} (hK : Stable K) {p : Packet} {s : State} (h0 : K s) {st1 : State}
    (he : execCollUp p s = .next st1) : K st1 := by
  unfold execCollUp at he
  repeat' (split at he)
  all_goals (injection he with he; subst he)
  with_reducible repeat' first
    | assumption | apply groupPacket_stable hK | apply recvUp_keeps (hK.free.sub rfl) | intro _

theorem execCollDown_stable {K : State → Prop} (hK : Stable K) {p : Packet} {s : State} (h0 : K s)
    {st1 : State} (he : execCollDown p s = .next st1) : K st1 := by
  unfold execCollDown at he
  repeat' (split at he)
  all_goals (injection he with he; subst he)
  with_reducible repeat' first
    | assumption | apply groupPacket_stable hK | apply recvDown_keeps (hK.free.sub rfl) | intro _

theorem execA2aUp_stable {K : State → Prop} (hK : Stable K) {p : Packet} {s : State} (h0 : K s) {st1 : State}
    (he : execA2aUp p s = .next st1) : K st1 := by
  unfold execA2aUp at he
  repeat' (split at he)
  all_goals (injection he with he; subst he)
  with_reducible repeat' first
    | assumption | apply groupPacket_stable hK | apply recvA2a_keeps (hK.free.sub rfl) | intro _

theorem execA2aDown_stable {K : State → Prop} (hK : Stable K) {p : Packet} {s : State} (h0 : K s) {st1 : State}
    (he : execA2aDown p s = .next st1) : K st1 := by
  unfold execA2aDown at he
  repeat' (split at he)
  all_goals (injection he with he; subst he)
  with_reducible repeat' first
    | assumption | apply groupPacket_stable hK | apply recvA2a_keeps (hK.free.sub rfl) | intro _

theorem execBarrierArrive_stable {K : State → Prop} (hK : Stable K) {p : Packet} {s : State} (h0 : K s)
    {st1 : State} (he : execBarrierArrive p s = .next st1) : K st1 := by
  unfold execBarrierArrive at he
  repeat' (split at he)
  all_goals (injection he with he; subst he)
  with_reducible repeat' first
    | assumption | apply groupPacket_stable hK | apply recvArrive_keeps (hK.free.sub rfl) | intro _

theorem execBarrierRelease_stable {K : State → Prop} (hK : Stable K) {p : Packet} {s : State} (h0 : K s)
    {st1 : State} (he : execBarrierRelease p s = .next st1) : K st1 := by
  unfold execBarrierRelease at he
  repeat' (split at he)
  all_goals (injection he with he; subst he)
  with_reducible repeat' first
    | assumption | apply groupPacket_stable hK | apply recvRelease_keeps (hK.free.sub rfl) | intro _

theorem execGcredit_stable {K : State → Prop} (hK : Stable K) {p : Packet} {s : State} (h0 : K s) {st1 : State}
    (he : execGcredit p s = .next st1) : K st1 := by
  unfold execGcredit at he
  repeat' (split at he)
  all_goals (injection he with he; subst he)
  with_reducible repeat' first
    | assumption | apply groupPacket_stable hK | apply recvCredit_keeps (hK.free.sub rfl) | intro _

theorem execTack_stable {K : State → Prop} (hK : Stable K) {p : Packet} {s : State} (h0 : K s) {st1 : State}
    (he : execTack p s = .next st1) : K st1 := by
  unfold execTack at he
  repeat' (split at he)
  all_goals (injection he with he; subst he)
  with_reducible repeat' first
    | assumption | apply groupPacket_stable hK | apply recvTack_keeps (hK.free.sub rfl) | intro _

theorem execChunkAbort_stable {K : State → Prop} (hK : Stable K) {p : Packet} {s : State} (h0 : K s)
    {st1 : State} (he : execChunkAbort p s = .next st1) : K st1 := by
  unfold execChunkAbort at he
  repeat' (split at he)
  all_goals (injection he with he; subst he)
  with_reducible repeat' first
    | assumption | apply groupPacket_stable hK | apply recvAbort_keeps (hK.free.sub rfl) | intro _

theorem execStepSeal_stable {K : State → Prop} (hK : Stable K) {p : Packet} {s : State} (h0 : K s)
    {st1 : State} (he : execStepSeal p s = .next st1) : K st1 := by
  unfold execStepSeal at he
  repeat' (split at he)
  all_goals (injection he with he; subst he)
  with_reducible repeat' first
    | assumption | apply groupPacket_stable hK | apply inactiveDrop_keeps (hK.free.sub rfl)
    | apply takeSeal_keeps (hK.free.sub rfl) | intro _ | apply keep_ite | split

theorem execStepSealed_stable {K : State → Prop} (hK : Stable K) {p : Packet} {s : State} (h0 : K s)
    {st1 : State} (he : execStepSealed p s = .next st1) : K st1 := by
  unfold execStepSealed at he
  repeat' (split at he)
  all_goals (injection he with he; subst he)
  with_reducible repeat' first
    | assumption | apply groupPacket_stable hK | apply inactiveDrop_keeps (hK.free.sub rfl)
    | apply takeSealed_keeps (hK.free.sub rfl) | intro _ | apply keep_ite | split

theorem execGenerationFlip_stable {K : State → Prop} (hK : Stable K) {group : BitVec 24} {s : State} (h0 : K s)
    {st1 : State} (he : execGenerationFlip group s = .next st1) : K st1 := by
  unfold execGenerationFlip at he
  repeat' (split at he)
  all_goals (injection he with he; subst he)
  with_reducible repeat' first
    | assumption | apply settled_stable hK | apply flipNow_keeps (hK.free.sub rfl)

theorem dropRunning_stable {K : State → Prop} (hK : Stable K) {front : Nat} {back : Nat}
    {r : Group × Op × Inst × Stitch} {s : State} (h0 : K s) : K (dropRunning front back r s) := by
  unfold dropRunning
  try dsimp -proj only
  with_reducible repeat' first
    | assumption | apply count_keeps (hK.free.sub rfl) | apply endVoid_keeps (hK.free.sub rfl)
    | apply releaseHolder_keeps (hK.free.sub rfl) | apply settled_stable hK
    | apply takeAbort_keeps (hK.free.sub rfl) | apply failApply_keeps (hK.free.sub rfl) | apply keep_ite | split

theorem dropLost_stable {K : State → Prop} (hK : Stable K) {front : Nat} {back : Nat} {s : State} (h0 : K s) :
    K (dropLost front back s) := by
  unfold dropLost
  with_reducible repeat' first
    | assumption | apply dropRunning_stable hK | split

theorem stitchEnds_stable {K : State → Prop} (hK : Stable K) {front : Nat} {back : Nat} {s : State}
    (h0 : K s) : K (stitchEnds front back s) := by
  unfold stitchEnds
  with_reducible repeat' first
    | assumption | apply settled_stable hK | apply failApply_keeps (hK.free.sub rfl)
    | apply endVoid_keeps (hK.free.sub rfl) | apply dropLost_stable hK | apply flipNow_keeps (hK.free.sub rfl)
    | apply endStitch_stable hK | apply keep_ite | split

theorem execStitchComplete_stable {K : State → Prop} (hK : Stable K) {front : BitVec 32} {back : BitVec 32}
    {s : State} (h0 : K s) {st1 : State} (he : execStitchComplete front back s = .next st1) : K st1 := by
  unfold execStitchComplete at he
  repeat' (split at he)
  all_goals (injection he with he; subst he)
  with_reducible repeat' first
    | assumption | apply stitchEnds_stable hK

theorem dwellExpired_stable {K : State → Prop} (hK : Stable K) {gid : Nat} {node : Nat} {seq : Nat} {c : Nat}
    {s : State} (h0 : K s) : K (dwellExpired gid node seq c s) := by
  unfold dwellExpired
  with_reducible repeat' first
    | assumption | apply settled_stable hK | apply takeAbort_keeps (hK.free.sub rfl)
    | apply count_keeps (hK.free.sub rfl) | apply keep_ite | split

theorem execDwellExpiry_stable {K : State → Prop} (hK : Stable K) {group : BitVec 24} {node : BitVec 16}
    {seq : BitVec 32} {chunk : BitVec 32} {s : State} (h0 : K s) {st1 : State}
    (he : execDwellExpiry group node seq chunk s = .next st1) : K st1 := by
  unfold execDwellExpiry at he
  repeat' (split at he)
  all_goals (injection he with he; subst he)
  with_reducible repeat' first
    | assumption | apply dwellExpired_stable hK

theorem chunkCompletes_stable {K : State → Prop} (hK : Stable K) {gid : Nat} {seq : Nat} {c : Nat} {s : State}
    (h0 : K s) : K (chunkCompletes gid seq c s) := by
  unfold chunkCompletes
  try dsimp -proj only
  with_reducible repeat' first
    | assumption | apply updOp_keeps (hK.free.sub rfl) | apply complete_keeps (hK.free.sub rfl)
    | apply addRow_keeps (hK.free.sub rfl) | apply settled_stable hK
    | (fail_if_no_progress refine Free.mk hK.free ?_ (Frame.only fun p hp => by
        cases p <;> first
          | exact absurd hp (by with_unfolding_all decide) | exact rfl | exact ⟨rfl, rfl, rfl, rfl, rfl⟩))
    | apply keep_ite | split

theorem execChunkComplete_stable {K : State → Prop} (hK : Stable K) {group : BitVec 24} {seq : BitVec 32}
    {chunk : BitVec 32} {s : State} (h0 : K s) {st1 : State}
    (he : execChunkComplete group seq chunk s = .next st1) : K st1 := by
  unfold execChunkComplete at he
  repeat' (split at he)
  all_goals (injection he with he; subst he)
  with_reducible repeat' first
    | assumption | apply chunkCompletes_stable hK

theorem shardWrite_stable {K : State → Prop} (hK : Stable K) {d : Desc} {h : HostRead} {t : Tok} {s : State}
    (h0 : K s) : K (shardWrite d h t s) := by
  unfold shardWrite
  try dsimp -proj only
  with_reducible repeat' first
    | assumption | apply bad_keeps (hK.free.sub rfl) | apply ok_keeps (hK.free.sub rfl)
    | apply noteRead_keeps (hK.free.sub rfl) | apply guardedWrite_stable hK
    | apply sendMirror_keeps (hK.free.sub rfl) | apply keep_ite | split

theorem execShardWrite_stable {K : State → Prop} (hK : Stable K) {sq : BitVec 8} {d : Desc} {host : HostRead}
    {s : State} (h0 : K s) {st1 : State} (he : execShardWrite sq d host s = .next st1) : K st1 := by
  unfold execShardWrite at he
  repeat' (split at he)
  all_goals (injection he with he; subst he)
  with_reducible repeat' first
    | assumption | apply shardWrite_stable hK | apply bad_keeps (hK.free.sub rfl) | intro _
    | apply runCommand_keeps (hK.free.sub rfl) | intro _ | apply keep_ite | split

theorem placePut_stable {K : State → Prop} (hK : Stable K) {p : Packet} {s : State} (h0 : K s) :
    K (placePut p s) := by
  unfold placePut
  with_reducible repeat' first
    | assumption | apply countSkein_keeps (hK.free.sub rfl) | apply arrayWrite_stable hK
    | apply keepEntry_keeps (hK.free.sub rfl) | apply settled_stable hK | apply mirrorWrite_stable hK
    | apply keep_ite | split

theorem recvPut_stable {K : State → Prop} (hK : Stable K) {port : Nat} {p : Packet} {s : State} (h0 : K s) :
    K (recvPut port p s) := by
  unfold recvPut
  try dsimp -proj only
  with_reducible repeat' first
    | assumption | apply sendNack_keeps (hK.free.sub rfl) | apply setRx_keeps (hK.free.sub rfl)
    | apply drop_keeps (hK.free.sub rfl) | apply count_keeps (hK.free.sub rfl)
    | apply sendAck_keeps (hK.free.sub rfl) | apply sendNackCum_keeps (hK.free.sub rfl) | apply placePut_stable hK
    | apply addRow_keeps (hK.free.sub rfl)
    | (fail_if_no_progress refine Free.mk hK.free ?_ (Frame.only fun p hp => by
        cases p <;> first
          | exact absurd hp (by with_unfolding_all decide) | exact rfl | exact ⟨rfl, rfl, rfl, rfl, rfl⟩))
    | apply keep_ite | split

theorem execPut_stable {K : State → Prop} (hK : Stable K) {p : Packet} {s : State} (h0 : K s) {st1 : State}
    (he : execPut p s = .next st1) : K st1 := by
  unfold execPut at he
  repeat' (split at he)
  all_goals (injection he with he; subst he)
  with_reducible repeat' first
    | assumption | apply recvPut_stable hK | apply consume_keeps (hK.free.sub rfl)

theorem snapshotCopied_stable {K : State → Prop} (hK : Stable K) {h : Nat} {s : State} (h0 : K s) :
    K (snapshotCopied h s) := by
  unfold snapshotCopied
  try dsimp -proj only
  with_reducible repeat' first
    | assumption | apply copyHank_stable hK | apply recvPut_stable hK | intro _ | apply keep_forEach | intro _
    | (fail_if_no_progress refine Free.mk hK.free ?_ (Frame.only fun p hp => by
        cases p <;> first
          | exact absurd hp (by with_unfolding_all decide) | exact rfl | exact ⟨rfl, rfl, rfl, rfl, rfl⟩))
    | apply keep_ite | split

theorem execSnapshotCopy_stable {K : State → Prop} (hK : Stable K) {hank : BitVec 19} {s : State} (h0 : K s)
    {st1 : State} (he : execSnapshotCopy hank s = .next st1) : K st1 := by
  unfold execSnapshotCopy at he
  repeat' (split at he)
  all_goals (injection he with he; subst he)
  with_reducible repeat' first
    | assumption | apply snapshotCopied_stable hK

theorem afterAck_stable {K : State → Prop} (hK : Stable K) {x : TxPkt} {s : State} (h0 : K s) :
    K (afterAck x s) := by
  unfold afterAck
  with_reducible repeat' first
    | assumption | apply ok_keeps (hK.free.sub rfl) | apply settled_stable hK
    | apply writeDone_keeps (hK.free.sub rfl) | split

theorem recvEAck_stable {K : State → Prop} (hK : Stable K) {p : Packet} {s : State} (h0 : K s) :
    K (recvEAck p s) := by
  unfold recvEAck
  try dsimp -proj only
  with_reducible repeat' first
    | assumption | apply setFlow_keeps (hK.free.sub rfl) | apply sentRequests_keeps (hK.free.sub rfl)
    | apply pumpFlow_keeps (hK.free.sub rfl) | apply afterAck_stable hK | intro _ | apply keep_forEach | intro _
    | (fail_if_no_progress refine Free.mk hK.free ?_ (Frame.only fun p hp => by
        cases p <;> first
          | exact absurd hp (by with_unfolding_all decide) | exact rfl | exact ⟨rfl, rfl, rfl, rfl, rfl⟩))
    | apply keep_ite | split

theorem execEAck_stable {K : State → Prop} (hK : Stable K) {p : Packet} {s : State} (h0 : K s) {st1 : State}
    (he : execEAck p s = .next st1) : K st1 := by
  unfold execEAck at he
  repeat' (split at he)
  all_goals (injection he with he; subst he)
  with_reducible repeat' first
    | assumption | apply recvEAck_stable hK | apply consume_keeps (hK.free.sub rfl)

theorem giveUp_stable {K : State → Prop} (hK : Stable K) {dst : Nat} {x : TxPkt} {code : Nat} {s : State}
    (h0 : K s) : K (giveUp dst x code s) := by
  unfold giveUp
  try dsimp -proj only
  with_reducible repeat' first
    | assumption | apply pumpFlow_keeps (hK.free.sub rfl) | apply dropTx_keeps (hK.free.sub rfl)
    | apply reportRefused_keeps (hK.free.sub rfl) | apply complete_keeps (hK.free.sub rfl)
    | apply settled_stable hK | apply failChunk_keeps (hK.free.sub rfl) | apply bad_keeps (hK.free.sub rfl)
    | apply sentRequests_keeps (hK.free.sub rfl) | apply keep_ite | split

theorem recvENack_stable {K : State → Prop} (hK : Stable K) {p : Packet} {s : State} (h0 : K s) :
    K (recvENack p s) := by
  unfold recvENack
  try dsimp -proj only
  with_reducible repeat' first
    | assumption | apply sentRequests_keeps (hK.free.sub rfl) | apply renewFlow_keeps (hK.free.sub rfl)
    | apply giveUp_stable hK | apply resendNow_keeps (hK.free.sub rfl) | apply updTx_keeps (hK.free.sub rfl)
    | apply keep_getD | intro _ _ | (fail_if_no_progress refine Free.mk hK.free ?_ (Frame.only fun p hp => by
        cases p <;> first
          | exact absurd hp (by with_unfolding_all decide) | exact rfl | exact ⟨rfl, rfl, rfl, rfl, rfl⟩))
    | apply keep_ite | split

theorem execENack_stable {K : State → Prop} (hK : Stable K) {p : Packet} {s : State} (h0 : K s) {st1 : State}
    (he : execENack p s = .next st1) : K st1 := by
  unfold execENack at he
  repeat' (split at he)
  all_goals (injection he with he; subst he)
  with_reducible repeat' first
    | assumption | apply recvENack_stable hK | apply consume_keeps (hK.free.sub rfl)

theorem faultGroup_stable {K : State → Prop} (hK : Stable K) {gid : Nat} {s : State} (h0 : K s) :
    K (faultGroup gid s) := by
  unfold faultGroup
  try dsimp -proj only
  with_reducible repeat' first
    | assumption | apply count_keeps (hK.free.sub rfl) | apply freeBuffers_keeps (hK.free.sub rfl)
    | apply updGroup_keeps (hK.free.sub rfl) | apply finishOpAs_keeps (hK.free.sub rfl)
    | apply complete_keeps (hK.free.sub rfl) | apply settled_stable hK
    | apply releaseHostRows_keeps (hK.free.sub rfl) | intro _ | apply keep_forEach | intro _
    | (fail_if_no_progress refine Free.mk hK.free ?_ (Frame.only fun p hp => by
        cases p <;> first
          | exact absurd hp (by with_unfolding_all decide) | exact rfl | exact ⟨rfl, rfl, rfl, rfl, rfl⟩))
    | apply keep_ite | split

theorem sealAlone_stable {K : State → Prop} (hK : Stable K) {gid : Nat} {s : State} (h0 : K s) :
    K (sealAlone gid s) := by
  unfold sealAlone
  try dsimp -proj only
  with_reducible repeat' first
    | assumption | apply updGroup_keeps (hK.free.sub rfl) | apply settled_stable hK
    | apply updOp_keeps (hK.free.sub rfl) | apply flipNow_keeps (hK.free.sub rfl)
    | (fail_if_no_progress refine Free.mk hK.free ?_ (Frame.only fun p hp => by
        cases p <;> first
          | exact absurd hp (by with_unfolding_all decide) | exact rfl | exact ⟨rfl, rfl, rfl, rfl, rfl⟩))
    | apply keep_ite | split

theorem groupMeets_stable {K : State → Prop} (hK : Stable K) {m : Nat} {gid : Nat} {s : State} (h0 : K s) :
    K (groupMeets m gid s) := by
  unfold groupMeets
  try dsimp -proj only
  with_reducible repeat' first
    | assumption | apply castAborts_keeps (hK.free.sub rfl) | apply castEnds_keeps (hK.free.sub rfl)
    | apply castGoes_keeps (hK.free.sub rfl) | apply updGroup_keeps (hK.free.sub rfl) | apply sealAlone_stable hK
    | apply faultGroup_stable hK | (fail_if_no_progress refine Free.mk hK.free ?_ (Frame.only fun p hp => by
        cases p <;> first
          | exact absurd hp (by with_unfolding_all decide) | exact rfl | exact ⟨rfl, rfl, rfl, rfl, rfl⟩))
    | apply keep_ite | split

theorem markGone_stable {K : State → Prop} (hK : Stable K) {m : Nat} {s : State} (h0 : K s) : K (markGone m s) := by
  unfold markGone
  try dsimp -proj only
  with_reducible repeat' first
    | assumption | apply setFault_keeps (hK.free.sub rfl) | apply dropMirrors_keeps (hK.free.sub rfl)
    | apply groupMeets_stable hK | intro _ | (unfold id; assumption) | apply keep_forEach | intro _
    | (fail_if_no_progress refine Free.mk hK.free ?_ (Frame.only fun p hp => by
        cases p <;> first
          | exact absurd hp (by with_unfolding_all decide) | exact rfl | exact ⟨rfl, rfl, rfl, rfl, rfl⟩))
    | apply keep_ite | split

theorem takeover_stable {K : State → Prop} (hK : Stable K) {t : Tok} {s : State} (h0 : K s) : K (takeover t s) := by
  unfold takeover
  with_reducible repeat' first
    | assumption | apply ok_keeps (hK.free.sub rfl) | apply takeOver_keeps (hK.free.sub rfl)
    | apply markGone_stable hK | apply bad_keeps (hK.free.sub rfl) | apply keep_ite | split

theorem execTakeover_stable {K : State → Prop} (hK : Stable K) {sq : BitVec 8} {d : Desc} {s : State}
    (h0 : K s) {st1 : State} (he : execTakeover sq d s = .next st1) : K st1 := by
  unfold execTakeover at he
  repeat' (split at he)
  all_goals (injection he with he; subst he)
  with_reducible repeat' first
    | assumption | apply takeover_stable hK | apply bad_keeps (hK.free.sub rfl) | intro _
    | apply runCommand_keeps (hK.free.sub rfl) | intro _ | apply keep_ite | split

theorem declareLost_stable {K : State → Prop} (hK : Stable K) {m : Nat} {s : State} (h0 : K s) :
    K (declareLost m s) := by
  unfold declareLost
  try dsimp -proj only
  with_reducible repeat' first
    | assumption | apply takeoverCheck_keeps (hK.free.sub rfl) | apply markGone_stable hK
    | apply flood_keeps (hK.free.sub rfl)
    | (fail_if_no_progress refine Free.mk hK.free ?_ (Frame.only fun p hp => by
        cases p <;> first
          | exact absurd hp (by with_unfolding_all decide) | exact rfl | exact ⟨rfl, rfl, rfl, rfl, rfl⟩))
    | apply keep_ite | split

theorem execModuleLost_stable {K : State → Prop} (hK : Stable K) {lane : BitVec 5} {body : BitVec 192}
    {s : State} (h0 : K s) {st1 : State} (he : execModuleLost lane body s = .next st1) : K st1 := by
  unfold execModuleLost at he
  repeat' (split at he)
  all_goals (injection he with he; subst he)
  try dsimp -proj only
  with_reducible repeat' first
    | assumption | apply hearFlood_keeps (hK.free.sub rfl) | apply takeoverCheck_keeps (hK.free.sub rfl)
    | apply markGone_stable hK | intro _ | (fail_if_no_progress refine Free.mk hK.free ?_ (Frame.only fun p hp => by
        cases p <;> first
          | exact absurd hp (by with_unfolding_all decide) | exact rfl | exact ⟨rfl, rfl, rfl, rfl, rfl⟩))
    | apply keep_ite | split

theorem hearShardLost_stable {K : State → Prop} (hK : Stable K) {b : BitVec 192} {s : State} (h0 : K s) :
    K (hearShardLost b s) := by
  unfold hearShardLost
  try dsimp -proj only
  with_reducible repeat' first
    | assumption | apply updShard_keeps (hK.free.sub rfl) | apply settled_stable hK
    | apply dropMirrors_keeps (hK.free.sub rfl) | apply assignHank_keeps (hK.free.sub rfl) | intro _
    | apply keep_forEach | intro _ | (fail_if_no_progress refine Free.mk hK.free ?_ (Frame.only fun p hp => by
        cases p <;> first
          | exact absurd hp (by with_unfolding_all decide) | exact rfl | exact ⟨rfl, rfl, rfl, rfl, rfl⟩))
    | apply keep_ite | split

theorem execShardLost_stable {K : State → Prop} (hK : Stable K) {lane : BitVec 5} {body : BitVec 192}
    {s : State} (h0 : K s) {st1 : State} (he : execShardLost lane body s = .next st1) : K st1 := by
  unfold execShardLost at he
  repeat' (split at he)
  all_goals (injection he with he; subst he)
  with_reducible repeat' first
    | assumption | apply hearFlood_keeps (hK.free.sub rfl) | apply hearShardLost_stable hK | intro _

theorem loseShard_stable {K : State → Prop} (hK : Stable K) {gid : Nat} {k : Nat} {s : State} (h0 : K s) :
    K (loseShard gid k s) := by
  unfold loseShard
  try dsimp -proj only
  with_reducible repeat' first
    | assumption | apply updShard_keeps (hK.free.sub rfl) | apply postEvent_keeps (hK.free.sub rfl)
    | apply flood_keeps (hK.free.sub rfl) | apply failChunk_keeps (hK.free.sub rfl) | apply settled_stable hK
    | apply sealNow_keeps (hK.free.sub rfl) | intro _ | apply keep_forEach | intro _
    | (fail_if_no_progress refine Free.mk hK.free ?_ (Frame.only fun p hp => by
        cases p <;> first
          | exact absurd hp (by with_unfolding_all decide) | exact rfl | exact ⟨rfl, rfl, rfl, rfl, rfl⟩))
    | apply keep_ite | split

theorem hankError_stable {K : State → Prop} (hK : Stable K) {h : Nat} {s : State} (h0 : K s) :
    K (hankError h s) := by
  unfold hankError
  try dsimp -proj only
  with_reducible repeat' first
    | assumption | apply moduleReset_stable hK | apply setHank_keeps (hK.free.sub rfl) | apply loseShard_stable hK
    | apply dropLost_stable hK | apply keep_ite | split

theorem execSkeinUncorrectableError_stable {K : State → Prop} (hK : Stable K) {hank : BitVec 19} {s : State}
    (h0 : K s) {st1 : State} (he : execSkeinUncorrectableError hank s = .next st1) : K st1 := by
  unfold execSkeinUncorrectableError at he
  repeat' (split at he)
  all_goals (injection he with he; subst he)
  with_reducible repeat' first
    | assumption | apply hankError_stable hK

theorem releaseReset_stable {K : State → Prop} (hK : Stable K) {s : State} (h0 : K s) : K (releaseReset s) := by
  unfold releaseReset
  with_reducible repeat' first
    | assumption | apply bootRom_stable hK
    | (fail_if_no_progress refine Free.mk hK.free ?_ (Frame.only fun p hp => by
        cases p <;> first
          | exact absurd hp (by with_unfolding_all decide) | exact rfl | exact ⟨rfl, rfl, rfl, rfl, rfl⟩))
    | apply keep_ite | split

theorem execResetRelease_stable {K : State → Prop} (hK : Stable K) {s : State} (h0 : K s) {st1 : State}
    (he : execResetRelease s = .next st1) : K st1 := by
  unfold execResetRelease at he
  repeat' (split at he)
  all_goals (injection he with he; subst he)
  with_reducible repeat' first
    | assumption | apply releaseReset_stable hK

theorem writeSlot_stable {K : State → Prop} (hK : Stable K) {slot : Bool} {bs : List Byte} {s : State} (h0 : K s) :
    K (writeSlot slot bs s) := by
  unfold writeSlot
  refine hK.flash h0 ?_ (BitVec.le_of_eq ?_) <;> split <;> rfl

theorem stageStep_stable {K : State → Prop} (hK : Stable K) {s : State} (h0 : K s) : K (stageStep s) := by
  unfold stageStep
  try dsimp -proj only
  with_reducible repeat' first
    | assumption | apply fwResult_keeps (hK.free.sub rfl) | apply setResult_keeps (hK.free.sub rfl)
    | apply writeSlot_stable hK | (fail_if_no_progress refine Free.mk hK.free ?_ (Frame.only fun p hp => by
        cases p <;> first
          | exact absurd hp (by with_unfolding_all decide) | exact rfl | exact ⟨rfl, rfl, rfl, rfl, rfl⟩))
    | apply keep_ite | split

theorem fwChoose_stable {K : State → Prop} (hK : Stable K) {op : Nat} {g : BootControl → BootControl}
    {s : State} (h0 : K s) : K (fwChoose op g s) := by
  unfold fwChoose
  try dsimp -proj only
  with_reducible repeat' first
    | assumption | apply fwResult_keeps (hK.free.sub rfl) | apply setResult_keeps (hK.free.sub rfl)
    | apply writeControl_stable hK | apply keep_ite | split

theorem fwTrial_stable {K : State → Prop} (hK : Stable K) {s : State} (h0 : K s) : K (fwTrial s) := by
  unfold fwTrial
  with_reducible repeat' first
    | assumption | apply fwChoose_stable hK
    | (fail_if_no_progress refine Free.mk hK.free ?_ (Frame.only fun p hp => by
        cases p <;> first
          | exact absurd hp (by with_unfolding_all decide) | exact rfl | exact ⟨rfl, rfl, rfl, rfl, rfl⟩))

theorem fwSelect_stable {K : State → Prop} (hK : Stable K) {s : State} (h0 : K s) : K (fwSelect s) := by
  unfold fwSelect
  with_reducible repeat' first
    | assumption | apply fwChoose_stable hK
    | (fail_if_no_progress refine Free.mk hK.free ?_ (Frame.only fun p hp => by
        cases p <;> first
          | exact absurd hp (by with_unfolding_all decide) | exact rfl | exact ⟨rfl, rfl, rfl, rfl, rfl⟩))

theorem fwCommit_stable {K : State → Prop} (hK : Stable K) {s : State} (h0 : K s) : K (fwCommit s) := by
  unfold fwCommit
  with_reducible repeat' first
    | assumption | apply fwResult_keeps (hK.free.sub rfl) | apply writeControl_stable hK
    | (fail_if_no_progress refine Free.mk hK.free ?_ (Frame.only fun p hp => by
        cases p <;> first
          | exact absurd hp (by with_unfolding_all decide) | exact rfl | exact ⟨rfl, rfl, rfl, rfl, rfl⟩))
    | apply keep_ite | split

theorem fwProtect_stable {K : State → Prop} (hK : Stable K) {h : HostRead} {s : State} (h0 : K s) :
    K (fwProtect h s) := by
  unfold fwProtect
  split
  · exact fwResult_keeps (hK.free.sub rfl) h0
  · split
    · exact fwResult_keeps (hK.free.sub rfl) (noteRead_keeps (hK.free.sub rfl) h0)
    · dsimp only
      refine keep_ite ?_ ?_
      · refine fwResult_keeps (hK.free.sub rfl) (hK.flash h0 ?_ (BitVec.le_of_eq ?_)) <;> split <;> rfl
      · exact fwResult_keeps (hK.free.sub rfl) h0

theorem fwUpdate_stable {K : State → Prop} (hK : Stable K) {op : Nat} {v : Nat} {h : HostRead} {s : State}
    (h0 : K s) : K (fwUpdate op v h s) := by
  unfold fwUpdate
  try dsimp -proj only
  with_reducible repeat' first
    | assumption | apply fwFields_keeps (hK.free.sub rfl) | apply fwResult_keeps (hK.free.sub rfl)
    | apply fwStage_keeps (hK.free.sub rfl) | apply fwTrial_stable hK | apply fwCommit_stable hK
    | apply fwSelect_stable hK | apply fwProtect_stable hK
    | (fail_if_no_progress refine Free.mk hK.free ?_ (Frame.only fun p hp => by
        cases p <;> first
          | exact absurd hp (by with_unfolding_all decide) | exact rfl | exact ⟨rfl, rfl, rfl, rfl, rfl⟩))
    | apply keep_ite | split

theorem execStage_stable {K : State → Prop} (hK : Stable K) {value : BitVec 64} {host : HostRead} {s : State}
    (h0 : K s) {st1 : State} (he : execStage value host s = .next st1) : K st1 := by
  unfold execStage at he
  repeat' (split at he)
  all_goals (injection he with he; subst he)
  with_reducible repeat' first
    | assumption | apply fwUpdate_stable hK

theorem execTrial_stable {K : State → Prop} (hK : Stable K) {value : BitVec 64} {s : State} (h0 : K s)
    {st1 : State} (he : execTrial value s = .next st1) : K st1 := by
  unfold execTrial at he
  repeat' (split at he)
  all_goals (injection he with he; subst he)
  with_reducible repeat' first
    | assumption | apply fwUpdate_stable hK

theorem execCommit_stable {K : State → Prop} (hK : Stable K) {value : BitVec 64} {s : State} (h0 : K s)
    {st1 : State} (he : execCommit value s = .next st1) : K st1 := by
  unfold execCommit at he
  repeat' (split at he)
  all_goals (injection he with he; subst he)
  with_reducible repeat' first
    | assumption | apply fwUpdate_stable hK

theorem execSelect_stable {K : State → Prop} (hK : Stable K) {value : BitVec 64} {s : State} (h0 : K s)
    {st1 : State} (he : execSelect value s = .next st1) : K st1 := by
  unfold execSelect at he
  repeat' (split at he)
  all_goals (injection he with he; subst he)
  with_reducible repeat' first
    | assumption | apply fwUpdate_stable hK

theorem execProtect_stable {K : State → Prop} (hK : Stable K) {value : BitVec 64} {host : HostRead} {s : State}
    (h0 : K s) {st1 : State} (he : execProtect value host s = .next st1) : K st1 := by
  unfold execProtect at he
  repeat' (split at he)
  all_goals (injection he with he; subst he)
  with_reducible repeat' first
    | assumption | apply fwUpdate_stable hK

theorem powerUp_stable {K : State → Prop} (hK : Stable K) {s : State} (h0 : K s) : K (powerUp s) := by
  unfold powerUp
  try dsimp -proj only
  with_reducible repeat' first
    | assumption | apply moduleReset_stable hK
    | (fail_if_no_progress refine Free.mk hK.free ?_ (Frame.only fun p hp => by
        cases p <;> first
          | exact absurd hp (by with_unfolding_all decide) | exact rfl | exact ⟨rfl, rfl, rfl, rfl, rfl⟩))
    | apply keep_ite | split

theorem execPwrgdRise_stable {K : State → Prop} (hK : Stable K) {s : State} (h0 : K s) {st1 : State}
    (he : execPwrgdRise s = .next st1) : K st1 := by
  unfold execPwrgdRise at he
  repeat' (split at he)
  all_goals (injection he with he; subst he)
  with_reducible repeat' first
    | assumption | apply powerUp_stable hK

theorem powerDown_stable {K : State → Prop} (hK : Stable K) {pwrgd : Bool} {s : State} (h0 : K s) :
    K (powerDown pwrgd s) := by
  unfold powerDown
  try dsimp -proj only
  with_reducible repeat' first
    | assumption | apply moduleReset_stable hK
    | (fail_if_no_progress refine Free.mk hK.free ?_ (Frame.only fun p hp => by
        cases p <;> first
          | exact absurd hp (by with_unfolding_all decide) | exact rfl | exact ⟨rfl, rfl, rfl, rfl, rfl⟩))

theorem execPwrgdFall_stable {K : State → Prop} (hK : Stable K) {s : State} (h0 : K s) {st1 : State}
    (he : execPwrgdFall s = .next st1) : K st1 := by
  unfold execPwrgdFall at he
  repeat' (split at he)
  all_goals (injection he with he; subst he)
  with_reducible repeat' first
    | assumption | apply powerDown_stable hK

theorem execInputOutOfRange_stable {K : State → Prop} (hK : Stable K) {vin : BitVec 16} {s : State} (h0 : K s)
    {st1 : State} (he : execInputOutOfRange vin s = .next st1) : K st1 := by
  unfold execInputOutOfRange at he
  repeat' (split at he)
  all_goals (injection he with he; subst he)
  with_reducible repeat' first
    | assumption | apply powerDown_stable hK | apply keep_ite | split

theorem resetInput_stable {K : State → Prop} (hK : Stable K) {s : State} (h0 : K s) : K (resetInput s) := by
  unfold resetInput
  try dsimp -proj only
  with_reducible repeat' first
    | assumption | apply moduleReset_stable hK
    | (fail_if_no_progress refine Free.mk hK.free ?_ (Frame.only fun p hp => by
        cases p <;> first
          | exact absurd hp (by with_unfolding_all decide) | exact rfl | exact ⟨rfl, rfl, rfl, rfl, rfl⟩))
    | apply keep_ite | split

theorem execResetNLow_stable {K : State → Prop} (hK : Stable K) {s : State} (h0 : K s) {st1 : State}
    (he : execResetNLow s = .next st1) : K st1 := by
  unfold execResetNLow at he
  repeat' (split at he)
  all_goals (injection he with he; subst he)
  with_reducible repeat' first
    | assumption | apply resetInput_stable hK

theorem execWatchdogExpiry_stable {K : State → Prop} (hK : Stable K) {core : BitVec 2} {s : State} (h0 : K s)
    {st1 : State} (he : execWatchdogExpiry core s = .next st1) : K st1 := by
  unfold execWatchdogExpiry at he
  repeat' (split at he)
  all_goals (injection he with he; subst he)
  with_reducible repeat' first
    | assumption | apply moduleReset_stable hK | apply keep_ite | split

theorem execHeadstockSramError_stable {K : State → Prop} (hK : Stable K) {s : State} (h0 : K s) {st1 : State}
    (he : execHeadstockSramError s = .next st1) : K st1 := by
  unfold execHeadstockSramError at he
  repeat' (split at he)
  all_goals (injection he with he; subst he)
  with_reducible repeat' first
    | assumption | apply poweredReset_stable hK

theorem coreRailFault_stable {K : State → Prop} (hK : Stable K) {s : State} (h0 : K s) : K (coreRailFault s) := by
  unfold coreRailFault
  try dsimp -proj only
  with_reducible repeat' first
    | assumption | apply poweredReset_stable hK
    | (fail_if_no_progress refine Free.mk hK.free ?_ (Frame.only fun p hp => by
        cases p <;> first
          | exact absurd hp (by with_unfolding_all decide) | exact rfl | exact ⟨rfl, rfl, rfl, rfl, rfl⟩))

theorem execCoreRailFault_stable {K : State → Prop} (hK : Stable K) {s : State} (h0 : K s) {st1 : State}
    (he : execCoreRailFault s = .next st1) : K st1 := by
  unfold execCoreRailFault at he
  repeat' (split at he)
  all_goals (injection he with he; subst he)
  with_reducible repeat' first
    | assumption | apply coreRailFault_stable hK

theorem thermalTrip_stable {K : State → Prop} (hK : Stable K) {s : State} (h0 : K s) : K (thermalTrip s) := by
  unfold thermalTrip
  try dsimp -proj only
  with_reducible repeat' first
    | assumption | apply moduleReset_stable hK
    | (fail_if_no_progress refine Free.mk hK.free ?_ (Frame.only fun p hp => by
        cases p <;> first
          | exact absurd hp (by with_unfolding_all decide) | exact rfl | exact ⟨rfl, rfl, rfl, rfl, rfl⟩))

theorem execThermalTrip_stable {K : State → Prop} (hK : Stable K) {part : Junction} {celsius : BitVec 8}
    {s : State} (h0 : K s) {st1 : State} (he : execThermalTrip part celsius s = .next st1) : K st1 := by
  unfold execThermalTrip at he
  repeat' (split at he)
  all_goals (injection he with he; subst he)
  with_reducible repeat' first
    | assumption | apply thermalTrip_stable hK | apply keep_ite | split

theorem execThermalTripRecovery_stable {K : State → Prop} (hK : Stable K) {compute : BitVec 8}
    {bridge : BitVec 8} {skein : BitVec 8} {s : State} (h0 : K s) {st1 : State}
    (he : execThermalTripRecovery compute bridge skein s = .next st1) : K st1 := by
  unfold execThermalTripRecovery at he
  repeat' (split at he)
  all_goals (injection he with he; subst he)
  try dsimp -proj only
  with_reducible repeat' first
    | assumption | apply releaseReset_stable hK
    | (fail_if_no_progress refine Free.mk hK.free ?_ (Frame.only fun p hp => by
        cases p <;> first
          | exact absurd hp (by with_unfolding_all decide) | exact rfl | exact ⟨rfl, rfl, rfl, rfl, rfl⟩))
    | apply keep_ite | split

theorem checkNeighbour_stable {K : State → Prop} (hK : Stable K) {n : Nat} {s : State} (h0 : K s) :
    K (checkNeighbour n s) := by
  unfold checkNeighbour
  with_reducible repeat' first
    | assumption | apply declareLost_stable hK | apply portsLost_keeps (hK.free.sub rfl)
    | (fail_if_no_progress refine Free.mk hK.free ?_ (Frame.only fun p hp => by
        cases p <;> first
          | exact absurd hp (by with_unfolding_all decide) | exact rfl | exact ⟨rfl, rfl, rfl, rfl, rfl⟩))
    | apply keep_ite | split

theorem droneLost_stable {K : State → Prop} (hK : Stable K) {m : Nat} {s : State} (h0 : K s) :
    K (droneLost m s) := by
  unfold droneLost
  try dsimp -proj only
  with_reducible repeat' first
    | assumption | apply checkNeighbour_stable hK | apply droneLock_keeps (hK.free.sub rfl)
    | apply upstreamLost_keeps (hK.free.sub rfl) | apply droneLeaves_keeps (hK.free.sub rfl) | apply keep_ite
    | split

theorem droneTimeout_stable {K : State → Prop} (hK : Stable K) {m : Nat} {s : State} (h0 : K s) :
    K (droneTimeout m s) := by
  unfold droneTimeout
  try dsimp -proj only
  with_reducible repeat' first
    | assumption | apply droneLost_stable hK | apply keep_ite | split

theorem execDroneLaneLost_stable {K : State → Prop} (hK : Stable K) {lane : BitVec 5} {s : State} (h0 : K s)
    {st1 : State} (he : execDroneLaneLost lane s = .next st1) : K st1 := by
  unfold execDroneLaneLost at he
  repeat' (split at he)
  all_goals (injection he with he; subst he)
  with_reducible repeat' first
    | assumption | apply droneTimeout_stable hK

theorem quarantineLane_stable {K : State → Prop} (hK : Stable K) {m : Nat} {cause : Nat} {s : State}
    (h0 : K s) : K (quarantineLane m cause s) := by
  unfold quarantineLane
  try dsimp -proj only
  with_reducible repeat' first
    | assumption | apply upstreamLost_keeps (hK.free.sub rfl) | apply droneLeaves_keeps (hK.free.sub rfl)
    | apply updDrone_keeps (hK.free.sub rfl) | apply postEvent_keeps (hK.free.sub rfl)
    | apply quarantinePort_keeps (hK.free.sub rfl) | apply checkNeighbour_stable hK | intro _ | apply keep_forEach
    | intro _ | (fail_if_no_progress refine Free.mk hK.free ?_ (Frame.only fun p hp => by
        cases p <;> first
          | exact absurd hp (by with_unfolding_all decide) | exact rfl | exact ⟨rfl, rfl, rfl, rfl, rfl⟩))
    | apply keep_ite | split

theorem helloRx_stable {K : State → Prop} (hK : Stable K) {m : Nat} {b : BitVec 224} {s : State} (h0 : K s) :
    K (helloRx m b s) := by
  unfold helloRx
  try dsimp -proj only
  with_reducible repeat' first
    | assumption | apply quarantineLane_stable hK | apply updDrone_keeps (hK.free.sub rfl)
    | apply helloCame_keeps (hK.free.sub rfl) | apply takeUpstream_keeps (hK.free.sub rfl)
    | apply fixLevel_keeps (hK.free.sub rfl)
    | (fail_if_no_progress refine Free.mk hK.free ?_ (Frame.only fun p hp => by
        cases p <;> first
          | exact absurd hp (by with_unfolding_all decide) | exact rfl | exact ⟨rfl, rfl, rfl, rfl, rfl⟩))
    | apply keep_ite | split

theorem execHello_stable {K : State → Prop} (hK : Stable K) {lane : BitVec 5} {body : BitVec 224} {s : State}
    (h0 : K s) {st1 : State} (he : execHello lane body s = .next st1) : K st1 := by
  unfold execHello at he
  repeat' (split at he)
  all_goals (injection he with he; subst he)
  with_reducible repeat' first
    | assumption | apply helloRx_stable hK

theorem droneMeasureFails_stable {K : State → Prop} (hK : Stable K) {m : Nat} {s : State} (h0 : K s) :
    K (droneMeasureFails m s) := by
  unfold droneMeasureFails
  try dsimp -proj only
  with_reducible repeat' first
    | assumption | apply upstreamLost_keeps (hK.free.sub rfl) | apply droneLeaves_keeps (hK.free.sub rfl)
    | apply updDrone_keeps (hK.free.sub rfl) | apply checkNeighbour_stable hK
    | apply postEvent_keeps (hK.free.sub rfl)
    | (fail_if_no_progress refine Free.mk hK.free ?_ (Frame.only fun p hp => by
        cases p <;> first
          | exact absurd hp (by with_unfolding_all decide) | exact rfl | exact ⟨rfl, rfl, rfl, rfl, rfl⟩))
    | apply keep_ite | split

theorem delayReqTx_stable {K : State → Prop} (hK : Stable K) {m : Nat} {s : State} (h0 : K s) :
    K (delayReqTx m s) := by
  unfold delayReqTx
  try dsimp -proj only
  with_reducible repeat' first
    | assumption | apply droneMeasureFails_stable hK | apply droneSend_keeps (hK.free.sub rfl)
    | apply updDrone_keeps (hK.free.sub rfl)
    | (fail_if_no_progress refine Free.mk hK.free ?_ (Frame.only fun p hp => by
        cases p <;> first
          | exact absurd hp (by with_unfolding_all decide) | exact rfl | exact ⟨rfl, rfl, rfl, rfl, rfl⟩))
    | apply keep_ite | split

theorem execDelayReqTx_stable {K : State → Prop} (hK : Stable K) {lane : BitVec 5} {s : State} (h0 : K s)
    {st1 : State} (he : execDelayReqTx lane s = .next st1) : K st1 := by
  unfold execDelayReqTx at he
  repeat' (split at he)
  all_goals (injection he with he; subst he)
  with_reducible repeat' first
    | assumption | apply delayReqTx_stable hK

theorem droneMeasured_stable {K : State → Prop} (hK : Stable K) {m : Nat} {s : State} (h0 : K s) :
    K (droneMeasured m s) := by
  unfold droneMeasured
  try dsimp -proj only
  with_reducible repeat' first
    | assumption | apply updDrone_keeps (hK.free.sub rfl) | apply measured_keeps (hK.free.sub rfl)
    | apply takeUpstream_keeps (hK.free.sub rfl) | apply neighbourBack_keeps (hK.free.sub rfl)
    | apply postEvent_keeps (hK.free.sub rfl) | apply droneMeasureFails_stable hK
    | (fail_if_no_progress refine Free.mk hK.free ?_ (Frame.only fun p hp => by
        cases p <;> first
          | exact absurd hp (by with_unfolding_all decide) | exact rfl | exact ⟨rfl, rfl, rfl, rfl, rfl⟩))
    | apply keep_ite | split

theorem delayRespRx_stable {K : State → Prop} (hK : Stable K) {m : Nat} {req : BitVec 32} {t1 : BitVec 64}
    {t2 : BitVec 64} {t3 : BitVec 64} {s : State} (h0 : K s) : K (delayRespRx m req t1 t2 t3 s) := by
  unfold delayRespRx
  try dsimp -proj only
  with_reducible repeat' first
    | assumption | apply updDrone_keeps (hK.free.sub rfl) | apply droneMeasured_stable hK
    | (fail_if_no_progress refine Free.mk hK.free ?_ (Frame.only fun p hp => by
        cases p <;> first
          | exact absurd hp (by with_unfolding_all decide) | exact rfl | exact ⟨rfl, rfl, rfl, rfl, rfl⟩))
    | apply keep_ite | split

theorem execDelayResp_stable {K : State → Prop} (hK : Stable K) {lane : BitVec 5} {reqId : BitVec 32}
    {t1 : BitVec 64} {t2 : BitVec 64} {t3 : BitVec 64} {s : State} (h0 : K s) {st1 : State}
    (he : execDelayResp lane reqId t1 t2 t3 s = .next st1) : K st1 := by
  unfold execDelayResp at he
  repeat' (split at he)
  all_goals (injection he with he; subst he)
  with_reducible repeat' first
    | assumption | apply delayRespRx_stable hK

theorem disableDrone_stable {K : State → Prop} (hK : Stable K) {m : Nat} {s : State} (h0 : K s) :
    K (disableDrone m s) := by
  unfold disableDrone
  try dsimp -proj only
  with_reducible repeat' first
    | assumption | apply upstreamLost_keeps (hK.free.sub rfl) | apply droneLeaves_keeps (hK.free.sub rfl)
    | apply updDrone_keeps (hK.free.sub rfl) | apply checkNeighbour_stable hK
    | (fail_if_no_progress refine Free.mk hK.free ?_ (Frame.only fun p hp => by
        cases p <;> first
          | exact absurd hp (by with_unfolding_all decide) | exact rfl | exact ⟨rfl, rfl, rfl, rfl, rfl⟩))
    | apply keep_ite | split

theorem loadDrones_stable {K : State → Prop} (hK : Stable K) {es : List (BitVec 192)} {s : State} (h0 : K s) :
    K (loadDrones es s) := by
  unfold loadDrones
  try dsimp -proj only
  with_reducible repeat' first
    | assumption | apply bringUpDrones_keeps (hK.free.sub rfl) | apply disableDrone_stable hK
    | apply updDrone_keeps (hK.free.sub rfl) | intro _ | apply keep_forEach | intro _
    | (fail_if_no_progress refine Free.mk hK.free ?_ (Frame.only fun p hp => by
        cases p <;> first
          | exact absurd hp (by with_unfolding_all decide) | exact rfl | exact ⟨rfl, rfl, rfl, rfl, rfl⟩))
    | apply keep_ite | split

theorem droneTableLoad_stable {K : State → Prop} (hK : Stable K) {d : Desc} {h : HostRead} {t : Tok}
    {s : State} (h0 : K s) : K (droneTableLoad d h t s) := by
  unfold droneTableLoad
  try dsimp -proj only
  with_reducible repeat' first
    | assumption | apply bad_keeps (hK.free.sub rfl) | apply noteRead_keeps (hK.free.sub rfl)
    | apply ok_keeps (hK.free.sub rfl) | apply loadDrones_stable hK | apply keep_ite | split

theorem execDroneTableLoad_stable {K : State → Prop} (hK : Stable K) {sq : BitVec 8} {d : Desc}
    {host : HostRead} {s : State} (h0 : K s) {st1 : State} (he : execDroneTableLoad sq d host s = .next st1) : K
    st1 := by
  unfold execDroneTableLoad at he
  repeat' (split at he)
  all_goals (injection he with he; subst he)
  with_reducible repeat' first
    | assumption | apply droneTableLoad_stable hK | apply bad_keeps (hK.free.sub rfl) | intro _
    | apply runCommand_keeps (hK.free.sub rfl) | intro _ | apply keep_ite | split

theorem restartDrone_stable {K : State → Prop} (hK : Stable K) {m : Nat} {t : Tok} {s : State} (h0 : K s) :
    K (restartDrone m t s) := by
  unfold restartDrone
  with_reducible repeat' first
    | assumption | apply bad_keeps (hK.free.sub rfl) | apply ok_keeps (hK.free.sub rfl) | apply droneLost_stable hK
    | apply droneLock_keeps (hK.free.sub rfl) | apply keep_ite | split

theorem portRestart_stable {K : State → Prop} (hK : Stable K) {d : Desc} {t : Tok} {s : State} (h0 : K s) :
    K (portRestart d t s) := by
  unfold portRestart
  try dsimp -proj only
  with_reducible repeat' first
    | assumption | apply restartPort_keeps (hK.free.sub rfl) | apply bad_keeps (hK.free.sub rfl)
    | apply restartDrone_stable hK | apply keep_ite | split

theorem execPortRestart_stable {K : State → Prop} (hK : Stable K) {sq : BitVec 8} {d : Desc} {s : State}
    (h0 : K s) {st1 : State} (he : execPortRestart sq d s = .next st1) : K st1 := by
  unfold execPortRestart at he
  repeat' (split at he)
  all_goals (injection he with he; subst he)
  with_reducible repeat' first
    | assumption | apply portRestart_stable hK | apply bad_keeps (hK.free.sub rfl) | intro _
    | apply runCommand_keeps (hK.free.sub rfl) | intro _ | apply keep_ite | split

theorem hearCourse_stable {K : State → Prop} (hK : Stable K) {lane : Nat} {b : BitVec 192} {s : State}
    (h0 : K s) : K (hearCourse lane b s) := by
  unfold hearCourse
  try dsimp -proj only
  with_reducible repeat' first
    | assumption | apply quarantineLane_stable hK | apply decideCourse_keeps (hK.free.sub rfl)
    | (fail_if_no_progress refine Free.mk hK.free ?_ (Frame.only fun p hp => by
        cases p <;> first
          | exact absurd hp (by with_unfolding_all decide) | exact rfl | exact ⟨rfl, rfl, rfl, rfl, rfl⟩))
    | apply keep_ite | split

theorem execCourse_stable {K : State → Prop} (hK : Stable K) {lane : BitVec 5} {body : BitVec 192} {s : State}
    (h0 : K s) {st1 : State} (he : execCourse lane body s = .next st1) : K st1 := by
  unfold execCourse at he
  repeat' (split at he)
  all_goals (injection he with he; subst he)
  with_reducible repeat' first
    | assumption | apply hearPartner_keeps (hK.free.sub rfl) | apply hearCourse_stable hK | intro _

theorem writeHostCtrl_stable {K : State → Prop} (hK : Stable K) {v : Nat} {s : State} (h0 : K s) :
    K (writeHostCtrl v s) := by
  unfold writeHostCtrl
  with_reducible repeat' first
    | assumption | apply poweredReset_stable hK | apply hostInterfaceReset_keeps (hK.free.sub rfl)
    | apply setRingsEn_keeps (hK.free.sub rfl) | apply keep_ite | split

theorem writeNarrow_stable {K : State → Prop} (hK : Stable K) {off : Nat} {v : Nat} {s : State} (h0 : K s) :
    K (writeNarrow off v s) := by
  unfold writeNarrow
  with_reducible repeat' first
    | assumption | apply writeWord_keeps (hK.free.sub rfl) | apply writeHostCtrl_stable hK
    | apply writeFabricId_keeps (hK.free.sub rfl) | apply writeRefCtrl_keeps (hK.free.sub rfl)
    | apply writeCourseCfg_keeps (hK.free.sub rfl) | apply writeSampleCtrl_keeps (hK.free.sub rfl)
    | apply attest_keeps (hK.free.sub rfl) | apply writePwrCfg_keeps (hK.free.sub rfl)
    | apply writeCarve_keeps (hK.free.sub rfl) | apply writeSqCtrl_keeps (hK.free.sub rfl)
    | (fail_if_no_progress refine Free.mk hK.free ?_ (Frame.only fun p hp => by
        cases p <;> first
          | exact absurd hp (by with_unfolding_all decide) | exact rfl | exact ⟨rfl, rfl, rfl, rfl, rfl⟩))
    | apply keep_ite | split

theorem writeWide_stable {K : State → Prop} (hK : Stable K) {off : Nat} {v : Nat} {s : State} (h0 : K s) :
    K (writeWide off v s) := by
  unfold writeWide
  with_reducible repeat' first
    | assumption | apply writeDumpCtrl_keeps (hK.free.sub rfl) | apply fwUpdate_stable hK
    | apply writeSelector_keeps (hK.free.sub rfl) | apply updSq_keeps (hK.free.sub rfl)
    | apply updCq_keeps (hK.free.sub rfl) | apply writeCqCtrl_keeps (hK.free.sub rfl)
    | (fail_if_no_progress refine Free.mk hK.free ?_ (Frame.only fun p hp => by
        cases p <;> first
          | exact absurd hp (by with_unfolding_all decide) | exact rfl | exact ⟨rfl, rfl, rfl, rfl, rfl⟩))
    | apply keep_ite | split

theorem write32_stable {K : State → Prop} (hK : Stable K) {off : Nat} {v : Nat} {s : State} (h0 : K s) :
    K (write32 off v s) := by
  unfold write32
  try dsimp -proj only
  with_reducible repeat' first
    | assumption | apply writeNarrow_stable hK | apply writeWide_stable hK
    | (fail_if_no_progress refine Free.mk hK.free ?_ (Frame.only fun p hp => by
        cases p <;> first
          | exact absurd hp (by with_unfolding_all decide) | exact rfl | exact ⟨rfl, rfl, rfl, rfl, rfl⟩))
    | apply keep_ite | split

theorem write64_stable {K : State → Prop} (hK : Stable K) {off : Nat} {v : Nat} {s : State} (h0 : K s) :
    K (write64 off v s) := by
  unfold write64
  with_reducible repeat' first
    | assumption | apply writeWide_stable hK | apply write32_stable hK | apply keep_ite | split

theorem writeBar_stable {K : State → Prop} (hK : Stable K) {a : BarAddr} {w : AccessWidth} {v : Nat}
    {s : State} (h0 : K s) : K (writeBar a w v s) := by
  unfold writeBar
  with_reducible repeat' first
    | assumption | apply write32_stable hK | apply write64_stable hK | apply doorbell_keeps (hK.free.sub rfl)
    | split

theorem execRegisterWrite_stable {K : State → Prop} (hK : Stable K) {offset : BarAddr} {width : AccessWidth}
    {value : BitVec 64} {s : State} (h0 : K s) {st1 : State}
    (he : execRegisterWrite offset width value s = .next st1) : K st1 := by
  unfold execRegisterWrite at he
  repeat' (split at he)
  all_goals (injection he with he; subst he)
  with_reducible repeat' first
    | assumption | apply hostAccess_keeps (hK.free.sub rfl) | apply writeBar_stable hK | intro _

theorem execRegisterHalfAccess_stable {K : State → Prop} (hK : Stable K) {offset : BitVec 26} {write : Bool}
    {value : BitVec 32} {s : State} (h0 : K s) {st1 : State}
    (he : execRegisterHalfAccess offset write value s = .next st1) : K st1 := by
  unfold execRegisterHalfAccess at he
  repeat' (split at he)
  all_goals (injection he with he; subst he)
  with_reducible repeat' first
    | assumption | apply hostAccess_keeps (hK.free.sub rfl) | apply write32_stable hK
    | apply read32_keeps (hK.free.sub rfl) | intro _ | apply keep_ite | split

theorem poisonCtx_stable {K : State → Prop} (hK : Stable K) {gid : Nat} {k : Nat × Option Nat} {c : Ctx}
    {s : State} (h0 : K s) : K (poisonCtx gid k c s) := by
  unfold poisonCtx
  with_reducible repeat' first
    | assumption | apply dropRunning_stable hK | apply dropWaiting_keeps (hK.free.sub rfl)
    | apply takeAbort_keeps (hK.free.sub rfl) | apply count_keeps (hK.free.sub rfl) | apply keep_ite | split

theorem poisonMap_stable {K : State → Prop} (hK : Stable K) {gid : Nat} {x : Stitch} {b : Nat} {s : State}
    (h0 : K s) : K (poisonMap gid x b s) := by
  unfold poisonMap
  try dsimp -proj only
  with_reducible repeat' first
    | assumption | apply dropRunning_stable hK | apply releaseHolder_keeps (hK.free.sub rfl)
    | apply count_keeps (hK.free.sub rfl) | apply failApply_keeps (hK.free.sub rfl)
    | (fail_if_no_progress refine Free.mk hK.free ?_ (Frame.only fun p hp => by
        cases p <;> first
          | exact absurd hp (by with_unfolding_all decide) | exact rfl | exact ⟨rfl, rfl, rfl, rfl, rfl⟩)) | split

theorem poisonBuffer_stable {K : State → Prop} (hK : Stable K) {g : Group} {b : Nat} {s : State} (h0 : K s) :
    K (poisonBuffer g b s) := by
  unfold poisonBuffer
  try dsimp -proj only
  with_reducible repeat' first
    | assumption | apply poisonCtx_stable hK | apply poisonMap_stable hK | apply poisonPart_keeps (hK.free.sub rfl)
    | apply discardOwn_keeps (hK.free.sub rfl) | apply updGroup_keeps (hK.free.sub rfl)
    | apply poisonTransfer_keeps (hK.free.sub rfl) | apply trimHeld_keeps (hK.free.sub rfl)
    | apply settled_stable hK | intro _ | (unfold id; assumption) | apply keep_forEach | intro _
    | (fail_if_no_progress refine Free.mk hK.free ?_ (Frame.only fun p hp => by
        cases p <;> first
          | exact absurd hp (by with_unfolding_all decide) | exact rfl | exact ⟨rfl, rfl, rfl, rfl, rfl⟩))

theorem poisonCell_stable {K : State → Prop} (hK : Stable K) {cell : Nat × Nat} {s : State} (h0 : K s) :
    K (poisonCell cell s) := by
  unfold poisonCell
  try dsimp -proj only
  with_reducible repeat' first
    | assumption | apply discardQueued_keeps (hK.free.sub rfl) | apply discardInbox_keeps (hK.free.sub rfl)
    | apply loseSample_keeps (hK.free.sub rfl) | apply freeCell_keeps (hK.free.sub rfl)
    | apply poisonBuffer_stable hK | intro _ | apply keep_forEach | intro _
    | (fail_if_no_progress refine Free.mk hK.free ?_ (Frame.only fun p hp => by
        cases p <;> first
          | exact absurd hp (by with_unfolding_all decide) | exact rfl | exact ⟨rfl, rfl, rfl, rfl, rfl⟩)) | split

theorem strike_stable {K : State → Prop} (hK : Stable K) {f : DataFault} {s : State} (h0 : K s) :
    K (strike f s) := by
  unfold strike
  with_reducible repeat' first
    | assumption | apply poisonCell_stable hK | apply discardQueued_keeps (hK.free.sub rfl)
    | apply discardInbox_keeps (hK.free.sub rfl) | apply dropRunning_stable hK | split

theorem tickErrors_stable {K : State → Prop} (hK : Stable K) {s : State} (h0 : K s) : K (tickErrors s) := by
  unfold tickErrors
  try dsimp -proj only
  with_reducible repeat' first
    | assumption | apply strike_stable hK | apply correctWords_keeps (hK.free.sub rfl)
    | apply correctErrors_keeps (hK.free.sub rfl) | intro _ | apply keep_forEach | intro _ | apply keep_ite | split

theorem tick_stable {K : State → Prop} (hK : Stable K) {s : State} (h0 : K s) : K (tick s) := by
  unfold tick
  try dsimp -proj only
  with_reducible repeat' first
    | assumption | apply resendLeaving_keeps (hK.free.sub rfl) | apply signStep_keeps (hK.free.sub rfl)
    | apply attestStep_keeps (hK.free.sub rfl) | apply stageStep_stable hK
    | apply serveWatchdog_keeps (hK.free.sub rfl) | apply driveLines_keeps (hK.free.sub rfl)
    | apply testHeads_keeps (hK.free.sub rfl) | apply tickHandshakes_stable hK
    | apply tickRails_keeps (hK.free.sub rfl) | apply tickRate_keeps (hK.free.sub rfl) | apply tickErrors_stable hK
    | apply takeRecord_keeps (hK.free.sub rfl) | apply applySelectors_keeps (hK.free.sub rfl) | intro _
    | (unfold id; assumption) | apply keep_forEach | intro _
    | (fail_if_no_progress refine Free.mk hK.free ?_ (Frame.only fun p hp => by
        cases p <;> first
          | exact absurd hp (by with_unfolding_all decide) | exact rfl | exact ⟨rfl, rfl, rfl, rfl, rfl⟩))
    | apply keep_ite | split

end Sys2Proof.Machine
end

