-- ==== Sys2Proof/Laws/State.lean ====
section
/-!
SUPPORT. Laws of the state: each field under each update of one register, table entry or record, and what a lookup gives
after an update.
-/
namespace Sys2Proof.Machine

variable {s : State}

/-! ## Fields an update leaves alone -/

@[simp] theorem updSq_flash {n : Nat} {f : Sq → Sq} : (updSq n f s).flash = s.flash := rfl
@[simp] theorem updSq_rows {n : Nat} {f : Sq → Sq} : (updSq n f s).rows = s.rows := rfl
@[simp] theorem updSq_slots {n : Nat} {f : Sq → Sq} : (updSq n f s).slots = s.slots := rfl
@[simp] theorem updSq_pools {n : Nat} {f : Sq → Sq} : (updSq n f s).pools = s.pools := rfl
@[simp] theorem updSq_skein {n : Nat} {f : Sq → Sq} : (updSq n f s).skein = s.skein := rfl
@[simp] theorem updSq_groups {n : Nat} {f : Sq → Sq} : (updSq n f s).groups = s.groups := rfl
@[simp] theorem updSq_bed {n : Nat} {f : Sq → Sq} : (updSq n f s).bed = s.bed := rfl
@[simp] theorem updSq_ports {n : Nat} {f : Sq → Sq} : (updSq n f s).ports = s.ports := rfl
@[simp] theorem updSq_drones {n : Nat} {f : Sq → Sq} : (updSq n f s).drones = s.drones := rfl
@[simp] theorem updSq_clock {n : Nat} {f : Sq → Sq} : (updSq n f s).clock = s.clock := rfl
@[simp] theorem updSq_routing {n : Nat} {f : Sq → Sq} : (updSq n f s).routing = s.routing := rfl
@[simp] theorem updSq_traffic {n : Nat} {f : Sq → Sq} : (updSq n f s).traffic = s.traffic := rfl
@[simp] theorem updSq_flows {n : Nat} {f : Sq → Sq} : (updSq n f s).flows = s.flows := rfl
@[simp] theorem updSq_course {n : Nat} {f : Sq → Sq} : (updSq n f s).course = s.course := rfl
@[simp] theorem updSq_perf {n : Nat} {f : Sq → Sq} : (updSq n f s).perf = s.perf := rfl
@[simp] theorem updSq_boot {n : Nat} {f : Sq → Sq} : (updSq n f s).boot = s.boot := rfl
@[simp] theorem updSq_power {n : Nat} {f : Sq → Sq} : (updSq n f s).power = s.power := rfl
@[simp] theorem updSq_drops {n : Nat} {f : Sq → Sq} : (updSq n f s).drops = s.drops := rfl
@[simp] theorem updSq_out {n : Nat} {f : Sq → Sq} : (updSq n f s).out = s.out := rfl
@[simp] theorem updSq_pending {n : Nat} {f : Sq → Sq} : (updSq n f s).pending = s.pending := rfl

@[simp] theorem updCq_flash {n : Nat} {f : Cq → Cq} : (updCq n f s).flash = s.flash := rfl
@[simp] theorem updCq_rows {n : Nat} {f : Cq → Cq} : (updCq n f s).rows = s.rows := rfl
@[simp] theorem updCq_slots {n : Nat} {f : Cq → Cq} : (updCq n f s).slots = s.slots := rfl
@[simp] theorem updCq_pools {n : Nat} {f : Cq → Cq} : (updCq n f s).pools = s.pools := rfl
@[simp] theorem updCq_skein {n : Nat} {f : Cq → Cq} : (updCq n f s).skein = s.skein := rfl
@[simp] theorem updCq_groups {n : Nat} {f : Cq → Cq} : (updCq n f s).groups = s.groups := rfl
@[simp] theorem updCq_bed {n : Nat} {f : Cq → Cq} : (updCq n f s).bed = s.bed := rfl
@[simp] theorem updCq_ports {n : Nat} {f : Cq → Cq} : (updCq n f s).ports = s.ports := rfl
@[simp] theorem updCq_drones {n : Nat} {f : Cq → Cq} : (updCq n f s).drones = s.drones := rfl
@[simp] theorem updCq_clock {n : Nat} {f : Cq → Cq} : (updCq n f s).clock = s.clock := rfl
@[simp] theorem updCq_routing {n : Nat} {f : Cq → Cq} : (updCq n f s).routing = s.routing := rfl
@[simp] theorem updCq_traffic {n : Nat} {f : Cq → Cq} : (updCq n f s).traffic = s.traffic := rfl
@[simp] theorem updCq_flows {n : Nat} {f : Cq → Cq} : (updCq n f s).flows = s.flows := rfl
@[simp] theorem updCq_course {n : Nat} {f : Cq → Cq} : (updCq n f s).course = s.course := rfl
@[simp] theorem updCq_perf {n : Nat} {f : Cq → Cq} : (updCq n f s).perf = s.perf := rfl
@[simp] theorem updCq_boot {n : Nat} {f : Cq → Cq} : (updCq n f s).boot = s.boot := rfl
@[simp] theorem updCq_power {n : Nat} {f : Cq → Cq} : (updCq n f s).power = s.power := rfl
@[simp] theorem updCq_drops {n : Nat} {f : Cq → Cq} : (updCq n f s).drops = s.drops := rfl
@[simp] theorem updCq_out {n : Nat} {f : Cq → Cq} : (updCq n f s).out = s.out := rfl
@[simp] theorem updCq_pending {n : Nat} {f : Cq → Cq} : (updCq n f s).pending = s.pending := rfl

@[simp] theorem updPort_flash {p : Nat} {f : Port → Port} : (updPort p f s).flash = s.flash := rfl
@[simp] theorem updPort_host {p : Nat} {f : Port → Port} : (updPort p f s).host = s.host := rfl
@[simp] theorem updPort_rows {p : Nat} {f : Port → Port} : (updPort p f s).rows = s.rows := rfl
@[simp] theorem updPort_slots {p : Nat} {f : Port → Port} : (updPort p f s).slots = s.slots := rfl
@[simp] theorem updPort_pools {p : Nat} {f : Port → Port} : (updPort p f s).pools = s.pools := rfl
@[simp] theorem updPort_skein {p : Nat} {f : Port → Port} : (updPort p f s).skein = s.skein := rfl
@[simp] theorem updPort_groups {p : Nat} {f : Port → Port} : (updPort p f s).groups = s.groups := rfl
@[simp] theorem updPort_bed {p : Nat} {f : Port → Port} : (updPort p f s).bed = s.bed := rfl
@[simp] theorem updPort_drones {p : Nat} {f : Port → Port} : (updPort p f s).drones = s.drones := rfl
@[simp] theorem updPort_clock {p : Nat} {f : Port → Port} : (updPort p f s).clock = s.clock := rfl
@[simp] theorem updPort_routing {p : Nat} {f : Port → Port} : (updPort p f s).routing = s.routing := rfl
@[simp] theorem updPort_traffic {p : Nat} {f : Port → Port} : (updPort p f s).traffic = s.traffic := rfl
@[simp] theorem updPort_flows {p : Nat} {f : Port → Port} : (updPort p f s).flows = s.flows := rfl
@[simp] theorem updPort_course {p : Nat} {f : Port → Port} : (updPort p f s).course = s.course := rfl
@[simp] theorem updPort_perf {p : Nat} {f : Port → Port} : (updPort p f s).perf = s.perf := rfl
@[simp] theorem updPort_boot {p : Nat} {f : Port → Port} : (updPort p f s).boot = s.boot := rfl
@[simp] theorem updPort_power {p : Nat} {f : Port → Port} : (updPort p f s).power = s.power := rfl
@[simp] theorem updPort_drops {p : Nat} {f : Port → Port} : (updPort p f s).drops = s.drops := rfl
@[simp] theorem updPort_out {p : Nat} {f : Port → Port} : (updPort p f s).out = s.out := rfl
@[simp] theorem updPort_pending {p : Nat} {f : Port → Port} : (updPort p f s).pending = s.pending := rfl

@[simp] theorem updDrone_flash {m : Nat} {f : Drone → Drone} : (updDrone m f s).flash = s.flash := rfl
@[simp] theorem updDrone_host {m : Nat} {f : Drone → Drone} : (updDrone m f s).host = s.host := rfl
@[simp] theorem updDrone_rows {m : Nat} {f : Drone → Drone} : (updDrone m f s).rows = s.rows := rfl
@[simp] theorem updDrone_slots {m : Nat} {f : Drone → Drone} : (updDrone m f s).slots = s.slots := rfl
@[simp] theorem updDrone_pools {m : Nat} {f : Drone → Drone} : (updDrone m f s).pools = s.pools := rfl
@[simp] theorem updDrone_skein {m : Nat} {f : Drone → Drone} : (updDrone m f s).skein = s.skein := rfl
@[simp] theorem updDrone_groups {m : Nat} {f : Drone → Drone} : (updDrone m f s).groups = s.groups := rfl
@[simp] theorem updDrone_bed {m : Nat} {f : Drone → Drone} : (updDrone m f s).bed = s.bed := rfl
@[simp] theorem updDrone_ports {m : Nat} {f : Drone → Drone} : (updDrone m f s).ports = s.ports := rfl
@[simp] theorem updDrone_clock {m : Nat} {f : Drone → Drone} : (updDrone m f s).clock = s.clock := rfl
@[simp] theorem updDrone_routing {m : Nat} {f : Drone → Drone} : (updDrone m f s).routing = s.routing := rfl
@[simp] theorem updDrone_traffic {m : Nat} {f : Drone → Drone} : (updDrone m f s).traffic = s.traffic := rfl
@[simp] theorem updDrone_flows {m : Nat} {f : Drone → Drone} : (updDrone m f s).flows = s.flows := rfl
@[simp] theorem updDrone_course {m : Nat} {f : Drone → Drone} : (updDrone m f s).course = s.course := rfl
@[simp] theorem updDrone_perf {m : Nat} {f : Drone → Drone} : (updDrone m f s).perf = s.perf := rfl
@[simp] theorem updDrone_boot {m : Nat} {f : Drone → Drone} : (updDrone m f s).boot = s.boot := rfl
@[simp] theorem updDrone_power {m : Nat} {f : Drone → Drone} : (updDrone m f s).power = s.power := rfl
@[simp] theorem updDrone_drops {m : Nat} {f : Drone → Drone} : (updDrone m f s).drops = s.drops := rfl
@[simp] theorem updDrone_out {m : Nat} {f : Drone → Drone} : (updDrone m f s).out = s.out := rfl
@[simp] theorem updDrone_pending {m : Nat} {f : Drone → Drone} : (updDrone m f s).pending = s.pending := rfl

@[simp] theorem updSlot_flash {n : Nat} {f : Slot → Slot} : (updSlot n f s).flash = s.flash := rfl
@[simp] theorem updSlot_host {n : Nat} {f : Slot → Slot} : (updSlot n f s).host = s.host := rfl
@[simp] theorem updSlot_rows {n : Nat} {f : Slot → Slot} : (updSlot n f s).rows = s.rows := rfl
@[simp] theorem updSlot_pools {n : Nat} {f : Slot → Slot} : (updSlot n f s).pools = s.pools := rfl
@[simp] theorem updSlot_skein {n : Nat} {f : Slot → Slot} : (updSlot n f s).skein = s.skein := rfl
@[simp] theorem updSlot_groups {n : Nat} {f : Slot → Slot} : (updSlot n f s).groups = s.groups := rfl
@[simp] theorem updSlot_bed {n : Nat} {f : Slot → Slot} : (updSlot n f s).bed = s.bed := rfl
@[simp] theorem updSlot_ports {n : Nat} {f : Slot → Slot} : (updSlot n f s).ports = s.ports := rfl
@[simp] theorem updSlot_drones {n : Nat} {f : Slot → Slot} : (updSlot n f s).drones = s.drones := rfl
@[simp] theorem updSlot_clock {n : Nat} {f : Slot → Slot} : (updSlot n f s).clock = s.clock := rfl
@[simp] theorem updSlot_routing {n : Nat} {f : Slot → Slot} : (updSlot n f s).routing = s.routing := rfl
@[simp] theorem updSlot_traffic {n : Nat} {f : Slot → Slot} : (updSlot n f s).traffic = s.traffic := rfl
@[simp] theorem updSlot_flows {n : Nat} {f : Slot → Slot} : (updSlot n f s).flows = s.flows := rfl
@[simp] theorem updSlot_course {n : Nat} {f : Slot → Slot} : (updSlot n f s).course = s.course := rfl
@[simp] theorem updSlot_perf {n : Nat} {f : Slot → Slot} : (updSlot n f s).perf = s.perf := rfl
@[simp] theorem updSlot_boot {n : Nat} {f : Slot → Slot} : (updSlot n f s).boot = s.boot := rfl
@[simp] theorem updSlot_power {n : Nat} {f : Slot → Slot} : (updSlot n f s).power = s.power := rfl
@[simp] theorem updSlot_drops {n : Nat} {f : Slot → Slot} : (updSlot n f s).drops = s.drops := rfl
@[simp] theorem updSlot_out {n : Nat} {f : Slot → Slot} : (updSlot n f s).out = s.out := rfl
@[simp] theorem updSlot_pending {n : Nat} {f : Slot → Slot} : (updSlot n f s).pending = s.pending := rfl

@[simp] theorem updGroup_flash {i : Nat} {f : Group → Group} : (updGroup i f s).flash = s.flash := rfl
@[simp] theorem updGroup_host {i : Nat} {f : Group → Group} : (updGroup i f s).host = s.host := rfl
@[simp] theorem updGroup_rows {i : Nat} {f : Group → Group} : (updGroup i f s).rows = s.rows := rfl
@[simp] theorem updGroup_slots {i : Nat} {f : Group → Group} : (updGroup i f s).slots = s.slots := rfl
@[simp] theorem updGroup_pools {i : Nat} {f : Group → Group} : (updGroup i f s).pools = s.pools := rfl
@[simp] theorem updGroup_skein {i : Nat} {f : Group → Group} : (updGroup i f s).skein = s.skein := rfl
@[simp] theorem updGroup_bed {i : Nat} {f : Group → Group} : (updGroup i f s).bed = s.bed := rfl
@[simp] theorem updGroup_ports {i : Nat} {f : Group → Group} : (updGroup i f s).ports = s.ports := rfl
@[simp] theorem updGroup_drones {i : Nat} {f : Group → Group} : (updGroup i f s).drones = s.drones := rfl
@[simp] theorem updGroup_clock {i : Nat} {f : Group → Group} : (updGroup i f s).clock = s.clock := rfl
@[simp] theorem updGroup_routing {i : Nat} {f : Group → Group} : (updGroup i f s).routing = s.routing := rfl
@[simp] theorem updGroup_traffic {i : Nat} {f : Group → Group} : (updGroup i f s).traffic = s.traffic := rfl
@[simp] theorem updGroup_flows {i : Nat} {f : Group → Group} : (updGroup i f s).flows = s.flows := rfl
@[simp] theorem updGroup_course {i : Nat} {f : Group → Group} : (updGroup i f s).course = s.course := rfl
@[simp] theorem updGroup_perf {i : Nat} {f : Group → Group} : (updGroup i f s).perf = s.perf := rfl
@[simp] theorem updGroup_boot {i : Nat} {f : Group → Group} : (updGroup i f s).boot = s.boot := rfl
@[simp] theorem updGroup_power {i : Nat} {f : Group → Group} : (updGroup i f s).power = s.power := rfl
@[simp] theorem updGroup_drops {i : Nat} {f : Group → Group} : (updGroup i f s).drops = s.drops := rfl
@[simp] theorem updGroup_out {i : Nat} {f : Group → Group} : (updGroup i f s).out = s.out := rfl
@[simp] theorem updGroup_pending {i : Nat} {f : Group → Group} : (updGroup i f s).pending = s.pending := rfl

@[simp] theorem updPool_flash {n : Nat} {f : Pool → Pool} : (updPool n f s).flash = s.flash := rfl
@[simp] theorem updPool_host {n : Nat} {f : Pool → Pool} : (updPool n f s).host = s.host := rfl
@[simp] theorem updPool_rows {n : Nat} {f : Pool → Pool} : (updPool n f s).rows = s.rows := rfl
@[simp] theorem updPool_slots {n : Nat} {f : Pool → Pool} : (updPool n f s).slots = s.slots := rfl
@[simp] theorem updPool_skein {n : Nat} {f : Pool → Pool} : (updPool n f s).skein = s.skein := rfl
@[simp] theorem updPool_groups {n : Nat} {f : Pool → Pool} : (updPool n f s).groups = s.groups := rfl
@[simp] theorem updPool_bed {n : Nat} {f : Pool → Pool} : (updPool n f s).bed = s.bed := rfl
@[simp] theorem updPool_ports {n : Nat} {f : Pool → Pool} : (updPool n f s).ports = s.ports := rfl
@[simp] theorem updPool_drones {n : Nat} {f : Pool → Pool} : (updPool n f s).drones = s.drones := rfl
@[simp] theorem updPool_clock {n : Nat} {f : Pool → Pool} : (updPool n f s).clock = s.clock := rfl
@[simp] theorem updPool_routing {n : Nat} {f : Pool → Pool} : (updPool n f s).routing = s.routing := rfl
@[simp] theorem updPool_traffic {n : Nat} {f : Pool → Pool} : (updPool n f s).traffic = s.traffic := rfl
@[simp] theorem updPool_flows {n : Nat} {f : Pool → Pool} : (updPool n f s).flows = s.flows := rfl
@[simp] theorem updPool_course {n : Nat} {f : Pool → Pool} : (updPool n f s).course = s.course := rfl
@[simp] theorem updPool_perf {n : Nat} {f : Pool → Pool} : (updPool n f s).perf = s.perf := rfl
@[simp] theorem updPool_boot {n : Nat} {f : Pool → Pool} : (updPool n f s).boot = s.boot := rfl
@[simp] theorem updPool_power {n : Nat} {f : Pool → Pool} : (updPool n f s).power = s.power := rfl
@[simp] theorem updPool_drops {n : Nat} {f : Pool → Pool} : (updPool n f s).drops = s.drops := rfl
@[simp] theorem updPool_out {n : Nat} {f : Pool → Pool} : (updPool n f s).out = s.out := rfl
@[simp] theorem updPool_pending {n : Nat} {f : Pool → Pool} : (updPool n f s).pending = s.pending := rfl

@[simp] theorem setHank_flash {st : HankState} {h : Nat} : (setHank st h s).flash = s.flash := rfl
@[simp] theorem setHank_host {st : HankState} {h : Nat} : (setHank st h s).host = s.host := rfl
@[simp] theorem setHank_rows {st : HankState} {h : Nat} : (setHank st h s).rows = s.rows := rfl
@[simp] theorem setHank_slots {st : HankState} {h : Nat} : (setHank st h s).slots = s.slots := rfl
@[simp] theorem setHank_pools {st : HankState} {h : Nat} : (setHank st h s).pools = s.pools := rfl
@[simp] theorem setHank_groups {st : HankState} {h : Nat} : (setHank st h s).groups = s.groups := rfl
@[simp] theorem setHank_bed {st : HankState} {h : Nat} : (setHank st h s).bed = s.bed := rfl
@[simp] theorem setHank_ports {st : HankState} {h : Nat} : (setHank st h s).ports = s.ports := rfl
@[simp] theorem setHank_drones {st : HankState} {h : Nat} : (setHank st h s).drones = s.drones := rfl
@[simp] theorem setHank_clock {st : HankState} {h : Nat} : (setHank st h s).clock = s.clock := rfl
@[simp] theorem setHank_routing {st : HankState} {h : Nat} : (setHank st h s).routing = s.routing := rfl
@[simp] theorem setHank_traffic {st : HankState} {h : Nat} : (setHank st h s).traffic = s.traffic := rfl
@[simp] theorem setHank_flows {st : HankState} {h : Nat} : (setHank st h s).flows = s.flows := rfl
@[simp] theorem setHank_course {st : HankState} {h : Nat} : (setHank st h s).course = s.course := rfl
@[simp] theorem setHank_perf {st : HankState} {h : Nat} : (setHank st h s).perf = s.perf := rfl
@[simp] theorem setHank_boot {st : HankState} {h : Nat} : (setHank st h s).boot = s.boot := rfl
@[simp] theorem setHank_power {st : HankState} {h : Nat} : (setHank st h s).power = s.power := rfl
@[simp] theorem setHank_drops {st : HankState} {h : Nat} : (setHank st h s).drops = s.drops := rfl
@[simp] theorem setHank_out {st : HankState} {h : Nat} : (setHank st h s).out = s.out := rfl
@[simp] theorem setHank_pending {st : HankState} {h : Nat} : (setHank st h s).pending = s.pending := rfl

@[simp] theorem setRow_flash {n v : Nat} : (setRow n v s).flash = s.flash := rfl
@[simp] theorem setRow_host {n v : Nat} : (setRow n v s).host = s.host := rfl
@[simp] theorem setRow_slots {n v : Nat} : (setRow n v s).slots = s.slots := rfl
@[simp] theorem setRow_pools {n v : Nat} : (setRow n v s).pools = s.pools := rfl
@[simp] theorem setRow_skein {n v : Nat} : (setRow n v s).skein = s.skein := rfl
@[simp] theorem setRow_groups {n v : Nat} : (setRow n v s).groups = s.groups := rfl
@[simp] theorem setRow_bed {n v : Nat} : (setRow n v s).bed = s.bed := rfl
@[simp] theorem setRow_ports {n v : Nat} : (setRow n v s).ports = s.ports := rfl
@[simp] theorem setRow_drones {n v : Nat} : (setRow n v s).drones = s.drones := rfl
@[simp] theorem setRow_clock {n v : Nat} : (setRow n v s).clock = s.clock := rfl
@[simp] theorem setRow_routing {n v : Nat} : (setRow n v s).routing = s.routing := rfl
@[simp] theorem setRow_traffic {n v : Nat} : (setRow n v s).traffic = s.traffic := rfl
@[simp] theorem setRow_flows {n v : Nat} : (setRow n v s).flows = s.flows := rfl
@[simp] theorem setRow_course {n v : Nat} : (setRow n v s).course = s.course := rfl
@[simp] theorem setRow_perf {n v : Nat} : (setRow n v s).perf = s.perf := rfl
@[simp] theorem setRow_boot {n v : Nat} : (setRow n v s).boot = s.boot := rfl
@[simp] theorem setRow_power {n v : Nat} : (setRow n v s).power = s.power := rfl
@[simp] theorem setRow_drops {n v : Nat} : (setRow n v s).drops = s.drops := rfl
@[simp] theorem setRow_out {n v : Nat} : (setRow n v s).out = s.out := rfl
@[simp] theorem setRow_pending {n v : Nat} : (setRow n v s).pending = s.pending := rfl

@[simp] theorem writeSetting_flash {a : Nat} {v : BitVec 64} : (writeSetting a v s).flash = s.flash := rfl
@[simp] theorem writeSetting_host {a : Nat} {v : BitVec 64} : (writeSetting a v s).host = s.host := rfl
@[simp] theorem writeSetting_rows {a : Nat} {v : BitVec 64} : (writeSetting a v s).rows = s.rows := rfl
@[simp] theorem writeSetting_slots {a : Nat} {v : BitVec 64} : (writeSetting a v s).slots = s.slots := rfl
@[simp] theorem writeSetting_pools {a : Nat} {v : BitVec 64} : (writeSetting a v s).pools = s.pools := rfl
@[simp] theorem writeSetting_skein {a : Nat} {v : BitVec 64} : (writeSetting a v s).skein = s.skein := rfl
@[simp] theorem writeSetting_groups {a : Nat} {v : BitVec 64} : (writeSetting a v s).groups = s.groups := rfl
@[simp] theorem writeSetting_bed {a : Nat} {v : BitVec 64} : (writeSetting a v s).bed = s.bed := rfl
@[simp] theorem writeSetting_ports {a : Nat} {v : BitVec 64} : (writeSetting a v s).ports = s.ports := rfl
@[simp] theorem writeSetting_drones {a : Nat} {v : BitVec 64} : (writeSetting a v s).drones = s.drones := rfl
@[simp] theorem writeSetting_clock {a : Nat} {v : BitVec 64} : (writeSetting a v s).clock = s.clock := rfl
@[simp] theorem writeSetting_traffic {a : Nat} {v : BitVec 64} : (writeSetting a v s).traffic = s.traffic := rfl
@[simp] theorem writeSetting_flows {a : Nat} {v : BitVec 64} : (writeSetting a v s).flows = s.flows := rfl
@[simp] theorem writeSetting_course {a : Nat} {v : BitVec 64} : (writeSetting a v s).course = s.course := rfl
@[simp] theorem writeSetting_perf {a : Nat} {v : BitVec 64} : (writeSetting a v s).perf = s.perf := rfl
@[simp] theorem writeSetting_boot {a : Nat} {v : BitVec 64} : (writeSetting a v s).boot = s.boot := rfl
@[simp] theorem writeSetting_power {a : Nat} {v : BitVec 64} : (writeSetting a v s).power = s.power := rfl
@[simp] theorem writeSetting_drops {a : Nat} {v : BitVec 64} : (writeSetting a v s).drops = s.drops := rfl
@[simp] theorem writeSetting_out {a : Nat} {v : BitVec 64} : (writeSetting a v s).out = s.out := rfl
@[simp] theorem writeSetting_pending {a : Nat} {v : BitVec 64} : (writeSetting a v s).pending = s.pending := rfl

@[simp] theorem drop_flash {p c : Nat} : (drop p c s).flash = s.flash := rfl
@[simp] theorem drop_host {p c : Nat} : (drop p c s).host = s.host := rfl
@[simp] theorem drop_rows {p c : Nat} : (drop p c s).rows = s.rows := rfl
@[simp] theorem drop_slots {p c : Nat} : (drop p c s).slots = s.slots := rfl
@[simp] theorem drop_pools {p c : Nat} : (drop p c s).pools = s.pools := rfl
@[simp] theorem drop_skein {p c : Nat} : (drop p c s).skein = s.skein := rfl
@[simp] theorem drop_groups {p c : Nat} : (drop p c s).groups = s.groups := rfl
@[simp] theorem drop_bed {p c : Nat} : (drop p c s).bed = s.bed := rfl
@[simp] theorem drop_ports {p c : Nat} : (drop p c s).ports = s.ports := rfl
@[simp] theorem drop_drones {p c : Nat} : (drop p c s).drones = s.drones := rfl
@[simp] theorem drop_clock {p c : Nat} : (drop p c s).clock = s.clock := rfl
@[simp] theorem drop_routing {p c : Nat} : (drop p c s).routing = s.routing := rfl
@[simp] theorem drop_traffic {p c : Nat} : (drop p c s).traffic = s.traffic := rfl
@[simp] theorem drop_flows {p c : Nat} : (drop p c s).flows = s.flows := rfl
@[simp] theorem drop_course {p c : Nat} : (drop p c s).course = s.course := rfl
@[simp] theorem drop_perf {p c : Nat} : (drop p c s).perf = s.perf := rfl
@[simp] theorem drop_boot {p c : Nat} : (drop p c s).boot = s.boot := rfl
@[simp] theorem drop_power {p c : Nat} : (drop p c s).power = s.power := rfl
@[simp] theorem drop_out {p c : Nat} : (drop p c s).out = s.out := rfl
@[simp] theorem drop_pending {p c : Nat} : (drop p c s).pending = s.pending := rfl

@[simp] theorem setFlow_flash {d : Nat} {f : TxFlow} : (setFlow d f s).flash = s.flash := rfl
@[simp] theorem setFlow_host {d : Nat} {f : TxFlow} : (setFlow d f s).host = s.host := rfl
@[simp] theorem setFlow_rows {d : Nat} {f : TxFlow} : (setFlow d f s).rows = s.rows := rfl
@[simp] theorem setFlow_slots {d : Nat} {f : TxFlow} : (setFlow d f s).slots = s.slots := rfl
@[simp] theorem setFlow_pools {d : Nat} {f : TxFlow} : (setFlow d f s).pools = s.pools := rfl
@[simp] theorem setFlow_skein {d : Nat} {f : TxFlow} : (setFlow d f s).skein = s.skein := rfl
@[simp] theorem setFlow_groups {d : Nat} {f : TxFlow} : (setFlow d f s).groups = s.groups := rfl
@[simp] theorem setFlow_bed {d : Nat} {f : TxFlow} : (setFlow d f s).bed = s.bed := rfl
@[simp] theorem setFlow_ports {d : Nat} {f : TxFlow} : (setFlow d f s).ports = s.ports := rfl
@[simp] theorem setFlow_drones {d : Nat} {f : TxFlow} : (setFlow d f s).drones = s.drones := rfl
@[simp] theorem setFlow_clock {d : Nat} {f : TxFlow} : (setFlow d f s).clock = s.clock := rfl
@[simp] theorem setFlow_routing {d : Nat} {f : TxFlow} : (setFlow d f s).routing = s.routing := rfl
@[simp] theorem setFlow_traffic {d : Nat} {f : TxFlow} : (setFlow d f s).traffic = s.traffic := rfl
@[simp] theorem setFlow_course {d : Nat} {f : TxFlow} : (setFlow d f s).course = s.course := rfl
@[simp] theorem setFlow_perf {d : Nat} {f : TxFlow} : (setFlow d f s).perf = s.perf := rfl
@[simp] theorem setFlow_boot {d : Nat} {f : TxFlow} : (setFlow d f s).boot = s.boot := rfl
@[simp] theorem setFlow_power {d : Nat} {f : TxFlow} : (setFlow d f s).power = s.power := rfl
@[simp] theorem setFlow_drops {d : Nat} {f : TxFlow} : (setFlow d f s).drops = s.drops := rfl
@[simp] theorem setFlow_out {d : Nat} {f : TxFlow} : (setFlow d f s).out = s.out := rfl
@[simp] theorem setFlow_pending {d : Nat} {f : TxFlow} : (setFlow d f s).pending = s.pending := rfl

@[simp] theorem setRx_flash {k : Nat} {f : RxFlow} : (setRx k f s).flash = s.flash := rfl
@[simp] theorem setRx_host {k : Nat} {f : RxFlow} : (setRx k f s).host = s.host := rfl
@[simp] theorem setRx_rows {k : Nat} {f : RxFlow} : (setRx k f s).rows = s.rows := rfl
@[simp] theorem setRx_slots {k : Nat} {f : RxFlow} : (setRx k f s).slots = s.slots := rfl
@[simp] theorem setRx_pools {k : Nat} {f : RxFlow} : (setRx k f s).pools = s.pools := rfl
@[simp] theorem setRx_skein {k : Nat} {f : RxFlow} : (setRx k f s).skein = s.skein := rfl
@[simp] theorem setRx_groups {k : Nat} {f : RxFlow} : (setRx k f s).groups = s.groups := rfl
@[simp] theorem setRx_bed {k : Nat} {f : RxFlow} : (setRx k f s).bed = s.bed := rfl
@[simp] theorem setRx_ports {k : Nat} {f : RxFlow} : (setRx k f s).ports = s.ports := rfl
@[simp] theorem setRx_drones {k : Nat} {f : RxFlow} : (setRx k f s).drones = s.drones := rfl
@[simp] theorem setRx_clock {k : Nat} {f : RxFlow} : (setRx k f s).clock = s.clock := rfl
@[simp] theorem setRx_routing {k : Nat} {f : RxFlow} : (setRx k f s).routing = s.routing := rfl
@[simp] theorem setRx_traffic {k : Nat} {f : RxFlow} : (setRx k f s).traffic = s.traffic := rfl
@[simp] theorem setRx_course {k : Nat} {f : RxFlow} : (setRx k f s).course = s.course := rfl
@[simp] theorem setRx_perf {k : Nat} {f : RxFlow} : (setRx k f s).perf = s.perf := rfl
@[simp] theorem setRx_boot {k : Nat} {f : RxFlow} : (setRx k f s).boot = s.boot := rfl
@[simp] theorem setRx_power {k : Nat} {f : RxFlow} : (setRx k f s).power = s.power := rfl
@[simp] theorem setRx_drops {k : Nat} {f : RxFlow} : (setRx k f s).drops = s.drops := rfl
@[simp] theorem setRx_out {k : Nat} {f : RxFlow} : (setRx k f s).out = s.out := rfl
@[simp] theorem setRx_pending {k : Nat} {f : RxFlow} : (setRx k f s).pending = s.pending := rfl

@[simp] theorem setFault_flash {m : Nat} {f : FaultState} : (setFault m f s).flash = s.flash := rfl
@[simp] theorem setFault_host {m : Nat} {f : FaultState} : (setFault m f s).host = s.host := rfl
@[simp] theorem setFault_rows {m : Nat} {f : FaultState} : (setFault m f s).rows = s.rows := rfl
@[simp] theorem setFault_slots {m : Nat} {f : FaultState} : (setFault m f s).slots = s.slots := rfl
@[simp] theorem setFault_pools {m : Nat} {f : FaultState} : (setFault m f s).pools = s.pools := rfl
@[simp] theorem setFault_skein {m : Nat} {f : FaultState} : (setFault m f s).skein = s.skein := rfl
@[simp] theorem setFault_groups {m : Nat} {f : FaultState} : (setFault m f s).groups = s.groups := rfl
@[simp] theorem setFault_bed {m : Nat} {f : FaultState} : (setFault m f s).bed = s.bed := rfl
@[simp] theorem setFault_ports {m : Nat} {f : FaultState} : (setFault m f s).ports = s.ports := rfl
@[simp] theorem setFault_drones {m : Nat} {f : FaultState} : (setFault m f s).drones = s.drones := rfl
@[simp] theorem setFault_clock {m : Nat} {f : FaultState} : (setFault m f s).clock = s.clock := rfl
@[simp] theorem setFault_routing {m : Nat} {f : FaultState} : (setFault m f s).routing = s.routing := rfl
@[simp] theorem setFault_traffic {m : Nat} {f : FaultState} : (setFault m f s).traffic = s.traffic := rfl
@[simp] theorem setFault_flows {m : Nat} {f : FaultState} : (setFault m f s).flows = s.flows := rfl
@[simp] theorem setFault_perf {m : Nat} {f : FaultState} : (setFault m f s).perf = s.perf := rfl
@[simp] theorem setFault_boot {m : Nat} {f : FaultState} : (setFault m f s).boot = s.boot := rfl
@[simp] theorem setFault_power {m : Nat} {f : FaultState} : (setFault m f s).power = s.power := rfl
@[simp] theorem setFault_drops {m : Nat} {f : FaultState} : (setFault m f s).drops = s.drops := rfl
@[simp] theorem setFault_out {m : Nat} {f : FaultState} : (setFault m f s).out = s.out := rfl
@[simp] theorem setFault_pending {m : Nat} {f : FaultState} : (setFault m f s).pending = s.pending := rfl

@[simp] theorem setBank_flash {b : Bool} {st : BankState} : (setBank b st s).flash = s.flash := rfl
@[simp] theorem setBank_host {b : Bool} {st : BankState} : (setBank b st s).host = s.host := rfl
@[simp] theorem setBank_rows {b : Bool} {st : BankState} : (setBank b st s).rows = s.rows := rfl
@[simp] theorem setBank_slots {b : Bool} {st : BankState} : (setBank b st s).slots = s.slots := rfl
@[simp] theorem setBank_pools {b : Bool} {st : BankState} : (setBank b st s).pools = s.pools := rfl
@[simp] theorem setBank_skein {b : Bool} {st : BankState} : (setBank b st s).skein = s.skein := rfl
@[simp] theorem setBank_groups {b : Bool} {st : BankState} : (setBank b st s).groups = s.groups := rfl
@[simp] theorem setBank_bed {b : Bool} {st : BankState} : (setBank b st s).bed = s.bed := rfl
@[simp] theorem setBank_ports {b : Bool} {st : BankState} : (setBank b st s).ports = s.ports := rfl
@[simp] theorem setBank_drones {b : Bool} {st : BankState} : (setBank b st s).drones = s.drones := rfl
@[simp] theorem setBank_clock {b : Bool} {st : BankState} : (setBank b st s).clock = s.clock := rfl
@[simp] theorem setBank_traffic {b : Bool} {st : BankState} : (setBank b st s).traffic = s.traffic := rfl
@[simp] theorem setBank_flows {b : Bool} {st : BankState} : (setBank b st s).flows = s.flows := rfl
@[simp] theorem setBank_course {b : Bool} {st : BankState} : (setBank b st s).course = s.course := rfl
@[simp] theorem setBank_perf {b : Bool} {st : BankState} : (setBank b st s).perf = s.perf := rfl
@[simp] theorem setBank_boot {b : Bool} {st : BankState} : (setBank b st s).boot = s.boot := rfl
@[simp] theorem setBank_power {b : Bool} {st : BankState} : (setBank b st s).power = s.power := rfl
@[simp] theorem setBank_drops {b : Bool} {st : BankState} : (setBank b st s).drops = s.drops := rfl
@[simp] theorem setBank_out {b : Bool} {st : BankState} : (setBank b st s).out = s.out := rfl
@[simp] theorem setBank_pending {b : Bool} {st : BankState} : (setBank b st s).pending = s.pending := rfl

@[simp] theorem updInst_flash {g : Nat} {k : Nat × Option Nat} {f : Inst → Inst} : (updInst g k f s).flash = s.flash := rfl
@[simp] theorem updInst_host {g : Nat} {k : Nat × Option Nat} {f : Inst → Inst} : (updInst g k f s).host = s.host := rfl
@[simp] theorem updInst_rows {g : Nat} {k : Nat × Option Nat} {f : Inst → Inst} : (updInst g k f s).rows = s.rows := rfl
@[simp] theorem updInst_slots {g : Nat} {k : Nat × Option Nat} {f : Inst → Inst} : (updInst g k f s).slots = s.slots := rfl
@[simp] theorem updInst_pools {g : Nat} {k : Nat × Option Nat} {f : Inst → Inst} : (updInst g k f s).pools = s.pools := rfl
@[simp] theorem updInst_skein {g : Nat} {k : Nat × Option Nat} {f : Inst → Inst} : (updInst g k f s).skein = s.skein := rfl
@[simp] theorem updInst_bed {g : Nat} {k : Nat × Option Nat} {f : Inst → Inst} : (updInst g k f s).bed = s.bed := rfl
@[simp] theorem updInst_ports {g : Nat} {k : Nat × Option Nat} {f : Inst → Inst} : (updInst g k f s).ports = s.ports := rfl
@[simp] theorem updInst_drones {g : Nat} {k : Nat × Option Nat} {f : Inst → Inst} : (updInst g k f s).drones = s.drones := rfl
@[simp] theorem updInst_clock {g : Nat} {k : Nat × Option Nat} {f : Inst → Inst} : (updInst g k f s).clock = s.clock := rfl
@[simp] theorem updInst_routing {g : Nat} {k : Nat × Option Nat} {f : Inst → Inst} : (updInst g k f s).routing = s.routing := rfl
@[simp] theorem updInst_traffic {g : Nat} {k : Nat × Option Nat} {f : Inst → Inst} : (updInst g k f s).traffic = s.traffic := rfl
@[simp] theorem updInst_flows {g : Nat} {k : Nat × Option Nat} {f : Inst → Inst} : (updInst g k f s).flows = s.flows := rfl
@[simp] theorem updInst_course {g : Nat} {k : Nat × Option Nat} {f : Inst → Inst} : (updInst g k f s).course = s.course := rfl
@[simp] theorem updInst_perf {g : Nat} {k : Nat × Option Nat} {f : Inst → Inst} : (updInst g k f s).perf = s.perf := rfl
@[simp] theorem updInst_boot {g : Nat} {k : Nat × Option Nat} {f : Inst → Inst} : (updInst g k f s).boot = s.boot := rfl
@[simp] theorem updInst_power {g : Nat} {k : Nat × Option Nat} {f : Inst → Inst} : (updInst g k f s).power = s.power := rfl
@[simp] theorem updInst_drops {g : Nat} {k : Nat × Option Nat} {f : Inst → Inst} : (updInst g k f s).drops = s.drops := rfl
@[simp] theorem updInst_out {g : Nat} {k : Nat × Option Nat} {f : Inst → Inst} : (updInst g k f s).out = s.out := rfl
@[simp] theorem updInst_pending {g : Nat} {k : Nat × Option Nat} {f : Inst → Inst} : (updInst g k f s).pending = s.pending := rfl

@[simp] theorem updOp_flash {g q : Nat} {f : Op → Op} : (updOp g q f s).flash = s.flash := rfl
@[simp] theorem updOp_host {g q : Nat} {f : Op → Op} : (updOp g q f s).host = s.host := rfl
@[simp] theorem updOp_rows {g q : Nat} {f : Op → Op} : (updOp g q f s).rows = s.rows := rfl
@[simp] theorem updOp_slots {g q : Nat} {f : Op → Op} : (updOp g q f s).slots = s.slots := rfl
@[simp] theorem updOp_pools {g q : Nat} {f : Op → Op} : (updOp g q f s).pools = s.pools := rfl
@[simp] theorem updOp_skein {g q : Nat} {f : Op → Op} : (updOp g q f s).skein = s.skein := rfl
@[simp] theorem updOp_bed {g q : Nat} {f : Op → Op} : (updOp g q f s).bed = s.bed := rfl
@[simp] theorem updOp_ports {g q : Nat} {f : Op → Op} : (updOp g q f s).ports = s.ports := rfl
@[simp] theorem updOp_drones {g q : Nat} {f : Op → Op} : (updOp g q f s).drones = s.drones := rfl
@[simp] theorem updOp_clock {g q : Nat} {f : Op → Op} : (updOp g q f s).clock = s.clock := rfl
@[simp] theorem updOp_routing {g q : Nat} {f : Op → Op} : (updOp g q f s).routing = s.routing := rfl
@[simp] theorem updOp_traffic {g q : Nat} {f : Op → Op} : (updOp g q f s).traffic = s.traffic := rfl
@[simp] theorem updOp_flows {g q : Nat} {f : Op → Op} : (updOp g q f s).flows = s.flows := rfl
@[simp] theorem updOp_course {g q : Nat} {f : Op → Op} : (updOp g q f s).course = s.course := rfl
@[simp] theorem updOp_perf {g q : Nat} {f : Op → Op} : (updOp g q f s).perf = s.perf := rfl
@[simp] theorem updOp_boot {g q : Nat} {f : Op → Op} : (updOp g q f s).boot = s.boot := rfl
@[simp] theorem updOp_power {g q : Nat} {f : Op → Op} : (updOp g q f s).power = s.power := rfl
@[simp] theorem updOp_drops {g q : Nat} {f : Op → Op} : (updOp g q f s).drops = s.drops := rfl
@[simp] theorem updOp_out {g q : Nat} {f : Op → Op} : (updOp g q f s).out = s.out := rfl
@[simp] theorem updOp_pending {g q : Nat} {f : Op → Op} : (updOp g q f s).pending = s.pending := rfl

@[simp] theorem updCtx_flash {g q c : Nat} {k : Nat × Option Nat} {f : Ctx → Ctx} : (updCtx g k q c f s).flash = s.flash := rfl
@[simp] theorem updCtx_host {g q c : Nat} {k : Nat × Option Nat} {f : Ctx → Ctx} : (updCtx g k q c f s).host = s.host := rfl
@[simp] theorem updCtx_rows {g q c : Nat} {k : Nat × Option Nat} {f : Ctx → Ctx} : (updCtx g k q c f s).rows = s.rows := rfl
@[simp] theorem updCtx_slots {g q c : Nat} {k : Nat × Option Nat} {f : Ctx → Ctx} : (updCtx g k q c f s).slots = s.slots := rfl
@[simp] theorem updCtx_pools {g q c : Nat} {k : Nat × Option Nat} {f : Ctx → Ctx} : (updCtx g k q c f s).pools = s.pools := rfl
@[simp] theorem updCtx_skein {g q c : Nat} {k : Nat × Option Nat} {f : Ctx → Ctx} : (updCtx g k q c f s).skein = s.skein := rfl
@[simp] theorem updCtx_bed {g q c : Nat} {k : Nat × Option Nat} {f : Ctx → Ctx} : (updCtx g k q c f s).bed = s.bed := rfl
@[simp] theorem updCtx_ports {g q c : Nat} {k : Nat × Option Nat} {f : Ctx → Ctx} : (updCtx g k q c f s).ports = s.ports := rfl
@[simp] theorem updCtx_drones {g q c : Nat} {k : Nat × Option Nat} {f : Ctx → Ctx} : (updCtx g k q c f s).drones = s.drones := rfl
@[simp] theorem updCtx_clock {g q c : Nat} {k : Nat × Option Nat} {f : Ctx → Ctx} : (updCtx g k q c f s).clock = s.clock := rfl
@[simp] theorem updCtx_routing {g q c : Nat} {k : Nat × Option Nat} {f : Ctx → Ctx} : (updCtx g k q c f s).routing = s.routing := rfl
@[simp] theorem updCtx_traffic {g q c : Nat} {k : Nat × Option Nat} {f : Ctx → Ctx} : (updCtx g k q c f s).traffic = s.traffic := rfl
@[simp] theorem updCtx_flows {g q c : Nat} {k : Nat × Option Nat} {f : Ctx → Ctx} : (updCtx g k q c f s).flows = s.flows := rfl
@[simp] theorem updCtx_course {g q c : Nat} {k : Nat × Option Nat} {f : Ctx → Ctx} : (updCtx g k q c f s).course = s.course := rfl
@[simp] theorem updCtx_perf {g q c : Nat} {k : Nat × Option Nat} {f : Ctx → Ctx} : (updCtx g k q c f s).perf = s.perf := rfl
@[simp] theorem updCtx_boot {g q c : Nat} {k : Nat × Option Nat} {f : Ctx → Ctx} : (updCtx g k q c f s).boot = s.boot := rfl
@[simp] theorem updCtx_power {g q c : Nat} {k : Nat × Option Nat} {f : Ctx → Ctx} : (updCtx g k q c f s).power = s.power := rfl
@[simp] theorem updCtx_drops {g q c : Nat} {k : Nat × Option Nat} {f : Ctx → Ctx} : (updCtx g k q c f s).drops = s.drops := rfl
@[simp] theorem updCtx_out {g q c : Nat} {k : Nat × Option Nat} {f : Ctx → Ctx} : (updCtx g k q c f s).out = s.out := rfl
@[simp] theorem updCtx_pending {g q c : Nat} {k : Nat × Option Nat} {f : Ctx → Ctx} : (updCtx g k q c f s).pending = s.pending := rfl

/-! ## Lookups after an update -/

theorem getSq_updSq {n m : Nat} {f : Sq → Sq} : getSq (updSq n f s) m = if m = n then f (getSq s n) else getSq s m := tget_tset _ _ _ _ _

@[simp] theorem getSq_updSq_self {n : Nat} {f : Sq → Sq} : getSq (updSq n f s) n = f (getSq s n) := by simp [getSq_updSq]

theorem getSq_updSq_other {n m : Nat} {f : Sq → Sq} (h : m ≠ n) : getSq (updSq n f s) m = getSq s m := by simp [getSq_updSq, h]

theorem getCq_updCq {n m : Nat} {f : Cq → Cq} : getCq (updCq n f s) m = if m = n then f (getCq s n) else getCq s m := tget_tset _ _ _ _ _

@[simp] theorem getCq_updCq_self {n : Nat} {f : Cq → Cq} : getCq (updCq n f s) n = f (getCq s n) := by simp [getCq_updCq]

theorem getCq_updCq_other {n m : Nat} {f : Cq → Cq} (h : m ≠ n) : getCq (updCq n f s) m = getCq s m := by simp [getCq_updCq, h]

theorem getPort_updPort {n m : Nat} {f : Port → Port} : getPort (updPort n f s) m = if m = n then f (getPort s n) else getPort s m := tget_tset _ _ _ _ _

@[simp] theorem getPort_updPort_self {n : Nat} {f : Port → Port} : getPort (updPort n f s) n = f (getPort s n) := by simp [getPort_updPort]

theorem getPort_updPort_other {n m : Nat} {f : Port → Port} (h : m ≠ n) : getPort (updPort n f s) m = getPort s m := by simp [getPort_updPort, h]

theorem getDrone_updDrone {n m : Nat} {f : Drone → Drone} : getDrone (updDrone n f s) m = if m = n then f (getDrone s n) else getDrone s m := tget_tset _ _ _ _ _

@[simp] theorem getDrone_updDrone_self {n : Nat} {f : Drone → Drone} : getDrone (updDrone n f s) n = f (getDrone s n) := by simp [getDrone_updDrone]

theorem getDrone_updDrone_other {n m : Nat} {f : Drone → Drone} (h : m ≠ n) : getDrone (updDrone n f s) m = getDrone s m := by simp [getDrone_updDrone, h]

theorem getSlot_updSlot {n m : Nat} {f : Slot → Slot} : getSlot (updSlot n f s) m = if m = n then f (getSlot s n) else getSlot s m := tget_tset _ _ _ _ _

@[simp] theorem getSlot_updSlot_self {n : Nat} {f : Slot → Slot} : getSlot (updSlot n f s) n = f (getSlot s n) := by simp [getSlot_updSlot]

theorem getSlot_updSlot_other {n m : Nat} {f : Slot → Slot} (h : m ≠ n) : getSlot (updSlot n f s) m = getSlot s m := by simp [getSlot_updSlot, h]

@[simp] theorem getSq_updCq {n m : Nat} {f : Cq → Cq} : getSq (updCq n f s) m = getSq s m := rfl
@[simp] theorem getCq_updSq {n m : Nat} {f : Sq → Sq} : getCq (updSq n f s) m = getCq s m := rfl
@[simp] theorem outstanding_updSq {n : Nat} {f : Sq → Sq} : (updSq n f s).host.outstanding = s.host.outstanding := rfl
@[simp] theorem outstanding_updCq {n : Nat} {f : Cq → Cq} : (updCq n f s).host.outstanding = s.host.outstanding := rfl

theorem hankState_setHank {st : HankState} {h k : Nat} :
    hankState (setHank st h s) k = if k = h then st else hankState s k := tget_tset _ _ _ _ _

theorem rowValue_setRow {n v m : Nat} :
    rowValue (setRow n v s) m = if m = n then v % 2 ^ 64 else rowValue s m := by
  unfold rowValue setRow
  rw [tget_tset]
  split
  · exact BitVec.toNat_ofNat v 64
  · rfl

theorem setting_writeSetting {a b : Nat} {v : BitVec 64} :
    setting (writeSetting a v s) b = if b = a then v.toNat else setting s b := by
  unfold setting writeSetting
  by_cases h : b = a
  · subst h
    simp
  · rw [if_neg h]
    exact congrArg BitVec.toNat (tget_tset_any (settingReset a) (settingReset b) s.routing.settings a b v h)

theorem faultOf_setFault {m k : Nat} {f : FaultState} :
    faultOf (setFault m f s) k = if k = m then f else faultOf s k := tget_tset _ _ _ _ _

theorem bankState_setBank {b c : Bool} {st : BankState} :
    bankState (setBank b st s) c = if c = b then st else bankState s c := by
  cases b <;> cases c <;> rfl

@[simp] theorem setRow_mem {n v : Nat} : (setRow n v s).skein.mem = s.skein.mem := rfl
@[simp] theorem setHank_mem {st : HankState} {h : Nat} : (setHank st h s).skein.mem = s.skein.mem := rfl

/-! ## Groups -/

theorem find?_lupdate {α : Type} {p : α → Bool} {f : α → α} (l : List α) (h : ∀ a, p a = true → p (f a) = true) :
    (lupdate p f l).find? p = (l.find? p).map f := by
  induction l with
  | nil => rfl
  | cons a l ih =>
    unfold lupdate
    cases hp : p a
    · simp [hp]
      exact ih
    · simp [hp, h a hp]

/-- A group found after an update of it that keeps its number. -/
theorem findGroup_updGroup {i : Nat} {f : Group → Group} (h : ∀ g, (f g).id = g.id) :
    findGroup (updGroup i f s) i = (findGroup s i).map f := by
  refine find?_lupdate s.groups fun g hg => ?_
  rw [h g]
  exact hg

theorem find?_lupdate_other {α : Type} {p q : α → Bool} {f : α → α} (l : List α) (h : ∀ a, p a = true → q a = false)
    (h' : ∀ a, p a = true → q (f a) = false) : (lupdate p f l).find? q = l.find? q := by
  induction l with
  | nil => rfl
  | cons a l ih =>
    unfold lupdate
    cases hp : p a
    · simp only [List.find?_cons, Bool.false_eq_true, if_false]
      cases q a
      · exact ih
      · rfl
    · simp [h a hp, h' a hp]

/-- Another group after an update that keeps numbers. -/
theorem findGroup_updGroup_other {i j : Nat} {f : Group → Group} (hj : j ≠ i) (h : ∀ g, (f g).id = g.id) :
    findGroup (updGroup i f s) j = findGroup s j := by
  have no : ∀ g : Group, (g.id == i) = true → (g.id == j) = false := by
    intro g hg
    have : g.id = i := by simpa using hg
    simpa [this] using Ne.symm hj
  refine find?_lupdate_other s.groups no fun g hg => ?_
  rw [h g]
  exact no g hg

end Sys2Proof.Machine
end

