-- ==== Sys2Proof/Laws/Ops.lean ====
section
/-!
SUPPORT. What the shared operations can do: each changes only the parts named (by its frame); the list of outstanding
commands after a completion; and how a Salpor command runs.
-/
namespace Sys2Proof.Machine

/-! ## Whole fields from parts -/

theorem ChangesOnly.skein {P : List Part} {s t : State} (h : ChangesOnly P s t) (a : Part.skeinMem ∉ P)
    (b : Part.hanks ∉ P) : t.skein = s.skein := by
  have h1 := h _ a
  have h2 := h _ b
  simp only [Part.same] at h1 h2
  rw [← h2, ← h1]

theorem ChangesOnly.perf {P : List Part} {s t : State} (h : ChangesOnly P s t) (a : Part.perf ∉ P)
    (b : Part.slotCounts ∉ P) : t.perf = s.perf := by
  have h1 := h _ a
  obtain ⟨e1, e2, e3, e4, e5⟩ := h _ b
  simp only [Part.same] at h1
  rw [← h1, ← e1, ← e2, ← e3, ← e4, ← e5]

theorem ChangesOnly.boot {P : List Part} {s t : State} (h : ChangesOnly P s t) (a : Part.boot ∉ P)
    (b : Part.blocked ∉ P) : t.boot = s.boot := by
  have h1 := h _ a
  have h2 := h _ b
  simp only [Part.same] at h1 h2
  rw [← h1, ← h2]

/-! ## Frames of the shared operations -/

theorem count_only {e : PEv} {n : Nat} {s : State} : ChangesOnly [.perf] s (count e n s) :=
  count_keeps (free_changesOnly _ _) (ChangesOnly.refl _ _)

@[simp] theorem count_flash {e : PEv} {n : Nat} {s : State} : (count e n s).flash = s.flash :=
  count_only .flash (by decide)
@[simp] theorem count_host {e : PEv} {n : Nat} {s : State} : (count e n s).host = s.host :=
  count_only .host (by decide)
@[simp] theorem count_rows {e : PEv} {n : Nat} {s : State} : (count e n s).rows = s.rows :=
  count_only .rows (by decide)
@[simp] theorem count_slots {e : PEv} {n : Nat} {s : State} : (count e n s).slots = s.slots :=
  count_only .slots (by decide)
@[simp] theorem count_pools {e : PEv} {n : Nat} {s : State} : (count e n s).pools = s.pools :=
  count_only .pools (by decide)
@[simp] theorem count_skein {e : PEv} {n : Nat} {s : State} : (count e n s).skein = s.skein :=
  count_only.skein (by decide) (by decide)
@[simp] theorem count_groups {e : PEv} {n : Nat} {s : State} : (count e n s).groups = s.groups :=
  count_only .groups (by decide)
@[simp] theorem count_bed {e : PEv} {n : Nat} {s : State} : (count e n s).bed = s.bed :=
  count_only .bed (by decide)
@[simp] theorem count_ports {e : PEv} {n : Nat} {s : State} : (count e n s).ports = s.ports :=
  count_only .ports (by decide)
@[simp] theorem count_drones {e : PEv} {n : Nat} {s : State} : (count e n s).drones = s.drones :=
  count_only .drones (by decide)
@[simp] theorem count_clock {e : PEv} {n : Nat} {s : State} : (count e n s).clock = s.clock :=
  count_only .clock (by decide)
@[simp] theorem count_routing {e : PEv} {n : Nat} {s : State} : (count e n s).routing = s.routing :=
  count_only .routing (by decide)
@[simp] theorem count_traffic {e : PEv} {n : Nat} {s : State} : (count e n s).traffic = s.traffic :=
  count_only .traffic (by decide)
@[simp] theorem count_flows {e : PEv} {n : Nat} {s : State} : (count e n s).flows = s.flows :=
  count_only .flows (by decide)
@[simp] theorem count_course {e : PEv} {n : Nat} {s : State} : (count e n s).course = s.course :=
  count_only .course (by decide)
@[simp] theorem count_boot {e : PEv} {n : Nat} {s : State} : (count e n s).boot = s.boot :=
  count_only.boot (by decide) (by decide)
@[simp] theorem count_power {e : PEv} {n : Nat} {s : State} : (count e n s).power = s.power :=
  count_only .power (by decide)
@[simp] theorem count_drops {e : PEv} {n : Nat} {s : State} : (count e n s).drops = s.drops :=
  count_only .drops (by decide)
@[simp] theorem count_out {e : PEv} {n : Nat} {s : State} : (count e n s).out = s.out :=
  count_only .out (by decide)
@[simp] theorem count_pending {e : PEv} {n : Nat} {s : State} : (count e n s).pending = s.pending :=
  count_only .pending (by decide)

theorem hostWrite_only {addr : Nat} {bs : List Byte} {s : State} : ChangesOnly [.blocked, .out] s
    (hostWrite addr bs s) :=
  hostWrite_keeps (free_changesOnly _ _) (ChangesOnly.refl _ _)

@[simp] theorem hostWrite_flash {addr : Nat} {bs : List Byte} {s : State} : (hostWrite addr bs s).flash =
    s.flash :=
  hostWrite_only .flash (by decide)
@[simp] theorem hostWrite_host {addr : Nat} {bs : List Byte} {s : State} : (hostWrite addr bs s).host = s.host :=
  hostWrite_only .host (by decide)
@[simp] theorem hostWrite_rows {addr : Nat} {bs : List Byte} {s : State} : (hostWrite addr bs s).rows = s.rows :=
  hostWrite_only .rows (by decide)
@[simp] theorem hostWrite_slots {addr : Nat} {bs : List Byte} {s : State} : (hostWrite addr bs s).slots =
    s.slots :=
  hostWrite_only .slots (by decide)
@[simp] theorem hostWrite_pools {addr : Nat} {bs : List Byte} {s : State} : (hostWrite addr bs s).pools =
    s.pools :=
  hostWrite_only .pools (by decide)
@[simp] theorem hostWrite_skein {addr : Nat} {bs : List Byte} {s : State} : (hostWrite addr bs s).skein =
    s.skein :=
  hostWrite_only.skein (by decide) (by decide)
@[simp] theorem hostWrite_groups {addr : Nat} {bs : List Byte} {s : State} : (hostWrite addr bs s).groups =
    s.groups :=
  hostWrite_only .groups (by decide)
@[simp] theorem hostWrite_bed {addr : Nat} {bs : List Byte} {s : State} : (hostWrite addr bs s).bed = s.bed :=
  hostWrite_only .bed (by decide)
@[simp] theorem hostWrite_ports {addr : Nat} {bs : List Byte} {s : State} : (hostWrite addr bs s).ports =
    s.ports :=
  hostWrite_only .ports (by decide)
@[simp] theorem hostWrite_drones {addr : Nat} {bs : List Byte} {s : State} : (hostWrite addr bs s).drones =
    s.drones :=
  hostWrite_only .drones (by decide)
@[simp] theorem hostWrite_clock {addr : Nat} {bs : List Byte} {s : State} : (hostWrite addr bs s).clock =
    s.clock :=
  hostWrite_only .clock (by decide)
@[simp] theorem hostWrite_routing {addr : Nat} {bs : List Byte} {s : State} : (hostWrite addr bs s).routing =
    s.routing :=
  hostWrite_only .routing (by decide)
@[simp] theorem hostWrite_traffic {addr : Nat} {bs : List Byte} {s : State} : (hostWrite addr bs s).traffic =
    s.traffic :=
  hostWrite_only .traffic (by decide)
@[simp] theorem hostWrite_flows {addr : Nat} {bs : List Byte} {s : State} : (hostWrite addr bs s).flows =
    s.flows :=
  hostWrite_only .flows (by decide)
@[simp] theorem hostWrite_course {addr : Nat} {bs : List Byte} {s : State} : (hostWrite addr bs s).course =
    s.course :=
  hostWrite_only .course (by decide)
@[simp] theorem hostWrite_perf {addr : Nat} {bs : List Byte} {s : State} : (hostWrite addr bs s).perf = s.perf :=
  hostWrite_only.perf (by decide) (by decide)
@[simp] theorem hostWrite_power {addr : Nat} {bs : List Byte} {s : State} : (hostWrite addr bs s).power =
    s.power :=
  hostWrite_only .power (by decide)
@[simp] theorem hostWrite_drops {addr : Nat} {bs : List Byte} {s : State} : (hostWrite addr bs s).drops =
    s.drops :=
  hostWrite_only .drops (by decide)
@[simp] theorem hostWrite_pending {addr : Nat} {bs : List Byte} {s : State} : (hostWrite addr bs s).pending =
    s.pending :=
  hostWrite_only .pending (by decide)

theorem cqPut_only {n : Nat} {e : BitVec 512} {isEvent : Bool} {counted : Bool} {s : State} : ChangesOnly
    [.host, .blocked, .out] s (cqPut n e isEvent counted s) :=
  cqPut_keeps (free_changesOnly _ _) (ChangesOnly.refl _ _)

@[simp] theorem cqPut_flash {n : Nat} {e : BitVec 512} {isEvent : Bool} {counted : Bool} {s : State} :
    (cqPut n e isEvent counted s).flash = s.flash :=
  cqPut_only .flash (by decide)
@[simp] theorem cqPut_rows {n : Nat} {e : BitVec 512} {isEvent : Bool} {counted : Bool} {s : State} :
    (cqPut n e isEvent counted s).rows = s.rows :=
  cqPut_only .rows (by decide)
@[simp] theorem cqPut_slots {n : Nat} {e : BitVec 512} {isEvent : Bool} {counted : Bool} {s : State} :
    (cqPut n e isEvent counted s).slots = s.slots :=
  cqPut_only .slots (by decide)
@[simp] theorem cqPut_pools {n : Nat} {e : BitVec 512} {isEvent : Bool} {counted : Bool} {s : State} :
    (cqPut n e isEvent counted s).pools = s.pools :=
  cqPut_only .pools (by decide)
@[simp] theorem cqPut_skein {n : Nat} {e : BitVec 512} {isEvent : Bool} {counted : Bool} {s : State} :
    (cqPut n e isEvent counted s).skein = s.skein :=
  cqPut_only.skein (by decide) (by decide)
@[simp] theorem cqPut_groups {n : Nat} {e : BitVec 512} {isEvent : Bool} {counted : Bool} {s : State} :
    (cqPut n e isEvent counted s).groups = s.groups :=
  cqPut_only .groups (by decide)
@[simp] theorem cqPut_bed {n : Nat} {e : BitVec 512} {isEvent : Bool} {counted : Bool} {s : State} :
    (cqPut n e isEvent counted s).bed = s.bed :=
  cqPut_only .bed (by decide)
@[simp] theorem cqPut_ports {n : Nat} {e : BitVec 512} {isEvent : Bool} {counted : Bool} {s : State} :
    (cqPut n e isEvent counted s).ports = s.ports :=
  cqPut_only .ports (by decide)
@[simp] theorem cqPut_drones {n : Nat} {e : BitVec 512} {isEvent : Bool} {counted : Bool} {s : State} :
    (cqPut n e isEvent counted s).drones = s.drones :=
  cqPut_only .drones (by decide)
@[simp] theorem cqPut_clock {n : Nat} {e : BitVec 512} {isEvent : Bool} {counted : Bool} {s : State} :
    (cqPut n e isEvent counted s).clock = s.clock :=
  cqPut_only .clock (by decide)
@[simp] theorem cqPut_routing {n : Nat} {e : BitVec 512} {isEvent : Bool} {counted : Bool} {s : State} :
    (cqPut n e isEvent counted s).routing = s.routing :=
  cqPut_only .routing (by decide)
@[simp] theorem cqPut_traffic {n : Nat} {e : BitVec 512} {isEvent : Bool} {counted : Bool} {s : State} :
    (cqPut n e isEvent counted s).traffic = s.traffic :=
  cqPut_only .traffic (by decide)
@[simp] theorem cqPut_flows {n : Nat} {e : BitVec 512} {isEvent : Bool} {counted : Bool} {s : State} :
    (cqPut n e isEvent counted s).flows = s.flows :=
  cqPut_only .flows (by decide)
@[simp] theorem cqPut_course {n : Nat} {e : BitVec 512} {isEvent : Bool} {counted : Bool} {s : State} :
    (cqPut n e isEvent counted s).course = s.course :=
  cqPut_only .course (by decide)
@[simp] theorem cqPut_perf {n : Nat} {e : BitVec 512} {isEvent : Bool} {counted : Bool} {s : State} :
    (cqPut n e isEvent counted s).perf = s.perf :=
  cqPut_only.perf (by decide) (by decide)
@[simp] theorem cqPut_power {n : Nat} {e : BitVec 512} {isEvent : Bool} {counted : Bool} {s : State} :
    (cqPut n e isEvent counted s).power = s.power :=
  cqPut_only .power (by decide)
@[simp] theorem cqPut_drops {n : Nat} {e : BitVec 512} {isEvent : Bool} {counted : Bool} {s : State} :
    (cqPut n e isEvent counted s).drops = s.drops :=
  cqPut_only .drops (by decide)
@[simp] theorem cqPut_pending {n : Nat} {e : BitVec 512} {isEvent : Bool} {counted : Bool} {s : State} :
    (cqPut n e isEvent counted s).pending = s.pending :=
  cqPut_only .pending (by decide)

theorem postEvent_only {code : Nat} {arg0 : Nat} {arg1 : Nat} {body : List Byte} {s : State} : ChangesOnly
    [.host, .blocked, .out] s (postEvent code arg0 arg1 body s) :=
  postEvent_keeps (free_changesOnly _ _) (ChangesOnly.refl _ _)

@[simp] theorem postEvent_flash {code : Nat} {arg0 : Nat} {arg1 : Nat} {body : List Byte} {s : State} :
    (postEvent code arg0 arg1 body s).flash = s.flash :=
  postEvent_only .flash (by decide)
@[simp] theorem postEvent_rows {code : Nat} {arg0 : Nat} {arg1 : Nat} {body : List Byte} {s : State} :
    (postEvent code arg0 arg1 body s).rows = s.rows :=
  postEvent_only .rows (by decide)
@[simp] theorem postEvent_slots {code : Nat} {arg0 : Nat} {arg1 : Nat} {body : List Byte} {s : State} :
    (postEvent code arg0 arg1 body s).slots = s.slots :=
  postEvent_only .slots (by decide)
@[simp] theorem postEvent_pools {code : Nat} {arg0 : Nat} {arg1 : Nat} {body : List Byte} {s : State} :
    (postEvent code arg0 arg1 body s).pools = s.pools :=
  postEvent_only .pools (by decide)
@[simp] theorem postEvent_skein {code : Nat} {arg0 : Nat} {arg1 : Nat} {body : List Byte} {s : State} :
    (postEvent code arg0 arg1 body s).skein = s.skein :=
  postEvent_only.skein (by decide) (by decide)
@[simp] theorem postEvent_groups {code : Nat} {arg0 : Nat} {arg1 : Nat} {body : List Byte} {s : State} :
    (postEvent code arg0 arg1 body s).groups = s.groups :=
  postEvent_only .groups (by decide)
@[simp] theorem postEvent_bed {code : Nat} {arg0 : Nat} {arg1 : Nat} {body : List Byte} {s : State} :
    (postEvent code arg0 arg1 body s).bed = s.bed :=
  postEvent_only .bed (by decide)
@[simp] theorem postEvent_ports {code : Nat} {arg0 : Nat} {arg1 : Nat} {body : List Byte} {s : State} :
    (postEvent code arg0 arg1 body s).ports = s.ports :=
  postEvent_only .ports (by decide)
@[simp] theorem postEvent_drones {code : Nat} {arg0 : Nat} {arg1 : Nat} {body : List Byte} {s : State} :
    (postEvent code arg0 arg1 body s).drones = s.drones :=
  postEvent_only .drones (by decide)
@[simp] theorem postEvent_clock {code : Nat} {arg0 : Nat} {arg1 : Nat} {body : List Byte} {s : State} :
    (postEvent code arg0 arg1 body s).clock = s.clock :=
  postEvent_only .clock (by decide)
@[simp] theorem postEvent_routing {code : Nat} {arg0 : Nat} {arg1 : Nat} {body : List Byte} {s : State} :
    (postEvent code arg0 arg1 body s).routing = s.routing :=
  postEvent_only .routing (by decide)
@[simp] theorem postEvent_traffic {code : Nat} {arg0 : Nat} {arg1 : Nat} {body : List Byte} {s : State} :
    (postEvent code arg0 arg1 body s).traffic = s.traffic :=
  postEvent_only .traffic (by decide)
@[simp] theorem postEvent_flows {code : Nat} {arg0 : Nat} {arg1 : Nat} {body : List Byte} {s : State} :
    (postEvent code arg0 arg1 body s).flows = s.flows :=
  postEvent_only .flows (by decide)
@[simp] theorem postEvent_course {code : Nat} {arg0 : Nat} {arg1 : Nat} {body : List Byte} {s : State} :
    (postEvent code arg0 arg1 body s).course = s.course :=
  postEvent_only .course (by decide)
@[simp] theorem postEvent_perf {code : Nat} {arg0 : Nat} {arg1 : Nat} {body : List Byte} {s : State} :
    (postEvent code arg0 arg1 body s).perf = s.perf :=
  postEvent_only.perf (by decide) (by decide)
@[simp] theorem postEvent_power {code : Nat} {arg0 : Nat} {arg1 : Nat} {body : List Byte} {s : State} :
    (postEvent code arg0 arg1 body s).power = s.power :=
  postEvent_only .power (by decide)
@[simp] theorem postEvent_drops {code : Nat} {arg0 : Nat} {arg1 : Nat} {body : List Byte} {s : State} :
    (postEvent code arg0 arg1 body s).drops = s.drops :=
  postEvent_only .drops (by decide)
@[simp] theorem postEvent_pending {code : Nat} {arg0 : Nat} {arg1 : Nat} {body : List Byte} {s : State} :
    (postEvent code arg0 arg1 body s).pending = s.pending :=
  postEvent_only .pending (by decide)

theorem complete_only {t : Tok} {status : Nat} {detail : Nat} {arg : Nat} {result : List Byte} {s : State} :
    ChangesOnly [.host, .blocked, .out] s (complete t status detail arg result s) :=
  complete_keeps (free_changesOnly _ _) (ChangesOnly.refl _ _)

@[simp] theorem complete_flash {t : Tok} {status : Nat} {detail : Nat} {arg : Nat} {result : List Byte}
    {s : State} : (complete t status detail arg result s).flash = s.flash :=
  complete_only .flash (by decide)
@[simp] theorem complete_rows {t : Tok} {status : Nat} {detail : Nat} {arg : Nat} {result : List Byte}
    {s : State} : (complete t status detail arg result s).rows = s.rows :=
  complete_only .rows (by decide)
@[simp] theorem complete_slots {t : Tok} {status : Nat} {detail : Nat} {arg : Nat} {result : List Byte}
    {s : State} : (complete t status detail arg result s).slots = s.slots :=
  complete_only .slots (by decide)
@[simp] theorem complete_pools {t : Tok} {status : Nat} {detail : Nat} {arg : Nat} {result : List Byte}
    {s : State} : (complete t status detail arg result s).pools = s.pools :=
  complete_only .pools (by decide)
@[simp] theorem complete_skein {t : Tok} {status : Nat} {detail : Nat} {arg : Nat} {result : List Byte}
    {s : State} : (complete t status detail arg result s).skein = s.skein :=
  complete_only.skein (by decide) (by decide)
@[simp] theorem complete_groups {t : Tok} {status : Nat} {detail : Nat} {arg : Nat} {result : List Byte}
    {s : State} : (complete t status detail arg result s).groups = s.groups :=
  complete_only .groups (by decide)
@[simp] theorem complete_bed {t : Tok} {status : Nat} {detail : Nat} {arg : Nat} {result : List Byte}
    {s : State} : (complete t status detail arg result s).bed = s.bed :=
  complete_only .bed (by decide)
@[simp] theorem complete_ports {t : Tok} {status : Nat} {detail : Nat} {arg : Nat} {result : List Byte}
    {s : State} : (complete t status detail arg result s).ports = s.ports :=
  complete_only .ports (by decide)
@[simp] theorem complete_drones {t : Tok} {status : Nat} {detail : Nat} {arg : Nat} {result : List Byte}
    {s : State} : (complete t status detail arg result s).drones = s.drones :=
  complete_only .drones (by decide)
@[simp] theorem complete_clock {t : Tok} {status : Nat} {detail : Nat} {arg : Nat} {result : List Byte}
    {s : State} : (complete t status detail arg result s).clock = s.clock :=
  complete_only .clock (by decide)
@[simp] theorem complete_routing {t : Tok} {status : Nat} {detail : Nat} {arg : Nat} {result : List Byte}
    {s : State} : (complete t status detail arg result s).routing = s.routing :=
  complete_only .routing (by decide)
@[simp] theorem complete_traffic {t : Tok} {status : Nat} {detail : Nat} {arg : Nat} {result : List Byte}
    {s : State} : (complete t status detail arg result s).traffic = s.traffic :=
  complete_only .traffic (by decide)
@[simp] theorem complete_flows {t : Tok} {status : Nat} {detail : Nat} {arg : Nat} {result : List Byte}
    {s : State} : (complete t status detail arg result s).flows = s.flows :=
  complete_only .flows (by decide)
@[simp] theorem complete_course {t : Tok} {status : Nat} {detail : Nat} {arg : Nat} {result : List Byte}
    {s : State} : (complete t status detail arg result s).course = s.course :=
  complete_only .course (by decide)
@[simp] theorem complete_perf {t : Tok} {status : Nat} {detail : Nat} {arg : Nat} {result : List Byte}
    {s : State} : (complete t status detail arg result s).perf = s.perf :=
  complete_only.perf (by decide) (by decide)
@[simp] theorem complete_power {t : Tok} {status : Nat} {detail : Nat} {arg : Nat} {result : List Byte}
    {s : State} : (complete t status detail arg result s).power = s.power :=
  complete_only .power (by decide)
@[simp] theorem complete_drops {t : Tok} {status : Nat} {detail : Nat} {arg : Nat} {result : List Byte}
    {s : State} : (complete t status detail arg result s).drops = s.drops :=
  complete_only .drops (by decide)
@[simp] theorem complete_pending {t : Tok} {status : Nat} {detail : Nat} {arg : Nat} {result : List Byte}
    {s : State} : (complete t status detail arg result s).pending = s.pending :=
  complete_only .pending (by decide)

theorem ok_only {t : Tok} {arg : Nat} {result : List Byte} {s : State} : ChangesOnly [.host, .blocked, .out] s
    (ok t arg result s) :=
  ok_keeps (free_changesOnly _ _) (ChangesOnly.refl _ _)

@[simp] theorem ok_flash {t : Tok} {arg : Nat} {result : List Byte} {s : State} : (ok t arg result s).flash =
    s.flash :=
  ok_only .flash (by decide)
@[simp] theorem ok_rows {t : Tok} {arg : Nat} {result : List Byte} {s : State} : (ok t arg result s).rows =
    s.rows :=
  ok_only .rows (by decide)
@[simp] theorem ok_slots {t : Tok} {arg : Nat} {result : List Byte} {s : State} : (ok t arg result s).slots =
    s.slots :=
  ok_only .slots (by decide)
@[simp] theorem ok_pools {t : Tok} {arg : Nat} {result : List Byte} {s : State} : (ok t arg result s).pools =
    s.pools :=
  ok_only .pools (by decide)
@[simp] theorem ok_skein {t : Tok} {arg : Nat} {result : List Byte} {s : State} : (ok t arg result s).skein =
    s.skein :=
  ok_only.skein (by decide) (by decide)
@[simp] theorem ok_groups {t : Tok} {arg : Nat} {result : List Byte} {s : State} : (ok t arg result s).groups =
    s.groups :=
  ok_only .groups (by decide)
@[simp] theorem ok_bed {t : Tok} {arg : Nat} {result : List Byte} {s : State} : (ok t arg result s).bed = s.bed :=
  ok_only .bed (by decide)
@[simp] theorem ok_ports {t : Tok} {arg : Nat} {result : List Byte} {s : State} : (ok t arg result s).ports =
    s.ports :=
  ok_only .ports (by decide)
@[simp] theorem ok_drones {t : Tok} {arg : Nat} {result : List Byte} {s : State} : (ok t arg result s).drones =
    s.drones :=
  ok_only .drones (by decide)
@[simp] theorem ok_clock {t : Tok} {arg : Nat} {result : List Byte} {s : State} : (ok t arg result s).clock =
    s.clock :=
  ok_only .clock (by decide)
@[simp] theorem ok_routing {t : Tok} {arg : Nat} {result : List Byte} {s : State} : (ok t arg result s).routing
    = s.routing :=
  ok_only .routing (by decide)
@[simp] theorem ok_traffic {t : Tok} {arg : Nat} {result : List Byte} {s : State} : (ok t arg result s).traffic
    = s.traffic :=
  ok_only .traffic (by decide)
@[simp] theorem ok_flows {t : Tok} {arg : Nat} {result : List Byte} {s : State} : (ok t arg result s).flows =
    s.flows :=
  ok_only .flows (by decide)
@[simp] theorem ok_course {t : Tok} {arg : Nat} {result : List Byte} {s : State} : (ok t arg result s).course =
    s.course :=
  ok_only .course (by decide)
@[simp] theorem ok_perf {t : Tok} {arg : Nat} {result : List Byte} {s : State} : (ok t arg result s).perf =
    s.perf :=
  ok_only.perf (by decide) (by decide)
@[simp] theorem ok_power {t : Tok} {arg : Nat} {result : List Byte} {s : State} : (ok t arg result s).power =
    s.power :=
  ok_only .power (by decide)
@[simp] theorem ok_drops {t : Tok} {arg : Nat} {result : List Byte} {s : State} : (ok t arg result s).drops =
    s.drops :=
  ok_only .drops (by decide)
@[simp] theorem ok_pending {t : Tok} {arg : Nat} {result : List Byte} {s : State} : (ok t arg result s).pending
    = s.pending :=
  ok_only .pending (by decide)

theorem bad_only {t : Tok} {detail : Nat} {s : State} : ChangesOnly [.host, .blocked, .out] s (bad t detail s) :=
  bad_keeps (free_changesOnly _ _) (ChangesOnly.refl _ _)

@[simp] theorem bad_flash {t : Tok} {detail : Nat} {s : State} : (bad t detail s).flash = s.flash :=
  bad_only .flash (by decide)
@[simp] theorem bad_rows {t : Tok} {detail : Nat} {s : State} : (bad t detail s).rows = s.rows :=
  bad_only .rows (by decide)
@[simp] theorem bad_slots {t : Tok} {detail : Nat} {s : State} : (bad t detail s).slots = s.slots :=
  bad_only .slots (by decide)
@[simp] theorem bad_pools {t : Tok} {detail : Nat} {s : State} : (bad t detail s).pools = s.pools :=
  bad_only .pools (by decide)
@[simp] theorem bad_skein {t : Tok} {detail : Nat} {s : State} : (bad t detail s).skein = s.skein :=
  bad_only.skein (by decide) (by decide)
@[simp] theorem bad_groups {t : Tok} {detail : Nat} {s : State} : (bad t detail s).groups = s.groups :=
  bad_only .groups (by decide)
@[simp] theorem bad_bed {t : Tok} {detail : Nat} {s : State} : (bad t detail s).bed = s.bed :=
  bad_only .bed (by decide)
@[simp] theorem bad_ports {t : Tok} {detail : Nat} {s : State} : (bad t detail s).ports = s.ports :=
  bad_only .ports (by decide)
@[simp] theorem bad_drones {t : Tok} {detail : Nat} {s : State} : (bad t detail s).drones = s.drones :=
  bad_only .drones (by decide)
@[simp] theorem bad_clock {t : Tok} {detail : Nat} {s : State} : (bad t detail s).clock = s.clock :=
  bad_only .clock (by decide)
@[simp] theorem bad_routing {t : Tok} {detail : Nat} {s : State} : (bad t detail s).routing = s.routing :=
  bad_only .routing (by decide)
@[simp] theorem bad_traffic {t : Tok} {detail : Nat} {s : State} : (bad t detail s).traffic = s.traffic :=
  bad_only .traffic (by decide)
@[simp] theorem bad_flows {t : Tok} {detail : Nat} {s : State} : (bad t detail s).flows = s.flows :=
  bad_only .flows (by decide)
@[simp] theorem bad_course {t : Tok} {detail : Nat} {s : State} : (bad t detail s).course = s.course :=
  bad_only .course (by decide)
@[simp] theorem bad_perf {t : Tok} {detail : Nat} {s : State} : (bad t detail s).perf = s.perf :=
  bad_only.perf (by decide) (by decide)
@[simp] theorem bad_power {t : Tok} {detail : Nat} {s : State} : (bad t detail s).power = s.power :=
  bad_only .power (by decide)
@[simp] theorem bad_drops {t : Tok} {detail : Nat} {s : State} : (bad t detail s).drops = s.drops :=
  bad_only .drops (by decide)
@[simp] theorem bad_pending {t : Tok} {detail : Nat} {s : State} : (bad t detail s).pending = s.pending :=
  bad_only .pending (by decide)

theorem takeDesc_only {n : Nat} {d : Desc} {s : State} : ChangesOnly [.host, .perf] s (takeDesc n d s) :=
  takeDesc_keeps (free_changesOnly _ _) (ChangesOnly.refl _ _)

@[simp] theorem takeDesc_flash {n : Nat} {d : Desc} {s : State} : (takeDesc n d s).flash = s.flash :=
  takeDesc_only .flash (by decide)
@[simp] theorem takeDesc_rows {n : Nat} {d : Desc} {s : State} : (takeDesc n d s).rows = s.rows :=
  takeDesc_only .rows (by decide)
@[simp] theorem takeDesc_slots {n : Nat} {d : Desc} {s : State} : (takeDesc n d s).slots = s.slots :=
  takeDesc_only .slots (by decide)
@[simp] theorem takeDesc_pools {n : Nat} {d : Desc} {s : State} : (takeDesc n d s).pools = s.pools :=
  takeDesc_only .pools (by decide)
@[simp] theorem takeDesc_skein {n : Nat} {d : Desc} {s : State} : (takeDesc n d s).skein = s.skein :=
  takeDesc_only.skein (by decide) (by decide)
@[simp] theorem takeDesc_groups {n : Nat} {d : Desc} {s : State} : (takeDesc n d s).groups = s.groups :=
  takeDesc_only .groups (by decide)
@[simp] theorem takeDesc_bed {n : Nat} {d : Desc} {s : State} : (takeDesc n d s).bed = s.bed :=
  takeDesc_only .bed (by decide)
@[simp] theorem takeDesc_ports {n : Nat} {d : Desc} {s : State} : (takeDesc n d s).ports = s.ports :=
  takeDesc_only .ports (by decide)
@[simp] theorem takeDesc_drones {n : Nat} {d : Desc} {s : State} : (takeDesc n d s).drones = s.drones :=
  takeDesc_only .drones (by decide)
@[simp] theorem takeDesc_clock {n : Nat} {d : Desc} {s : State} : (takeDesc n d s).clock = s.clock :=
  takeDesc_only .clock (by decide)
@[simp] theorem takeDesc_routing {n : Nat} {d : Desc} {s : State} : (takeDesc n d s).routing = s.routing :=
  takeDesc_only .routing (by decide)
@[simp] theorem takeDesc_traffic {n : Nat} {d : Desc} {s : State} : (takeDesc n d s).traffic = s.traffic :=
  takeDesc_only .traffic (by decide)
@[simp] theorem takeDesc_flows {n : Nat} {d : Desc} {s : State} : (takeDesc n d s).flows = s.flows :=
  takeDesc_only .flows (by decide)
@[simp] theorem takeDesc_course {n : Nat} {d : Desc} {s : State} : (takeDesc n d s).course = s.course :=
  takeDesc_only .course (by decide)
@[simp] theorem takeDesc_boot {n : Nat} {d : Desc} {s : State} : (takeDesc n d s).boot = s.boot :=
  takeDesc_only.boot (by decide) (by decide)
@[simp] theorem takeDesc_power {n : Nat} {d : Desc} {s : State} : (takeDesc n d s).power = s.power :=
  takeDesc_only .power (by decide)
@[simp] theorem takeDesc_drops {n : Nat} {d : Desc} {s : State} : (takeDesc n d s).drops = s.drops :=
  takeDesc_only .drops (by decide)
@[simp] theorem takeDesc_out {n : Nat} {d : Desc} {s : State} : (takeDesc n d s).out = s.out :=
  takeDesc_only .out (by decide)
@[simp] theorem takeDesc_pending {n : Nat} {d : Desc} {s : State} : (takeDesc n d s).pending = s.pending :=
  takeDesc_only .pending (by decide)

theorem sendOwn_only {p : Packet} {s : State} : ChangesOnly
    [.host, .pools, .ports, .routing, .traffic, .perf, .blocked, .drops, .out] s (sendOwn p s) :=
  sendOwn_keeps (free_changesOnly _ _) (ChangesOnly.refl _ _)

@[simp] theorem sendOwn_flash {p : Packet} {s : State} : (sendOwn p s).flash = s.flash :=
  sendOwn_only .flash (by decide)
@[simp] theorem sendOwn_rows {p : Packet} {s : State} : (sendOwn p s).rows = s.rows :=
  sendOwn_only .rows (by decide)
@[simp] theorem sendOwn_slots {p : Packet} {s : State} : (sendOwn p s).slots = s.slots :=
  sendOwn_only .slots (by decide)
@[simp] theorem sendOwn_skein {p : Packet} {s : State} : (sendOwn p s).skein = s.skein :=
  sendOwn_only.skein (by decide) (by decide)
@[simp] theorem sendOwn_groups {p : Packet} {s : State} : (sendOwn p s).groups = s.groups :=
  sendOwn_only .groups (by decide)
@[simp] theorem sendOwn_bed {p : Packet} {s : State} : (sendOwn p s).bed = s.bed :=
  sendOwn_only .bed (by decide)
@[simp] theorem sendOwn_drones {p : Packet} {s : State} : (sendOwn p s).drones = s.drones :=
  sendOwn_only .drones (by decide)
@[simp] theorem sendOwn_clock {p : Packet} {s : State} : (sendOwn p s).clock = s.clock :=
  sendOwn_only .clock (by decide)
@[simp] theorem sendOwn_flows {p : Packet} {s : State} : (sendOwn p s).flows = s.flows :=
  sendOwn_only .flows (by decide)
@[simp] theorem sendOwn_course {p : Packet} {s : State} : (sendOwn p s).course = s.course :=
  sendOwn_only .course (by decide)
@[simp] theorem sendOwn_power {p : Packet} {s : State} : (sendOwn p s).power = s.power :=
  sendOwn_only .power (by decide)
@[simp] theorem sendOwn_pending {p : Packet} {s : State} : (sendOwn p s).pending = s.pending :=
  sendOwn_only .pending (by decide)

theorem sendCtl_only {p : Packet} {s : State} : ChangesOnly
    [.host, .pools, .ports, .routing, .traffic, .perf, .blocked, .drops, .out] s (sendCtl p s) :=
  sendCtl_keeps (free_changesOnly _ _) (ChangesOnly.refl _ _)

@[simp] theorem sendCtl_flash {p : Packet} {s : State} : (sendCtl p s).flash = s.flash :=
  sendCtl_only .flash (by decide)
@[simp] theorem sendCtl_rows {p : Packet} {s : State} : (sendCtl p s).rows = s.rows :=
  sendCtl_only .rows (by decide)
@[simp] theorem sendCtl_slots {p : Packet} {s : State} : (sendCtl p s).slots = s.slots :=
  sendCtl_only .slots (by decide)
@[simp] theorem sendCtl_skein {p : Packet} {s : State} : (sendCtl p s).skein = s.skein :=
  sendCtl_only.skein (by decide) (by decide)
@[simp] theorem sendCtl_groups {p : Packet} {s : State} : (sendCtl p s).groups = s.groups :=
  sendCtl_only .groups (by decide)
@[simp] theorem sendCtl_bed {p : Packet} {s : State} : (sendCtl p s).bed = s.bed :=
  sendCtl_only .bed (by decide)
@[simp] theorem sendCtl_drones {p : Packet} {s : State} : (sendCtl p s).drones = s.drones :=
  sendCtl_only .drones (by decide)
@[simp] theorem sendCtl_clock {p : Packet} {s : State} : (sendCtl p s).clock = s.clock :=
  sendCtl_only .clock (by decide)
@[simp] theorem sendCtl_flows {p : Packet} {s : State} : (sendCtl p s).flows = s.flows :=
  sendCtl_only .flows (by decide)
@[simp] theorem sendCtl_course {p : Packet} {s : State} : (sendCtl p s).course = s.course :=
  sendCtl_only .course (by decide)
@[simp] theorem sendCtl_power {p : Packet} {s : State} : (sendCtl p s).power = s.power :=
  sendCtl_only .power (by decide)
@[simp] theorem sendCtl_pending {p : Packet} {s : State} : (sendCtl p s).pending = s.pending :=
  sendCtl_only .pending (by decide)

theorem originateOwn_only {p : Packet} {s : State} : ChangesOnly
    [.host, .pools, .ports, .routing, .traffic, .perf, .blocked, .drops, .out] s (originateOwn p s) :=
  originateOwn_keeps (free_changesOnly _ _) (ChangesOnly.refl _ _)

@[simp] theorem originateOwn_flash {p : Packet} {s : State} : (originateOwn p s).flash = s.flash :=
  originateOwn_only .flash (by decide)
@[simp] theorem originateOwn_rows {p : Packet} {s : State} : (originateOwn p s).rows = s.rows :=
  originateOwn_only .rows (by decide)
@[simp] theorem originateOwn_slots {p : Packet} {s : State} : (originateOwn p s).slots = s.slots :=
  originateOwn_only .slots (by decide)
@[simp] theorem originateOwn_skein {p : Packet} {s : State} : (originateOwn p s).skein = s.skein :=
  originateOwn_only.skein (by decide) (by decide)
@[simp] theorem originateOwn_groups {p : Packet} {s : State} : (originateOwn p s).groups = s.groups :=
  originateOwn_only .groups (by decide)
@[simp] theorem originateOwn_bed {p : Packet} {s : State} : (originateOwn p s).bed = s.bed :=
  originateOwn_only .bed (by decide)
@[simp] theorem originateOwn_drones {p : Packet} {s : State} : (originateOwn p s).drones = s.drones :=
  originateOwn_only .drones (by decide)
@[simp] theorem originateOwn_clock {p : Packet} {s : State} : (originateOwn p s).clock = s.clock :=
  originateOwn_only .clock (by decide)
@[simp] theorem originateOwn_flows {p : Packet} {s : State} : (originateOwn p s).flows = s.flows :=
  originateOwn_only .flows (by decide)
@[simp] theorem originateOwn_course {p : Packet} {s : State} : (originateOwn p s).course = s.course :=
  originateOwn_only .course (by decide)
@[simp] theorem originateOwn_power {p : Packet} {s : State} : (originateOwn p s).power = s.power :=
  originateOwn_only .power (by decide)
@[simp] theorem originateOwn_pending {p : Packet} {s : State} : (originateOwn p s).pending = s.pending :=
  originateOwn_only .pending (by decide)

theorem consume_only {p : Packet} {s : State} : ChangesOnly
    [.host, .pools, .ports, .routing, .perf, .blocked, .out] s (consume p s) :=
  consume_keeps (free_changesOnly _ _) (ChangesOnly.refl _ _)

@[simp] theorem consume_flash {p : Packet} {s : State} : (consume p s).flash = s.flash :=
  consume_only .flash (by decide)
@[simp] theorem consume_rows {p : Packet} {s : State} : (consume p s).rows = s.rows :=
  consume_only .rows (by decide)
@[simp] theorem consume_slots {p : Packet} {s : State} : (consume p s).slots = s.slots :=
  consume_only .slots (by decide)
@[simp] theorem consume_skein {p : Packet} {s : State} : (consume p s).skein = s.skein :=
  consume_only.skein (by decide) (by decide)
@[simp] theorem consume_groups {p : Packet} {s : State} : (consume p s).groups = s.groups :=
  consume_only .groups (by decide)
@[simp] theorem consume_bed {p : Packet} {s : State} : (consume p s).bed = s.bed :=
  consume_only .bed (by decide)
@[simp] theorem consume_drones {p : Packet} {s : State} : (consume p s).drones = s.drones :=
  consume_only .drones (by decide)
@[simp] theorem consume_clock {p : Packet} {s : State} : (consume p s).clock = s.clock :=
  consume_only .clock (by decide)
@[simp] theorem consume_traffic {p : Packet} {s : State} : (consume p s).traffic = s.traffic :=
  consume_only .traffic (by decide)
@[simp] theorem consume_flows {p : Packet} {s : State} : (consume p s).flows = s.flows :=
  consume_only .flows (by decide)
@[simp] theorem consume_course {p : Packet} {s : State} : (consume p s).course = s.course :=
  consume_only .course (by decide)
@[simp] theorem consume_power {p : Packet} {s : State} : (consume p s).power = s.power :=
  consume_only .power (by decide)
@[simp] theorem consume_drops {p : Packet} {s : State} : (consume p s).drops = s.drops :=
  consume_only .drops (by decide)
@[simp] theorem consume_pending {p : Packet} {s : State} : (consume p s).pending = s.pending :=
  consume_only .pending (by decide)

theorem addRow_only {n : Nat} {inc : Nat} {s : State} : ChangesOnly
    [.host, .rows, .pools, .ports, .routing, .traffic, .perf, .blocked, .drops, .out] s (addRow n inc s) :=
  addRow_keeps (free_changesOnly _ _) (ChangesOnly.refl _ _)

@[simp] theorem addRow_flash {n : Nat} {inc : Nat} {s : State} : (addRow n inc s).flash = s.flash :=
  addRow_only .flash (by decide)
@[simp] theorem addRow_slots {n : Nat} {inc : Nat} {s : State} : (addRow n inc s).slots = s.slots :=
  addRow_only .slots (by decide)
@[simp] theorem addRow_skein {n : Nat} {inc : Nat} {s : State} : (addRow n inc s).skein = s.skein :=
  addRow_only.skein (by decide) (by decide)
@[simp] theorem addRow_groups {n : Nat} {inc : Nat} {s : State} : (addRow n inc s).groups = s.groups :=
  addRow_only .groups (by decide)
@[simp] theorem addRow_bed {n : Nat} {inc : Nat} {s : State} : (addRow n inc s).bed = s.bed :=
  addRow_only .bed (by decide)
@[simp] theorem addRow_drones {n : Nat} {inc : Nat} {s : State} : (addRow n inc s).drones = s.drones :=
  addRow_only .drones (by decide)
@[simp] theorem addRow_clock {n : Nat} {inc : Nat} {s : State} : (addRow n inc s).clock = s.clock :=
  addRow_only .clock (by decide)
@[simp] theorem addRow_flows {n : Nat} {inc : Nat} {s : State} : (addRow n inc s).flows = s.flows :=
  addRow_only .flows (by decide)
@[simp] theorem addRow_course {n : Nat} {inc : Nat} {s : State} : (addRow n inc s).course = s.course :=
  addRow_only .course (by decide)
@[simp] theorem addRow_power {n : Nat} {inc : Nat} {s : State} : (addRow n inc s).power = s.power :=
  addRow_only .power (by decide)
@[simp] theorem addRow_pending {n : Nat} {inc : Nat} {s : State} : (addRow n inc s).pending = s.pending :=
  addRow_only .pending (by decide)

theorem sendFlow_only {p : Packet} {cell : Option (Nat × Nat)} {why : Purpose} {s : State} : ChangesOnly
    [.host, .pools, .ports, .routing, .traffic, .flows, .perf, .blocked, .drops, .out] s (sendFlow p cell why s) :=
  sendFlow_keeps (free_changesOnly _ _) (ChangesOnly.refl _ _)

@[simp] theorem sendFlow_flash {p : Packet} {cell : Option (Nat × Nat)} {why : Purpose} {s : State} :
    (sendFlow p cell why s).flash = s.flash :=
  sendFlow_only .flash (by decide)
@[simp] theorem sendFlow_rows {p : Packet} {cell : Option (Nat × Nat)} {why : Purpose} {s : State} :
    (sendFlow p cell why s).rows = s.rows :=
  sendFlow_only .rows (by decide)
@[simp] theorem sendFlow_slots {p : Packet} {cell : Option (Nat × Nat)} {why : Purpose} {s : State} :
    (sendFlow p cell why s).slots = s.slots :=
  sendFlow_only .slots (by decide)
@[simp] theorem sendFlow_skein {p : Packet} {cell : Option (Nat × Nat)} {why : Purpose} {s : State} :
    (sendFlow p cell why s).skein = s.skein :=
  sendFlow_only.skein (by decide) (by decide)
@[simp] theorem sendFlow_groups {p : Packet} {cell : Option (Nat × Nat)} {why : Purpose} {s : State} :
    (sendFlow p cell why s).groups = s.groups :=
  sendFlow_only .groups (by decide)
@[simp] theorem sendFlow_bed {p : Packet} {cell : Option (Nat × Nat)} {why : Purpose} {s : State} :
    (sendFlow p cell why s).bed = s.bed :=
  sendFlow_only .bed (by decide)
@[simp] theorem sendFlow_drones {p : Packet} {cell : Option (Nat × Nat)} {why : Purpose} {s : State} :
    (sendFlow p cell why s).drones = s.drones :=
  sendFlow_only .drones (by decide)
@[simp] theorem sendFlow_clock {p : Packet} {cell : Option (Nat × Nat)} {why : Purpose} {s : State} :
    (sendFlow p cell why s).clock = s.clock :=
  sendFlow_only .clock (by decide)
@[simp] theorem sendFlow_course {p : Packet} {cell : Option (Nat × Nat)} {why : Purpose} {s : State} :
    (sendFlow p cell why s).course = s.course :=
  sendFlow_only .course (by decide)
@[simp] theorem sendFlow_power {p : Packet} {cell : Option (Nat × Nat)} {why : Purpose} {s : State} :
    (sendFlow p cell why s).power = s.power :=
  sendFlow_only .power (by decide)
@[simp] theorem sendFlow_pending {p : Packet} {cell : Option (Nat × Nat)} {why : Purpose} {s : State} :
    (sendFlow p cell why s).pending = s.pending :=
  sendFlow_only .pending (by decide)

/-! ## Outstanding commands (R394, R397) -/

@[simp] theorem sendMsix_outstanding {v : Nat} {s : State} :
    (sendMsix v s).host.outstanding = s.host.outstanding := by
  unfold sendMsix
  dsimp only
  split <;> rfl

@[simp] theorem cqModerate_outstanding {n : Nat} {s : State} :
    (cqModerate n s).host.outstanding = s.host.outstanding := by
  unfold cqModerate
  dsimp only
  repeat' split
  all_goals first | rfl | rw [sendMsix_outstanding, outstanding_updCq]

@[simp] theorem cqPut_outstanding {n : Nat} {e : BitVec 512} {v c : Bool} {s : State} :
    (cqPut n e v c s).host.outstanding = s.host.outstanding := by
  unfold cqPut
  split
  · simp [cqWrite]
  · rfl

@[simp] theorem postEvent_outstanding {c a b : Nat} {bs : List Byte} {s : State} :
    (postEvent c a b bs s).host.outstanding = s.host.outstanding := by
  unfold postEvent
  split
  · rfl
  · split
    · exact cqPut_outstanding
    · rfl

/-- A completion takes its command out of the outstanding ones. -/
theorem complete_outstanding {k : Tok} {a b c : Nat} {bs : List Byte} {s : State} :
    (complete k a b c bs s).host.outstanding = s.host.outstanding.filter (·.id != k.id) := by
  unfold complete
  split
  · rename_i h
    have h2 := List.find?_eq_none.mp h
    symm
    refine List.filter_eq_self.mpr fun x hx => ?_
    have := h2 x hx
    simpa [bne] using this
  · rename_i t h
    have e : t.id = k.id := by simpa using List.find?_some h
    rw [e]
    dsimp only
    split <;> split <;> simp [cqPut_outstanding]

/-! ## Salpor commands (R394) -/

/-- A command whose descriptor is taken and names it runs its body. -/
theorem runCommand_taken {op : Nat} {sq : BitVec 8} {d : Desc} {body : Tok → State → State} {s : State}
    (h : Taken s sq d op) : runCommand op sq d body s = body (tokOf s sq d) (taking s sq d) := by
  unfold runCommand
  rw [if_pos h.1]
  exact if_pos h.2

/-- A taken descriptor of another opcode completes with BAD_DESCRIPTOR, detail OPCODE. -/
theorem runCommand_opcode {op : Nat} {sq : BitVec 8} {d : Desc} {body : Tok → State → State} {s : State}
    (h : canTake s sq.toNat d = true) (o : dOpcode d ≠ op) :
    runCommand op sq d body s = bad (tokOf s sq d) dtOpcode (taking s sq d) := by
  unfold runCommand
  rw [if_pos h]
  exact if_neg o

/-- A descriptor that is not taken. -/
theorem runCommand_not {op : Nat} {sq : BitVec 8} {d : Desc} {body : Tok → State → State} {s : State}
    (h : canTake s sq.toNat d = false) : runCommand op sq d body s = notTaken sq.toNat d s := by
  unfold runCommand
  rw [if_neg (by simp [h])]

end Sys2Proof.Machine
end

