-- ==== Sys2Proof/Tests/Slice0.lean ====
section
/-!
SUPPORT. Tests: ill-formed commands that WellFormed refuses, small runs of single commands against values worked out from
the manual, and states and operands that meet the hypotheses of every statement.
-/
set_option Elab.async false

namespace Sys2Proof.Tests
open Sys2Proof.Machine

/-! ## States -/

/-- An identity record of module 7, and a boot control record, each with the CRC of its fields. -/
def id0 : IdentityRecord :=
  let i : IdentityRecord := { serial := 7, config := .b2s2, gradeH := false, seed := 0, publicKey := 0, cert := 0, crc := 0 }
  { i with crc := identityCrc i }
def ctrlAt (generation : BitVec 32) : BootControl :=
  sealControl { generation := generation, preferred := false, trialSlot := 0xFF, trialTries := false, floor := 0, crc := 0 }
/-- A flash with a valid identity, one boot control record and no images. -/
def flash0 : Flash :=
  { romKey0 := 0, romKey1 := 0, identity := id0, ctrl0 := ctrlAt 1, ctrl1 := { ctrlAt 0 with crc := 1 }
    prot0 := [], prot1 := [], slotA := [], slotB := [] }

/-- A running module with label 2, host memory open, and rings 0 enabled with one descriptor waiting. -/
def t0 : State :=
  { State.initial flash0 with
    boot := { life := .running, stage := 2 }
    clock := { now := 2000000000, fine := 128000, locked := true, timeValid := true }
    routing := { label := 2, idFixed := true, bank0 := .current }
    host :=
      { ringsEn := true, bme := true, fwReady := true
        sqs := [(0, { base := 0x10000, enable := true, active := true, size := 16, tail := 1 })]
        cqs := [(0, { base := 0x20000, enable := true, active := true, size := 16 })] } }

/-- A descriptor with an opcode and fields (offset, size, value). -/
def desc (op : Nat) (fs : List (Nat × Nat × Nat)) : Desc :=
  fs.foldl (fun d f => setField d f.1 f.2.1 f.2.2) (BitVec.ofNat 512 op)

/-- A control packet of a type with fields (offset, size, value). -/
def ctl (t : Nat) (fs : List (Nat × Nat × Nat)) : Packet :=
  { hdr := fs.foldl (fun d f => setField d f.1 f.2.1 f.2.2) (BitVec.ofNat 512 t), payload := [], trailer := 0 }

/-- A command outstanding on ring 0. -/
def tok1 : Tok :=
  { id := 9, sq := 0, cq := 0, tag := 77, opcode := 0, sqHead := 1, noIrq := false, dead := false }


/-! ## WellFormed refuses -/

theorem test_wf_opcode : (Instr.nop 0 (.read (desc 0x01 []))).wf = false := by decide +kernel
theorem test_wf_sqEnable : (Instr.sqEnable 0 16).wf = false := by decide +kernel
theorem test_wf_sqDisable : (Instr.sqDisable 0 0x80000000).wf = false := by decide +kernel
theorem test_wf_cqEnable : (Instr.cqEnable 0 16).wf = false := by decide +kernel
theorem test_wf_cqDisable : (Instr.cqDisable 0 0x8000000000000000).wf = false := by decide +kernel
theorem test_wf_stage : (Instr.stage 2 none).wf = false := by decide +kernel
theorem test_wf_protect : (Instr.protect 4 none).wf = false := by decide +kernel
theorem test_wf_attest : (Instr.attestGo 2).wf = false := by decide +kernel
theorem test_wf_offset : (Instr.registerHalfAccess 2 true 0).wf = false := by decide +kernel
theorem test_wf_wide : (Instr.registerWrite (.bar0 4) .b32 0x100000000).wf = false := by decide +kernel
theorem test_wf_hank : (Instr.snapshotCopy 36864).wf = false := by decide +kernel
theorem test_wf_skein : (Instr.skeinUncorrectableError 0x60000).wf = false := by decide +kernel
theorem test_wf_codeword : (Instr.codewordRx 0 0 { message := 0, symbols := some 16 }).wf = false := by decide +kernel
theorem test_wf_sublane : (Instr.credit 0 9 0).wf = false := by decide +kernel
theorem test_wf_lane : (Instr.failedDwellEnd true 32).wf = false := by decide +kernel
theorem test_wf_type : (Instr.linkInit 0 (ctl 0x41 [])).wf = false := by decide +kernel
theorem test_wf_trailer : (Instr.packetRx 0 { ctl 0x41 [] with trailer := 1 }).wf = false := by decide +kernel
theorem test_wf_units : (Instr.put (ctl 0x01 [])).wf = false := by decide +kernel
theorem test_wf_dst : (Instr.resendTimeout 0x8800 0).wf = false := by decide +kernel
theorem test_wf_src : (Instr.flowStateExpiry 0x8800).wf = false := by decide +kernel
theorem test_wf_good : (Instr.nop 0 (.read (desc 0x00 []))).wf = true := by decide +kernel

/-! ## Rings (R388 to R397, R410) -/

theorem test_taken : Taken t0 0 (desc 0x00 []) 0x00 := ⟨by decide +kernel, by decide +kernel⟩

/-- A waiting ring: nothing to read. -/
def tEmpty : State := updSq 0 (fun q => { q with tail := 0 }) t0
theorem test_not_pending : sqPending tEmpty 0 = false := by decide +kernel

/-- A command of ring 0 outstanding. -/
def tBusy : State := { t0 with host := { t0.host with outstanding := [tok1] } }
/-- A descriptor that waits for earlier commands. -/
def dFenced : Desc := desc 0x00 [(1, 1, 1)]
theorem test_fenced : sqPending tBusy 0 = true ∧ turnRing tBusy = some 0 ∧ inHostWindow tBusy (0x10000 + 64 * 0) 64 = true ∧
    dFence dFenced = true ∧ tBusy.host.outstanding.any (·.sq.toNat == 0) = true := by decide +kernel

/-- Completion ring 0 with every entry reserved. -/
def tFull : State := updCq 0 (fun c => { c with reserved := 15 }) t0
theorem test_no_room : sqPending tFull 0 = true ∧ turnRing tFull = some 0 ∧ cqOpen tFull (dCq (desc 0 [])) = true ∧
    cqHasRoom (getCq tFull (dCq (desc 0 []))) = false := by decide +kernel
theorem test_room_for_one : cqHasRoom (getCq (updCq 0 (fun c => { c with reserved := 14 }) t0) 0) = true := by decide +kernel
theorem test_no_cq : sqPending t0 0 = true ∧ turnRing t0 = some 0 ∧ cqOpen t0 (dCq (desc 0 [(2, 2, 1)])) = false := by decide +kernel

/-- Rings 0 and 1 with a descriptor each; `turn` and `left` say whose turn it is and what is left of it. -/
def tTurn (turn left : Nat) : State :=
  let s := updSq 1 (fun _ => { base := 0x40000, enable := true, active := true, size := 16, tail := 1 }) t0
  { s with host := { s.host with turn := turn, turnLeft := left } }
theorem test_turns : turnRing (tTurn 255 0) = some 0 ∧ turnRing (tTurn 0 0) = some 1 ∧ turnRing (tTurn 1 0) = some 0 ∧
    turnRing (tTurn 1 2) = some 1 ∧ sqPending (tTurn 255 0) 1 = true ∧ inHostWindow (tTurn 255 0) (0x40000 + 64 * 0) 64 = true := by
  decide +kernel
/-- A module whose only host window has no byte. -/
def tShut : State := { t0 with boot := { t0.boot with prot := [0, 0, 0, 0, 0, 0, 1] } }
theorem test_out_of_window : sqPending tShut 0 = true ∧ inHostWindow tShut (0x10000 + 64 * 0) 64 = false := by decide +kernel

theorem test_completion : tBusy.host.outstanding.find? (·.id == tok1.id) = some tok1 ∧ tok1.dead = false ∧
    hostOk tBusy = true ∧ leAt tBusy.boot.prot 6 1 = 0 ∧ hostOk { tBusy with host := { tBusy.host with bme := false } } = false ∧
    ∃ t : Tok, t.dead = true ∧ { tBusy with host := { tBusy.host with outstanding := [t] } }.host.outstanding.find? (·.id == t.id) =
      some t := ⟨by decide +kernel, rfl, by decide +kernel, by decide +kernel, by decide +kernel, { tok1 with dead := true }, rfl, by decide +kernel⟩
/-- At the end of the ring the tail comes round; with `mod_count` 1 the vector, which is masked, becomes pending. -/
theorem test_completion_round :
    let s := updCq 0 (fun c => { c with tail := 15, irqEn := true, vector := 3 }) tBusy
    let t := ok tok1 5 [] s
    (getCq t 0).tail = 0 ∧ (getCq t 0).oddPass = !(getCq s 0).oddPass ∧ (getCq t 0).sinceIrq = 0 ∧
    (tget {} t.host.msix 3 : MsixVec).pending = true ∧ t.out.msix = [] := by decide +kernel
/-- The entry's bytes (Table 13.19): tag 77, status OK, phase bit 1 on the first pass. -/
theorem test_completion_bytes : (ok tok1 5 [] tBusy).out.hostWrites.map (fun w => (w.1, w.2.take 8)) =
    [(0x20008, [0, 0, 1, 0, 0, 0, 0, 0]), (0x20000, [77, 0, 0, 0, 0, 0, 0, 1])] := by decide +kernel

/-- Rings 1 with a base, not enabled. -/
def tOff : State := updCq 1 (fun c => { c with base := 0x30000 }) (updSq 1 (fun q => { q with base := 0x40000 }) t0)
/-- Accesses of the host are taken while the module runs, and in reset-hold, but not in reset. -/
theorem test_host_up : hostUp t0 = true ∧ hostUp { t0 with boot := { t0.boot with life := .resetHold } } = true ∧
    hostUp { t0 with boot := { t0.boot with life := .inReset } } = false := by decide +kernel
theorem test_ring_sizes : ringSizeOk 16 = true ∧ ringSizeOk 65536 = true ∧ ringSizeOk 8 = false ∧ ringSizeOk 24 = false ∧
    ringSizeOk 131072 = false := by decide +kernel
theorem test_ring_off : (getSq tOff 1).enable = false ∧ (getSq tOff 1).base ≠ 0 ∧ (getCq tOff 1).enable = false ∧
    (getCq tOff 1).base ≠ 0 ∧ (getSq t0 1).base = 0 ∧ (getSq t0 0).enable = true ∧ (getCq t0 0).enable = true := by decide +kernel
theorem test_ring_enabled : (getSq (nextOr t0 (exec (.sqEnable 1 0x85000010) tOff)) 1).weight = 5 ∧
    (getSq (nextOr t0 (exec (.sqEnable 1 0x80000010) tOff)) 1).weight = 1 := by decide +kernel
/-- A sample ring with a base, and one that is enabled. -/
def tSmp : State := { t0 with host := { t0.host with sample := { base := 0x50000 } } }
def tSmpOn : State :=
  { t0 with host := { t0.host with sample := { base := 0x50000, enable := true, active := true, size := 16, tail := 3 } } }
theorem test_sample_ring : bit (0x80000010#32).toNat 31 = true ∧ tSmp.host.sample.enable = false ∧
    tSmp.host.sample.base ≠ 0 ∧ ringSizeOk (BitVec.ofNat 17 (0x80000010#32).toNat).toNat = true := by decide +kernel

/-- Rings without a base, and a sample ring in use. -/
theorem test_ring_no_base : (getCq t0 1).base = 0 ∧ (getCq t0 1).enable = false ∧ t0.host.sample.base = 0 ∧
    t0.host.sample.enable = false ∧ tSmpOn.host.sample.enable = true ∧ (2 : Nat) ^ 4 = 16 ∧ (2 : Nat) ^ 16 = 65536 := by decide +kernel
theorem test_cq_disable : (getCq tBusy (0 : BitVec 8).toNat).active = true ∧
    ∃ x ∈ tBusy.host.outstanding, x.cq = 0 ∧ x.dead = false := by decide +kernel
theorem test_doorbells : (getSq t0 1).enable = false ∧ (getSq t0 0).enable = true ∧
    (15#32).toNat < (getSq t0 0).size.toNat ∧ (getSq t0 0).size.toNat ≤ (16#32).toNat ∧
    (getCq t0 1).enable = false ∧ (getCq t0 0).enable = true := by decide +kernel
/-- A completion ring whose tail has come round: entries 14, 15, 0 and 1 are written. -/
def tRound : State := updCq 0 (fun c => { c with head := 14, tail := 2 }) t0
theorem test_cq_heads : inWritten 14 2 16 15 = true ∧ inWritten 14 2 16 2 = true ∧ inWritten 14 2 16 3 = false ∧
    inWritten 14 2 16 13 = false ∧ inWritten 14 2 16 16 = false := by decide +kernel
theorem test_sample_heads : tSmpOn.host.sample.enable = true ∧ t0.host.sample.enable = false ∧
    inWritten 0 3 16 3 = true ∧ inWritten 0 3 16 4 = false := by decide +kernel

/-- One entry counted on ring 0 since 10 µs, vector 3 not masked. -/
def tIrq : State :=
  let s := updCq 0 (fun c => { c with irqEn := true, vector := 3, modCount := 4, modTime := 10, sinceIrq := 1
                                      irqStart := some (2000000000 - 12500) }) t0
  { s with host := { s.host with msix := [(3, { masked := false })], pcie := { s.host.pcie with msixEnable := true } } }
theorem test_irq_due : (getCq tIrq 0).irqEn = true ∧ (getCq tIrq 0).sinceIrq ≠ 0 ∧
    (getCq tIrq 0).irqStart = some (2000000000 - 12500) ∧
    (getCq tIrq 0).modTime.toNat * 1250 ≤ tIrq.clock.now - (2000000000 - 12500) ∧
    vectorOpen tIrq (getCq tIrq 0).vector.toNat = true ∧
    vectorOpen { tIrq with host := { tIrq.host with bme := false } } (getCq tIrq 0).vector.toNat = false := by decide +kernel
theorem test_irq_early : let s := updCq 0 (fun c => { c with irqStart := some (2000000000 - 12499) }) tIrq
    (getCq s 0).irqStart = some (2000000000 - 12499) ∧ s.clock.now - (2000000000 - 12499) < (getCq s 0).modTime.toNat * 1250 ∧
    (getCq s 0).sinceIrq < (getCq s 0).modCount.toNat := by decide +kernel
theorem test_irq_sent : (nextOr t0 (exec (.irqModerationTimeout 0) tIrq)).out.msix = [3] := by decide +kernel
theorem test_unmask : (nextOr t0 (exec (.vectorUnmask 4)
    { tIrq with host := { tIrq.host with msix := [(4, { masked := true, pending := true })] } })).out.msix = [4] := by decide +kernel
theorem test_bme : (false && t0.host.ringsEn) = false ∧ (false && t0.host.bme) = false ∧ t0.host.ringsEn = true ∧
    t0.host.bme = true ∧ t0.host.msix = [] ∧ t0.host.pcie.d3hot = false ∧ (2 : BitVec 3).toNat ≤ 2 ∧ (5 : BitVec 3).toNat ≤ 5 := by
  decide +kernel
/-- BAR2: the doorbell of SQ 1 is at 64, of CQ 1 at 0x4040; a place between them is ignored. -/
theorem test_bar2 : (getSq (nextOr t0 (exec (.registerWrite (.bar2 64) .b32 3) (tTurn 0 0))) 1).tail = 3 ∧
    (getSq (nextOr t0 (exec (.registerWrite (.bar2 68) .b32 3) (tTurn 0 0))) 1).tail = 1 ∧ (68#16).toNat % 64 ≠ 0 ∧
    0x8000 < (0x8040#16).toNat := by decide +kernel

theorem test_can_take : t0.host.pcie.d3hot = false ∧ turnRing t0 = some 0 ∧ canTake t0 0 (desc 0 []) = true ∧ dCq (desc 0 []) < 256 ∧
    cqUsed (getCq t0 0) + (getCq t0 0).reserved + (getCq t0 0).waiting.length + 1 < (getCq t0 0).size.toNat ∧
    (∀ x ∈ tBusy.host.outstanding, x.sq.toNat ≠ 1) := by decide +kernel
/-- A completion waits on ring 0, and a dump record too; whether the record's write fails is a free value. -/
def tServed (bs : Option (List Byte)) : State :=
  let s := updCq 0 (fun c => { c with waiting := [(5, false, true)] }) t0
  { s with perf := { s.perf with base := 0x60000, slotSize := 1, size := 16, waitRec := bs } }
theorem test_served : ((tServed none).host.cqs.map (·.1)).Nodup ∧ leAt (tServed none).boot.prot 6 1 = 0 ∧ hostUp (tServed none) = true ∧
    (Rules.entryWrites (getCq (tServed none) 0) (getCq (tServed none) 0).waiting).map (·.1) = [0x20008, 0x20000] ∧
    (tServed (some [1, 2])).perf.waitRec = some [1, 2] ∧
    ((nextOr t0 (exec (.ringsEn true) (tServed none))).out.hostWrites).map (·.1) = [0x20008, 0x20000] := by decide +kernel

/-! ## Rows, programs (R405, R406, R233, R128) -/

theorem test_reads : (Taken t0 0 (desc 0x40 [(8, 2, 3)]) 0x40 ∧ dRsvdOk (desc 0x40 [(8, 2, 3)]) [(8, 2)] = true) ∧
    (Taken t0 0 (desc 0x03 [(8, 1, 63)]) 0x03 ∧ dRsvdOk (desc 0x03 [(8, 1, 63)]) [(8, 1)] = true ∧
      field (desc 0x03 [(8, 1, 63)]) 8 1 < 64) ∧
    (Taken t0 0 (desc 0x34 [(8, 4, 0x20000)]) 0x34 ∧ dRsvdOk (desc 0x34 [(8, 4, 0x20000)]) [(8, 4)] = true ∧
      settingMapped (field (desc 0x34 [(8, 4, 0x20000)]) 8 4) = true) := by
  unfold Taken; decide +kernel

def dAdd : Desc := desc 0x42 [(8, 2, 65535), (16, 8, 2 ^ 64 - 1)]
theorem test_row_add : Taken t0 0 dAdd 0x42 ∧ dRsvdOk dAdd [(8, 2), (16, 8)] = true := by
  unfold Taken; decide +kernel
theorem test_row_wraps : rowValue (nextOr t0 (exec (.rowAdd 0 dAdd) (setRow 65535 3 t0))) 65535 = 2 := by decide +kernel
def dWait (thr : Nat) : Desc := desc 0x41 [(8, 2, 4), (16, 8, thr)]
theorem test_row_wait : Taken t0 0 (dWait 7) 0x41 ∧ dRsvdOk (dWait 7) [(8, 2), (16, 8)] = true ∧
    field (dWait 7) 16 8 ≤ rowValue (setRow 4 7 t0) (field (dWait 7) 8 2) ∧
    rowValue (setRow 4 6 t0) (field (dWait 7) 8 2) < field (dWait 7) 16 8 ∧ t0.rows.hostW.length < 4096 := by
  unfold Taken; decide +kernel
def tWaiters : State :=
  { t0 with rows := { t0.rows with hostW := List.replicate 4096 { tok := tok1, row := 0, threshold := 1 } } }
theorem test_row_full : 4096 ≤ tWaiters.rows.hostW.length :=
  Nat.le_of_eq (List.length_replicate (n := 4096) (a := ({ tok := tok1, row := 0, threshold := 1 } : HostWaiter))).symm
theorem test_row_wakes : (addRow 4 1 { setRow 4 6 tBusy with rows :=
    { (setRow 4 6 tBusy).rows with hostW := [{ tok := tok1, row := 4, threshold := 7 }] } }).rows.hostW = [] := by decide +kernel

def dLoad (src lib : Nat) : Desc := desc 0x01 [(8, 1, 63), (9, 1, src), (10, 1, lib)]
/-- A reduction program of one FADD v0, v0, v1 (R100): its header of 64 bytes and one word. -/
def addProgram : List Byte :=
  leBytes 2 1 ++ [0, 1] ++ leBytes 2 1 ++ leBytes 2 0 ++ leBytes 2 1 ++ leBytes 52 0 ++ [0, 0] ++ leBytes 4 0x04001000
theorem test_load : (getSlot t0 63).binds = 0 ∧ (Taken t0 0 (dLoad 1 4) 0x01 ∧ loadDescOk (dLoad 1 4) = true ∧ field (dLoad 1 4) 9 1 = 1) ∧
    (Taken t0 0 (setField (dLoad 0 0) 12 4 68) 0x01 ∧ loadDescOk (setField (dLoad 0 0) 12 4 68) = true ∧
      hostRead t0 (field (setField (dLoad 0 0) 12 4 68) 16 8) (field (setField (dLoad 0 0) 12 4 68) 12 4) (some addProgram) = some addProgram ∧
      checkImage addProgram false = 0) ∧
    (Taken t0 0 (desc 0x02 [(8, 1, 63)]) 0x02 ∧ dRsvdOk (desc 0x02 [(8, 1, 63)]) [(8, 1)] = true) := by
  unfold Taken; decide +kernel
/-- The library images pass every check but the last, which no host image with their flag passes. -/
theorem test_library_checks : checkImage (imgBytes (libImage 1)) false = 0x0A ∧ checkImage (imgBytes (libImage 2)) false = 0x0A ∧
    checkImage (imgBytes (libImage 3)) false = 0x0A ∧ checkImage (imgBytes (libImage 4)) false = 0x0A := by decide +kernel
/-- Slot 63 BOUND. -/
def tBound : State := updSlot 63 (fun _ => { image := some (libImage 0), binds := 1 }) t0
theorem test_bound : getSlot (nextOr t0 (exec (.programLoad 0 (dLoad 1 4) none) tBound)) 63 = getSlot tBound 63 ∧
    (getSlot tBound 63).binds ≠ 0 := by decide +kernel
theorem test_clear : (getSlot (nextOr t0 (exec (.programClear 0 (desc 0x02 [(8, 1, 63)])) (updSlot 63 (fun q => { q with image := some (libImage 0) }) t0))) 63).image
    = none := by decide +kernel

/-! ## Transactions and banks (R259 to R268) -/

def tTxn (recs : List (BitVec 32 × BitVec 64)) (due : Option (BitVec 64 × Tok)) : State :=
  { tBusy with routing := { tBusy.routing with txn := some { records := recs, due := due } } }
/-- A record of TXN_WRITE: DRAIN of port 3 class 0 limits (address 0x30100), value 5. -/
def rec1 : List Byte := leBytes 4 0x30100 ++ leBytes 4 0 ++ leBytes 8 5
def dTxn (n : Nat) : Desc := desc 0x31 [(8, 2, n)]
theorem test_txn_begin : Taken t0 0 (desc 0x30 []) 0x30 ∧ dRsvdOk (desc 0x30 []) [] = true ∧ t0.routing.txn = none ∧
    Taken (tTxn [] none) 0 (desc 0x30 []) 0x30 ∧ (tTxn [] none).routing.txn ≠ none := by unfold Taken; decide +kernel
theorem test_txn_write : Taken (tTxn [] none) 0 (dTxn 1) 0x31 ∧ dRsvdOk (dTxn 1) [(8, 2), (16, 8)] = true ∧ field (dTxn 1) 8 2 ≤ 4096 ∧
    hostRead (tTxn [] none) (field (dTxn 1) 16 8) (16 * field (dTxn 1) 8 2) (some rec1) = some rec1 ∧
    recordError ([] : List (BitVec 32 × BitVec 64)).length (chunksOf 16 rec1) = none := by unfold Taken; decide +kernel
theorem test_txn_write_refuses : recordError 4096 (chunksOf 16 rec1) = some (3, 0x30100) ∧
    recordError 0 [leBytes 8 0x60000] = some (4, 0x60000) ∧ recordError 0 [leBytes 8 0x20000] = some (5, 0x20000) := by decide +kernel
def recs1 : List (BitVec 32 × BitVec 64) := [(0x30100, 5), (0x40000, 0), (0x30100, 6)]
theorem test_commit : let s := tTxn recs1 none
    Taken s 0 (desc 0x32 []) 0x32 ∧ dRsvdOk (desc 0x32 []) [(16, 8)] = true ∧ s.routing.txn = some { records := recs1, due := none } ∧
    commitChecks recs1 (taking s 0 (desc 0x32 [])) = none ∧ field (desc 0x32 []) 16 8 ≤ fabricTime s := by
  unfold Taken; decide +kernel
theorem test_all_plain (s : State) (h : (recs1.all fun r => decide (r.1.toNat ≠ 0x20001 ∧ r.1.toNat ≠ 0x20002 ∧ r.1.toNat ≠ 0x51000 ∧
    (isRouteAddr r.1.toNat = true → bankState s (routeBank r.1.toNat) ≠ .draining))) = true) : ∀ r ∈ recs1, plainRecord s r :=
  fun r hr => by unfold plainRecord; exact of_decide_eq_true (List.all_eq_true.mp h r hr)
theorem test_commit_plain : ∀ r ∈ recs1, plainRecord (tTxn recs1 none) r := test_all_plain _ (by decide +kernel)
theorem test_commit_plain_due : ∀ r ∈ recs1, plainRecord (tTxn recs1 (some (2000, tok1))) r := test_all_plain _ (by decide +kernel)
theorem test_commit_last : setting (nextOr t0 (exec (.txnCommit 0 (desc 0x32 [])) (tTxn recs1 none))) 0x30100 = 6 := by decide +kernel
theorem test_commit_later : let s := tTxn recs1 none
    let d := desc 0x32 [(16, 8, fabricTime s + 2 ^ 40)]
    Taken s 0 d 0x32 ∧ dRsvdOk d [(16, 8)] = true ∧ commitChecks recs1 (taking s 0 d) = none ∧ fabricTime s < field d 16 8 ∧
    field d 16 8 ≤ fabricTime s + 2 ^ 40 := by unfold Taken; decide +kernel
theorem test_commit_tick : let s := tTxn recs1 (some (2000, tok1))
    s.routing.txn = some { records := recs1, due := some (2000, tok1) } ∧ (2000 : BitVec 64).toNat ≤ fabricTime s ∧
    fabricTime s < (2001 : BitVec 64).toNat := by decide +kernel
theorem test_frog : Taken (tTxn recs1 none) 0 (desc 0x33 []) 0x33 ∧ dRsvdOk (desc 0x33 []) [] = true ∧
    Taken (tTxn recs1 (some (2001, tok1))) 0 (desc 0x33 []) 0x33 ∧
    fabricTime (tTxn recs1 (some (2001, tok1))) < (2001 : BitVec 64).toNat ∧
    (2000 : BitVec 64).toNat ≤ fabricTime (tTxn recs1 none) := by unfold Taken; decide +kernel

def tLoaded : State := { t0 with routing := { t0.routing with bank1 := .loaded } }
theorem test_epoch_switch : bit 1 0 = true ∧ bankState tLoaded false = .current ∧ bankState tLoaded (!false) = .loaded := by decide +kernel
/-- Bank 0 drains since the tick given. -/
def tDraining (at_ : Nat) : State :=
  { t0 with routing := { t0.routing with bank0 := .draining, bank1 := .current, epoch := true, drainAt := at_ } }
theorem test_draining : bankState (tDraining 0) false = .draining ∧ drainingBank (tDraining 0) = some false ∧
    drainCount (tDraining 0) = 0 ∧
    bits (setting (tDraining 0) 0x20001) 39 8 ≤ since (tDraining 0) (tDraining 0).routing.drainAt := by decide +kernel
theorem test_drains_on : let s := tDraining 1999999999
    let e := setting s 0x20001
    ¬ ((drainCount s = 0 ∧ bits e 39 8 ≤ since s s.routing.drainAt) ∨ bits e 63 40 * 1250 ≤ since s s.routing.drainAt) := by
  decide +kernel

def dRoute : Desc := desc 0x38 []
theorem slice_zeros (o n m : Nat) : slice (List.replicate m (0 : Byte)) o n = List.replicate n 0 := by
  simp only [slice, List.drop_replicate, List.take_replicate, List.length_replicate, List.replicate_append_replicate]
  congr 1; omega
theorem leNat_zeros (n : Nat) : leNat (List.replicate n 0) = 0 := by
  induction n with
  | zero => rfl
  | succ n ih => rw [List.replicate_succ, leNat, ih]; rfl
theorem test_route_load : Taken (tLoaded) 0 dRoute 0x38 ∧ dRsvdOk dRoute [(8, 1), (16, 8)] = true ∧ field dRoute 8 1 = b2n false ∧
    bankState { t0 with routing := { t0.routing with bank0 := .retired } } false = .retired ∧ bankState tLoaded false ≠ .retired := by
  unfold Taken; decide +kernel
theorem test_route_image : hostRead t0 (field dRoute 16 8) 278528 (some []) = some (List.replicate 278528 0) ∧
    ∀ i, i < 34816 → settingOk (imageAddr false i) (leAt (List.replicate 278528 0) (8 * i) 8) = true := by
  constructor
  · have h : inHostWindow t0 (field dRoute 16 8) 278528 = true := by decide +kernel
    rw [hostRead, if_pos h]
    exact congrArg some (slice_zeros 0 278528 0)
  · intro i h
    have a : isRouteAddr (imageAddr false i) = true := by
      simp [isRouteAddr, imageAddr, b2n]; omega
    rw [leAt, slice_zeros, leNat_zeros, settingOk, if_pos a]
    simp [bits, bit]

/-- EPOCH_CTRL with `switch` and no bank LOADED, and a record that breaks no rule. -/
theorem test_commit_fails : let s := tTxn [(0x20001, 1)] none
    (commitChecks [(0x18002, 2 ^ 63 + 2 ^ 15)] (taking s 0 (desc 0x32 []))).isSome = true ∧
    (applyRecords [(0x20001, 1)] (retireBank s)).elim (fun e => e == (8, 0x20001)) (fun _ => false) = true ∧
    (applyRecords recs1 (retireBank s)).isRight = true ∧ t0.routing.txn = none ∧
    Taken t0 0 (desc 0x32 []) 0x32 ∧ Taken t0 0 (desc 0x33 []) 0x33 ∧ fabricTime s + 2 ^ 40 < field (desc 0x32 [(16, 8, 2 ^ 50)]) 16 8 ∧
    Taken (tTxn recs1 (some (2000, tok1))) 0 (desc 0x32 []) 0x32 ∧ newEpoch (retireBank s) s = false := by unfold Taken; decide +kernel
/-- An entry of bank 1 for this module itself, and one whose escape port is not in use. -/
def tEntries (v : BitVec 64) : State := { t0 with routing := { t0.routing with dim := 3, settings := [(0x18000 + 2, v)] } }
theorem test_arm : isRouteAddr 0x18002 = true ∧ routeBank 0x18002 = true ∧ bankState (tEntries 0) true = .retired ∧
    badEntry (tEntries (2 ^ 63)) true = none ∧ badEntry (tEntries (2 ^ 63 + 2 ^ 15)) true = some 0x18002 ∧
    bankState tLoaded true = .loaded ∧ isRouteAddr 0x20000 = false := by decide +kernel
theorem test_first_epoch : let s := { t0 with routing := { t0.routing with bank0 := .retired, bank1 := .loaded } }
    bankState s true = .loaded ∧ bankState s (!true) = .retired ∧ (∀ b, bankState State.reset b = .retired) ∧
    (∀ b, bankState { s with routing := { s.routing with bank0 := .loaded } } b = .loaded) ∧
    bankState t0 false = .current ∧ bankState t0 (!false) ≠ .loaded := by decide +kernel

/-! ## Boot, update, attestation (chapter 14) -/

/-- The Ed25519 public key of the seed 00, 01, ..., 1F (the seed's bytes in order). -/
def key1 : BitVec 256 := 0xb83155126486dc1d5f0da59b30d6e46799c04be718dd701dbe10cef3bf07a103
def seed1 : BitVec 256 := 0x1f1e1d1c1b1a191817161514131211100f0e0d0c0b0a09080706050403020100
/-- An image of one body byte signed by that key, its digests and signature worked out outside the model. -/
def image1 : List Byte :=
  leBytes 4 0x4B394657 ++ leBytes 2 1 ++ [1, 0] ++ leBytes 4 0x11 ++ leBytes 4 3 ++ leBytes 4 1 ++ leBytes 4 0 ++ leBytes 40 0 ++
  leBytes 64 0xf6af8d8a986cc230da25e2afb73aa2e4129521919d6c707c388ec615eaf9c430ac41ac519ba4e6c8908786c831dc49ac2d3d19ddf14eaf40a5f41ff79078b84 ++
  leBytes 64 0x124b5bbc61c15631f101c4be9fbd5ae98fcb89c4d87fdf42c469450c64e871039b0a377eb715a01f0de210f0dafe6929fcf1e8a2094dc732bf675f25f718c00 ++
  leBytes 64 0 ++ [0x42]
def flash1 : Flash := { flash0 with romKey1 := key1, slotA := image1, slotB := image1 }
theorem test_image : verifyImage flash1 3 image1 = 0 := by decide +kernel
theorem image1_ok (f : Flash) (k : f.romKey1 = key1) (n : Nat) (h : n ≤ 3) : verifyImage f n image1 = 0 := by
  have s : imgSecurity image1 = 3 := by decide +kernel
  have e : verifyImage f n image1 = verifyImage flash1 3 image1 := by
    have a : ¬ imgSecurity image1 < n := by omega
    have b : ¬ imgSecurity image1 < 3 := by omega
    have c : (if leAt image1 6 1 = 1 then f.romKey1 else f.romKey0) = if leAt image1 6 1 = 1 then flash1.romKey1 else flash1.romKey0 := by
      rw [if_pos (by decide +kernel), if_pos (by decide +kernel), k]; rfl
    simp only [verifyImage, a, b, c]
  rw [e, test_image]
theorem test_image_refused : verifyImage flash1 4 image1 = 3 ∧ verifyImage flash1 0 (image1.take 256 ++ [0x43]) = 4 ∧
    verifyImage flash1 0 [] = 1 := by decide +kernel
theorem test_image_forged : verifyImage { flash1 with romKey1 := 1 } 0 image1 = 5 := by decide +kernel
/-- A powered module that awaits reset release, with images in slots A and B. -/
def tReset (a b : List Byte) : State := State.initial { flash1 with slotA := a, slotB := b }
theorem test_boot : (tReset image1 []).boot.life = .inReset ∧ (tReset image1 []).power.pwrgd = true ∧
    (bootControl flash1).1.trialSlot = 0xFF ∧ (bootControl flash1).1.preferred = false ∧ (bootControl flash1).1.floor = 0 := by
  decide +kernel
theorem test_boot_slots : verifyImage (tReset image1 []).flash 0 (flashSlot (tReset image1 []).flash false) = 0 ∧
    verifyImage (tReset [] image1).flash 0 (flashSlot (tReset [] image1).flash false) ≠ 0 ∧
    verifyImage (tReset [] image1).flash 0 (flashSlot (tReset [] image1).flash true) = 0 ∧
    verifyImage (tReset [] []).flash 0 (flashSlot (tReset [] []).flash true) ≠ 0 :=
  ⟨image1_ok _ rfl 0 (by decide), by decide +kernel, image1_ok _ rfl 0 (by decide), by decide +kernel⟩
theorem test_reset_hold : (nextOr t0 (exec .resetRelease (tReset [] []))).boot.life = .resetHold := by decide +kernel

/-- A running module with image 1 in slot A, running from it. -/
def tFw : State := { t0 with flash := { flash1 with slotB := [] } }
/-- STAGE of 257 bytes into slot B. -/
def vStage : BitVec 64 := 257 * 2 ^ 32 + 256 + 1
theorem test_stage : tFw.boot.busy = false ∧ tFw.boot.life = .running ∧ tFw.boot.slot ≠ bit vStage.toNat 8 ∧ hostOk tFw = true ∧
    hostRead tFw tFw.boot.fwAddr.toNat (bits vStage.toNat 55 32) (some image1) = some image1 ∧
    bits vStage.toNat 55 32 = 256 + imgBodyLen image1 ∧ (bootControl tFw.flash).1.floor.toNat = 0 := by decide +kernel
theorem test_stage_verifies : verifyImage tFw.flash 0 image1 = 0 := image1_ok _ rfl 0 (by decide)
theorem test_staged : (nextOr t0 (exec (.stage vStage (some image1)) tFw)).boot.staging =
    some { slot := true, bytes := image1, phase := .verify } := by decide +kernel
/-- A module in the middle of that STAGE. -/
def tStaging (p : StagePhase) : State :=
  { tFw with boot := { tFw.boot with busy := true, staging := some { slot := true, bytes := image1, phase := p } } }
theorem test_stage_erases : (stageStep (tStaging .erase)).flash.slotB = [] ∧
    ((stageStep (tStaging .erase)).boot.staging.map (·.phase)) = some .write ∧ resetFlash (tStaging .write) = tFw.flash := by decide +kernel
theorem test_stage_forged : (stageStep { tStaging .verify with flash := { tFw.flash with romKey1 := 1 } }).boot.result = 5 := by
  decide +kernel
/-- A protection block of module 7 with no window and one owner key, the neutral point, whose signature (neutral, 0)
verifies for every message. -/
def prot (gen : Nat) : List Byte :=
  leBytes 4 0x4B395042 ++ leBytes 2 1 ++ [0, 0, 1, 0, 0, 0] ++ leBytes 4 gen ++ leBytes 8 7 ++ leBytes 552 0 ++
  leBytes 32 1 ++ leBytes 96 0 ++ List.replicate 3328 0 ++ leBytes 64 1
theorem prot_signed (g : Nat) (h : leNat ((slice (prot g) 4032 64).take 32) = 1 ∧ leNat (slice (slice (prot g) 4032 64) 32 32) = 0) :
    protSigned (prot g) 1 = true := edVerify_neutral _ _ h.1 h.2
def tProt : State :=
  { tFw with flash := { tFw.flash with prot0 := prot 1 }, boot := { tFw.boot with prot := slice (prot 1) 0 4096, protSrc := 1 } }
theorem test_prot_signed : protSigned (prot 1) 1 = true ∧ protSigned (prot 2) 1 = true :=
  ⟨prot_signed 1 (by decide +kernel), prot_signed 2 (by decide +kernel)⟩
theorem test_prot_checks : protChecks 7 (prot 1) = true ∧ protChecks 7 (prot 2) = true ∧ protKey (prot 1) 0 = 1 ∧
    protSigner (prot 2) = 0 ∧ protSigner (prot 1) = 0 := by decide +kernel
theorem test_prot_in_force : protInForce tProt.flash = (slice (prot 1) 0 4096, 1) := by
  have a : protChecks tProt.flash.identity.serial tProt.flash.prot0 = true := test_prot_checks.1
  have b : protSigned tProt.flash.prot0 (protKey tProt.flash.prot0 (protSigner tProt.flash.prot0)) = true := by
    show protSigned (prot 1) (protKey (prot 1) (protSigner (prot 1))) = true
    rw [test_prot_checks.2.2.2.2, test_prot_checks.2.2.1]; exact test_prot_signed.1
  have c : protChecks tProt.flash.identity.serial tProt.flash.prot1 = false := by decide +kernel
  simp only [protInForce, a, b, c, Bool.false_and, Bool.not_false, Bool.true_or, Bool.and_self, if_true]
  rfl
theorem test_protect : hostOk tProt = true ∧ protGen tProt.boot.prot < protGen (prot 2) ∧
    protSigner (prot 2) < leAt tProt.boot.prot 8 1 ∧
    protKey (slice (prot 1) 0 4096) (protSigner (prot 2)) = 1 := by decide +kernel
theorem test_protect_read : hostRead tProt tProt.boot.fwAddr.toNat 4096 (some (prot 2)) = some (prot 2) := by
  have h : inHostWindow tProt tProt.boot.fwAddr.toNat 4096 = true := by decide +kernel
  have l : (prot 2).length = 4096 := by decide +kernel
  simp [hostRead, h, slice, List.take_of_length_le (Nat.le_of_eq l), l]
theorem test_update_closed : tFw.boot.slot = bit (1#64).toNat 8 ∧ hostUp { tFw with boot := { tFw.boot with life := .inReset } } = false ∧
    (tStaging .verify).boot.staging ≠ none ∧ verifyImage (tStaging .verify).flash 4 image1 ≠ 0 := by decide +kernel
theorem test_overrun : (nextOr t0 (exec (.stage vStage none) { tFw with boot := { tFw.boot with busy := true } })).boot.overrun = true ∧
    (nextOr t0 (exec (.commit 3) { tFw with boot := { tFw.boot with life := .resetHold } })).boot.result = 2 := by decide +kernel

def tTrial : State := { tFw with flash := flash1, boot := { tFw.boot with trial := true, security := 3 } }
/-- Slot B, and COMMIT with the floor raised. -/
def vB : BitVec 64 := 0x100
theorem test_control : (bootControl tTrial.flash).1.generation ≠ BitVec.allOnes 32 ∧ tTrial.boot.slot ≠ bit vB.toNat 8 ∧
    (bootControl tTrial.flash).1.floor = 0 ∧ flashSlot tTrial.flash (bit vB.toNat 8) = image1 ∧
    (bootControl tTrial.flash).1.floor ≤ tTrial.boot.security := by decide +kernel
theorem test_commit_floor : (bootControl (nextOr t0 (exec (.commit (2 ^ 63 + 3)) tTrial)).flash).1.floor = 3 := by decide +kernel

theorem test_attest : bit (1#32).toNat 0 = true ∧ t0.boot.life = .running ∧ t0.boot.attBusy = false ∧
    { t0 with boot := { t0.boot with attBusy := true } }.boot.attBusy = true ∧
    { t0 with boot := { t0.boot with idValid := true } }.boot.idValid = true ∧ t0.boot.idValid = false := by decide +kernel
theorem test_public_key : edPublic seed1 = key1 := by decide +kernel

/-! ## Resets, power, management (chapter 16) -/

theorem test_reset_hyp : t0.boot.life = .running ∧ t0.boot.justReset = false ∧
    ((3999 : BitVec 16).toNat < 4000 ∧ 5800 < (5801 : BitVec 16).toNat) := by decide +kernel
/-- Core 1 served the watchdog just now, core 2 never. -/
theorem test_watchdog : let s := { t0 with boot := { t0.boot with serviced := [0, 2000000000, 0, 0] } }
    serviceMissed s (1 : BitVec 2).toNat = false ∧ serviceMissed s (2 : BitVec 2).toNat = true ∧
    { t0 with boot := { t0.boot with justReset := true } }.boot.justReset = true := by decide +kernel
theorem test_in_range : (nextOr tBusy (exec (.inputOutOfRange 4000) t0)).boot.life = .running ∧
    (nextOr tBusy (exec (.inputOutOfRange 5800) t0)).boot.life = .running := by decide +kernel
/-- A module whose watchdog and rail fault fall in one tick: the lower code stands. -/
theorem test_two_causes : (nextOr t0 (exec .coreRailFault (nextOr t0 (exec .headstockSramError t0)))).boot.lastReset = 5 ∧
    (nextOr t0 (exec .headstockSramError (nextOr t0 (exec .coreRailFault t0)))).boot.lastReset = 5 := by decide +kernel
def tLife (l : Life) : State := { t0 with boot := { t0.boot with life := l } }
theorem test_power_pins : (tLife .off).boot.life = .off ∧ t0.boot.life ≠ .tripped ∧ t0.boot.life ≠ .off := by decide +kernel
/-- A droop in progress, and one that ended 100 µs ago. -/
def tDroop : State := { t0 with power := { t0.power with drooping := true, droopThr := true } }
def tDrooped : State := { t0 with power := { t0.power with droopThr := true, droopEndAt := 2000000000 - 125000 } }
theorem test_droop : t0.power.drooping = false ∧ (4499#16).toNat < t0.power.droopCv.toNat ∧ tDroop.power.drooping = true ∧ tDroop.power.droopCv.toNat + 50 < (4551#16).toNat ∧
    (4550#16).toNat ≤ tDroop.power.droopCv.toNat + 50 ∧ tDrooped.power.droopThr = true ∧ tDrooped.power.drooping = false ∧
    125000 ≤ tDrooped.clock.now - tDrooped.power.droopEndAt ∧
    { tDrooped with power := { tDrooped.power with droopEndAt := 2000000000 - 124999 } }.clock.now - (2000000000 - 124999) < 125000 := by
  decide +kernel
def tThrottled : State := { t0 with power := { t0.power with powerThr := true, thermThr := true } }
theorem test_throttles : t0.power.powerThr = false ∧ t0.config.maxPower < (521#16).toNat ∧ tThrottled.power.powerThr = true ∧
    (519#16).toNat < tThrottled.config.maxPower ∧ t0.power.thermThr = false ∧ t0.power.tjThrottle.toNat < (96#8).toNat ∧
    tThrottled.power.thermThr = true ∧ (92#8).toNat + 3 ≤ tThrottled.power.tjThrottle.toNat := by decide +kernel
/-- A rate of 1,199 handshakes in each microsecond, for 1 ms. -/
def tSlow (us : Nat) : State := { t0 with perf := { t0.perf with lowFor := us, rateLast := 1199 } }
theorem test_rate : 1000 ≤ (tSlow 1000).perf.lowFor ∧ (1199 : BitVec 32) = (tSlow 1000).perf.rateLast ∧ (tSlow 999).perf.lowFor < 1000 ∧
    coreInRange { t0 with power := { t0.power with railsGood := true } } = true ∧
    { t0 with power := { t0.power with railsGood := false } }.power.railsGood = false := by decide +kernel
theorem test_junction : 105 ≤ (105#8).toNat ∧ 100 ≤ (100#8).toNat ∧ 90 ≤ (90#8).toNat ∧ 110 ≤ (110#8).toNat ∧ t0.boot.life ≠ .off ∧
    t0.boot.justReset = false ∧ (tLife .tripped).boot.life = .tripped ∧ (tLife .tripped).power.pwrgd = true ∧
    (90#8).toNat ≤ 90 ∧ (80#8).toNat ≤ 80 ∧ 90 < (91#8).toNat ∧ 80 < (81#8).toNat := by decide +kernel
theorem test_management : t0.power.pwrgd = true ∧ (tLife .resetHold).boot.life ≠ .running ∧ 9 < (10#8).toNat ∧ (9#8).toNat ≤ 9 ∧
    1 ≤ (1#8).toNat := by decide +kernel
theorem test_status_byte : (nextOr t0 (exec .status tDroop)).out.mgmt = [[0x11]] ∧
    (nextOr t0 (exec .status (tLife .resetHold))).out.mgmt = [[0x05]] := by decide +kernel

/-! ## Counters, dumps, samples (chapter 15, R410) -/

theorem test_perf_sel : selOk 1 = true ∧ selOk 0xFFFFFFFFFFFFFFFF = false ∧ addrOk 0 = true := by decide +kernel
/-- PERF_DUMP_CTRL: enable, section 0, slots of 4 KiB, every 1000 µs, 16 slots. -/
def vDump (slot size : Nat) : BitVec 64 := BitVec.ofNat 64 (2 ^ 63 + 2 ^ 48 + slot * 2 ^ 40 + 1000 * 2 ^ 20 + size)
def tDump : State := { t0 with perf := { t0.perf with base := 0x60000 } }
theorem test_dump_ctrl : bit (vDump 1 16).toNat 63 = true ∧ tDump.perf.enable = false ∧
    ringSizeOk (BitVec.ofNat 17 (vDump 1 16).toNat).toNat = true ∧ tDump.perf.base ≠ 0 ∧
    recordLen (BitVec.ofNat 7 (bits (vDump 1 16).toNat 54 48 ||| 1)).toNat ≤ (BitVec.ofNat 6 (bits (vDump 1 16).toNat 45 40)).toNat * 4096 ∧
    ringSizeOk (BitVec.ofNat 17 (vDump 1 24).toNat).toNat = false ∧
    (BitVec.ofNat 6 (bits (vDump 0 16).toNat 45 40)).toNat * 4096 < recordLen (BitVec.ofNat 7 (bits (vDump 0 16).toNat 54 48 ||| 1)).toNat := by
  decide +kernel
/-- The dump ring at fabric time 2,000 ns, once a µs. -/
def tDumping : State :=
  { t0 with clock := { t0.clock with fine := 64 * 2000 * 1000 }
            perf := { t0.perf with enable := true, active := true, size := 16, base := 0x60000, slotSize := 1, interval := 1
                                   sections := 1, head := 0, tail := 3, lastDump := 1999000 } }
theorem test_dump_due : isDumpTick tDumping = true ∧ hostOk tDumping = true ∧ dumpRoom tDumping = true ∧
    leAt tDumping.boot.prot 6 1 = 0 := by decide +kernel
/-- One that waits for host memory while it is closed. -/
theorem test_dump_waits : let s := { tDumping with host := { tDumping.host with bme := false } }
    isDumpTick s = true ∧ hostOk s = false ∧ dumpRoom s = true ∧ s.perf.waitRec = none ∧
    ((nextOr s (exec .dumpTick s)).perf.waitRec.getD []).length = 64 ∧ (nextOr s (exec .dumpTick s)).perf.tail = 3 := by
  decide +kernel
/-- The record is that of the tick's beginning, and selectors then take effect. -/
theorem test_dump_capture : let s := takeRecord { tDumping with perf := { tDumping.perf with heldSel := [(2, 1)], cnt := [(2, 9)] } }
    isDumpTick s = true ∧ s.perf.sel = [(2, 1)] ∧ s.perf.cnt = [] ∧ leAt (s.perf.capture.getD []) 8 8 = 2000000 := by
  decide +kernel
theorem test_dump_skips : let s := { tDumping with perf := { tDumping.perf with head := 4 } }
    isDumpTick s = true ∧ (s.perf.waitRec.isNone && dumpRoom s) = false := by decide +kernel
theorem test_dump_early : isDumpTick { tDumping with clock := { tDumping.clock with fine := 64 * 2000 * 1000 + 64 } } = false := by decide +kernel

/-- A sample of port 0 waits in cell 5. -/
def smp1 : Sample := { time := 0, port := 0, cell := 5, bytes := List.replicate 192 1 }
def tSample (head : BitVec 16) : State :=
  { t0 with host := { t0.host with sample := { base := 0x50000, enable := true, active := true, size := 16, tail := 3, head := head } }
            traffic := { t0.traffic with samples := [smp1] }
            pools := { t0.pools with pools := [{ cells := 16, used := [5], fresh := 6 }, {}, {}, {}] } }
theorem test_sample : nextSample (tSample 0).traffic.samples = some smp1 ∧ sampleRoom (tSample 0) = true ∧ leAt (tSample 0).boot.prot 6 1 = 0 ∧
    (tSample 0).host.sample.tail.toNat + 1 < (tSample 0).host.sample.size.toNat ∧ (getPool (tSample 0) 0).used.contains smp1.cell = true ∧
    hostOk (tSample 4) = true ∧ sampleRoom (tSample 4) = false := by decide +kernel
theorem test_sample_waits : hostOk { tSample 0 with host := { (tSample 0).host with bme := false } } = false := by decide +kernel

theorem test_report : let s := { t0 with boot := { t0.boot with attBusy := true } }
    s.pending = [] ∧ t0.pending = [] ∧ ((attestStep s).boot.report.take 8) = [1, 0, 0, 0, 0, 0x11, 0, 0] ∧ (attestStep s).boot.attDone = true := by
  decide +kernel
/-- A module whose rails come up since PWRGD rose, 8 ms later and a tick before. -/
def tRails (now : Nat) : State :=
  { t0 with boot := { t0.boot with life := .inReset }, power := { t0.power with railsGood := false }, clock := { t0.clock with now := now } }
theorem test_bring_up : (tRails 10000000).pending = [] ∧ (tRails 10000000).boot.life = .inReset ∧ (tRails 10000000).power.pwrgd = true ∧
    (tRails 10000000).power.railsGood = false ∧ 10000000 ≤ (tRails 10000000).clock.now ∧ ¬ 10000000 ≤ (tRails 9999999).clock.now := by decide +kernel
/-- A write to the module's management address, of a read's command code, of another, with data, and to another address. -/
theorem test_smbus : (0x58#7).toNat = 0x58 + t0.power.smbAddr.toNat ∧ (0x59#7).toNat ≠ 0x58 + t0.power.smbAddr.toNat ∧
    (nextOr t0 (exec (.smbusWrite { address := 0x58, command := 10, data := [] }) t0)).out.mgmt = [[]] ∧
    (nextOr t0 (exec (.smbusWrite { address := 0x58, command := 9, data := [1] }) t0)).out.mgmt = [[]] ∧
    (nextOr t0 (exec (.smbusWrite { address := 0x58, command := 9, data := [] }) t0)).out.mgmt = [] ∧
    { t0 with power := { t0.power with pwrgd := false } }.power.pwrgd = false := by decide +kernel
theorem test_dump_interval : let v := vDump 1 16 - 1000 * 2 ^ 20
    BitVec.ofNat 20 (bits v.toNat 39 20) = (0 : BitVec 20) ∧ bit v.toNat 63 = true ∧
    1000000 < (BitVec.ofNat 20 (bits (v + 1000001 * 2 ^ 20).toNat 39 20)).toNat := by decide +kernel

/-! ## Registers (R10 to R14) -/

theorem test_unmapped : (0x2000000#26).toNat % 4 = 0 ∧ isNarrow 0x2000000 = false ∧ isWide 0x2000000 = false ∧
    isWide (0x2000000 - 4) = false := by decide +kernel
theorem test_fabric_id_fixed : t0.routing.idFixed = true := by decide +kernel
theorem test_pwr_cfg : 70 ≤ bits (0x46138A#64).toNat 23 16 ∧ bits (0x46138A#64).toNat 15 0 = 5002 ∧ bits (0x641388#64).toNat 23 16 = 100 ∧
    bits (0x641388#64).toNat 15 0 = 5000 ∧ bits (0x461004#64).toNat 15 0 = 4100 ∧ t0.clock.portsLeft = false := by decide +kernel
theorem test_wide : (0x500000#26).toNat % 4 = 0 ∧ isNarrow 0x500000 = false ∧ isWide 0x500000 = true ∧ isNarrow 0x500004 = false ∧
    isWide 0x500004 = false := by decide +kernel
/-- Two 32-bit registers of a port's area side by side, and accesses that reach no register. -/
theorem test_narrow : (0x300000#26).toNat % 8 = 0 ∧ isWide 0x300000 = false ∧ isNarrow 0x300000 = true ∧ isNarrow 0x300004 = true ∧
    (0x29#26).toNat % 4 ≠ 0 ∧ (0x2C#26).toNat % 8 ≠ 0 := by decide +kernel

/-! ## Ports, links and packets (chapters 7 to 9) -/

/-- A port table entry: enabled, flags (bit 1 module), width 2 (one lane is 2^0), dimension; peer label 3. -/
def portEntry (flags : Nat) : BitVec 256 := BitVec.ofNat 256 (flags + 1 * 2 ^ 8 + 4 * 2 ^ 32 + 3 * 2 ^ 48)
/-- A port to a module neighbour, width 2, in a state. -/
def port (l : LaneState) : Port := { entry := portEntry 3, nextEntry := portEntry 3, state := l, delay := 100, since := 1000000000 }
def tPort (q : Port) : State := updPort 5 (fun _ => q) { t0 with clock := { t0.clock with refCtrl := 1 } }
def upPort : Port :=
  { port .up with goSent := true, goCount := some 0, lastFlit := 2000000000 - 1250, locks := [(1, { count := 10, locked := true })] }
/-- An endpoint port. -/
def epPort1 : Port := { upPort with entry := portEntry 1, creditAt := [(1, 1, 2000000000 - 6451)] }
theorem test_flit_deadline : (getPort (tPort upPort) 5).state = .up ∧ (getPort (tPort upPort) 5).goCount.isSome = true ∧
    1250 ≤ (tPort upPort).clock.now - (getPort (tPort upPort) 5).lastFlit ∧ 2000000000 - (2000000000 - 1249) < 1250 := by decide +kernel
def retryPort : Port := { upPort with retry := [(7, 2000000000 - 6451, none)] }
theorem test_ack_deadline : (∃ f ∈ (getPort (tPort retryPort) 5).retry, 6250 + 2 * retryPort.delay.toNat < (tPort retryPort).clock.now - f.2.1) ∧
    (∀ f ∈ ({ upPort with retry := [(7, 2000000000 - 6450, none)] } : Port).retry, 2000000000 - f.2.1 ≤ 6250 + 2 * 100) := by decide +kernel
theorem test_credit_deadline : peModule (getPort (tPort epPort1) 5) = false ∧
    (∃ c ∈ (getPort (tPort epPort1) 5).creditAt, 6250 + 2 * epPort1.delay.toNat < (tPort epPort1).clock.now - c.2.2) := by decide +kernel
def xfer : Transfer := { node := 0, seq := 1, chunk := 0, dir := 1, dst := 3, packets := [], sent := true, sentAt := some (2000000000 - 6451) }
def grp : Group := { id := 9, phase := .active, record := { groupId := 9 }, check := 0, transfers := [xfer] }
def tTack : State := { tPort epPort1 with groups := [grp] }
theorem test_tack_deadline : epPort tTack 3 = some 5 ∧ (∃ g ∈ tTack.groups, ∃ x ∈ g.transfers, x.sent = true ∧ x.dst = 3 ∧ x.dir ≠ 0 ∧
    x.sentAt = some 1999993549 ∧ 6250 + 2 * epPort1.delay.toNat < tTack.clock.now - 1999993549 ∧ notLeft (getPort tTack 5) x = false) := by decide +kernel
theorem test_tack_in_time : ∀ g ∈ ({ tTack with groups := [{ grp with transfers := [{ xfer with sentAt := some 1999993550 }] }] } : State).groups,
    ∀ x ∈ g.transfers, ∀ t1, x.dst = 3 → x.sentAt = some t1 → 2000000000 - t1 ≤ 6250 + 2 * 100 := by
  intro g hg x hx t1 _ h
  simp only [List.mem_singleton] at hg
  subst hg
  simp only [List.mem_singleton] at hx
  subst hx
  cases h
  decide
theorem test_lock_timeout : (getPort (tPort (port .lock)) 5).state = .lock ∧ portLock (getPort (tPort (port .lock)) 5) = false ∧
    12500000 ≤ (tPort (port .lock)).clock.now - (getPort (tPort (port .lock)) 5).since := by decide +kernel
theorem test_measure_timeout : (getPort (tPort (port .measure)) 5).state = .measure ∧ isMeasurer (tPort (port .measure)) (port .measure) = true ∧
    (port .measure).samples.length < 16 ∧ 1250000 ≤ (tPort (port .measure)).clock.now - (port .measure).measureAt := by decide +kernel
theorem test_margin : bits (tPort (port .margin)).clock.laneCtrl.toNat 31 16 * 1250 ≤ (tPort (port .margin)).clock.now - (port .margin).since ∧
    marginFails (port .margin) = [] ∧ peModule (port .margin) = true ∧ helloAccepted (tPort (port .margin)) (pePeer (port .margin)) = false ∧
    peModule epPort1 = false ∧ epPort1.peerInit = none := by decide +kernel
theorem test_margin_fails : marginFails { port .margin with marginLanes := [(1, (200, 100000))] } = [1] := by decide +kernel
theorem test_margin_early : 2000000000 - (2000000000 - 1249999) < bits (0x03E86400#32).toNat 31 16 * 1250 := by decide +kernel
theorem test_failed_dwell : (getPort (tPort (port .failed)) 5).state = .failed ∧
    bits (tPort (port .failed)).clock.laneCtrl.toNat 15 8 * 1250000 ≤ (tPort (port .failed)).clock.now - (port .failed).since ∧
    refReady (tPort (port .failed)) (peBridge (port .failed)) = true := by decide +kernel
def tDrone (d : Drone) : State := updDrone 5 (fun _ => d) { t0 with routing := { t0.routing with dim := 1 }, clock := { t0.clock with refCtrl := 1 } }
theorem test_failed_drone : (getDrone (tDrone { state := .failed }) 5).state = .failed := by decide +kernel

/-- LINK_INIT of endpoint 3 with 8 credits on each sub-lane. -/
def initOf (cred : Nat) : Packet :=
  sealCrc (ctl 0x40 ([(4, 2, 3), (8, 1, 2), (10, 2, 8)] ++ (List.range 8).map fun k => (12 + 2 * k, 2, cred)))
def initPort : Port := { epPort1 with state := .init, creditAt := [], goCount := some 0 }
theorem test_link_init : pType (initOf 8) = 0x40 ∧ crcOk (initOf 8) = true ∧ pVl (initOf 8) = 0 ∧ pEsc (initOf 8) = false ∧
    bit (setting (tPort initPort) (0x3A000 + 5)) 63 = false ∧ (getPort (tPort initPort) 5).state = .init ∧
    linkInitCause (tPort initPort) initPort (initOf 8) = 0 ∧ linkInitCause (tPort initPort) initPort (initOf 0) = 7 ∧
    linkInitCause (tPort initPort) initPort (initOf 2047) = 0 ∧ linkInitCause (tPort initPort) initPort (initOf 2048) = 7 ∧
    initPort.initSent = false := by decide +kernel
/-- LINK_INIT without its CRC-32C, with a reserved field set, and from a port that gave a credit too long ago. -/
theorem test_link_init_bad : crcOk (ctl 0x40 [(4, 2, 3)]) = false ∧
    (let x := sealCrc (ctl 0x40 [(4, 2, 3), (56, 4, 1)])
     crcOk x = true ∧ malformed x (!peModule initPort) 3 32 ≠ 0) ∧ malformed (initOf 8) (!peModule initPort) 3 32 = 0 ∧
    (∃ c ∈ ({ initPort with creditAt := [(0, 1, 1999993549)] } : Port).creditAt, 6250 + 2 * initPort.delay.toNat < 2000000000 - c.2.2) := by
  decide +kernel
theorem test_link_cells : (reserveCells rxCells (applyCarve (tPort { initPort with initSent := true }))).isSome = true := by decide +kernel
def lockPort : Port := { port .lock with since := 1999999000 }
theorem test_lock_tx : (0 : BitVec 4).toNat < peWidth lockPort ∧ lockPort.goSent = false ∧ (tPort lockPort).clock.locked = true ∧
    bridgeDrives (tPort lockPort) (peBridge lockPort) = true ∧ peWidth lockPort ≤ (2 : BitVec 4).toNat := by decide +kernel
/-- A codeword of the flit in order, without packets. -/
def idleMsg : Message := { header := 0xC0000, flit := List.replicate 640 0 }
def idleWord : Codeword := { message := scramble 0 idleMsg.bits, symbols := some 0 }
theorem test_idle_word : idleMsg.flit.length = 640 ∧ idleWord.symbols ≠ none ∧
    Message.ofBits (descramble (tget 0 upPort.rxLine 1) idleWord.message) = idleMsg := by decide +kernel
/-- R271 by hand: of a first 1 and nothing else, 1 + x^39 + x^58 makes 1s at 0, 39, 58, 78 and 116; at 97 the two cancel. -/
theorem test_scrambler : [0, 1, 39, 58, 78, 97, 116].map (scramble 0 1).getLsbD = [true, false, true, true, true, false, true] := by
  decide +kernel
theorem test_lane_of_up : (1 : BitVec 4).toNat < peWidth upPort ∧ (1 : BitVec 4) ≠ 0 ∧ upPort.goCount = some 0 ∧
    0 ≤ (tget {} upPort.locks 1 : LaneLock).count ∧ upPort.rxLoss = false ∧ upPort.rxFsn = 0 ∧ upPort.rxBytes = [] ∧ upPort.lastAck = none := by
  decide +kernel
theorem test_margin_loss : let q : Port := { port .margin with goCount := some 0 }
    (1 : BitVec 4).toNat < peWidth q ∧ q.state = .margin ∧ q.goCount = some 0 ∧ q.rxLoss = false ∧ marginFails q = [] := by decide +kernel
theorem test_ack_keeps : (getPort (nextOr t0 (exec (.ack 5 7 false 0) (tPort { upPort with retry := [(6, 0, none), (7, 0, none), (8, 0, none)] }))) 5).retry =
    [(8, 0, none)] := by decide +kernel
theorem test_ack_wraps : (getPort (nextOr t0 (exec (.ack 5 1 false 0) (tPort { upPort with retry := [(4095, 0, none), (0, 0, none), (2, 0, none)] }))) 5).retry =
    [(2, 0, none)] := by decide +kernel
theorem test_credit : (8 : BitVec 4).toNat < 9 ∧ (getPort (tPort upPort) 5).state = .up ∧ isDim0 (tPort upPort) 5 = false := by decide +kernel
theorem test_credit_limit : (creditOf (getPort (nextOr t0 (exec (.credit 5 1 100)
      (tPort { upPort with credits := [(1, { init := 8, limit := 100 })] }))) 5) 1).limit = 108 ∧
    (creditOf (getPort (nextOr t0 (exec (.credit 5 1 91) (tPort { upPort with credits := [(1, { init := 8, limit := 100 })] }))) 5) 1).limit = 100 := by
  decide +kernel
/-- A time update whose last part has come, at tick 1,000,000. -/
def timing (l : LaneState) (n : Nat) : Port :=
  { port l with rxTime := some (1000000, 4), samples := List.replicate n 1000 }
theorem test_time_update : isMeasurer (tPort (timing .measure 14)) (timing .measure 14) = true ∧ (timing .measure 14).samples.length < 15 ∧
    (timing .measure 15).samples.length = 15 ∧ (ninth ((timing .measure 15).samples ++ [1000000 - (998998#64).toNat]) 2).2 = true ∧
    (ninth ((timing .measure 15).samples ++ [1000000 - (998998#64).toNat]) 2).1 ≤ 1500 := by decide +kernel
theorem test_delay : (getPort (nextOr t0 (exec (.time 5 998998) (tPort (timing .measure 15)))) 5).delay = 500 := by decide +kernel
/-- The neighbour of a lower label measures: this end echoes. -/
theorem test_echoer : isMeasurer (tPort { timing .measure 0 with entry := 3 }) { timing .measure 0 with entry := 3 } = false := by decide +kernel

/-- A ROW_WAIT of endpoint 3 to this module: label 2, so its address is 0x8002. -/
def pRow : Packet := sealCrc (ctl 0x44 [(1, 1, 1), (2, 2, 0x8002), (4, 2, 3), (8, 2, 4)])
theorem test_bad_packets : pType pRow ≠ 0x40 ∧ bit (setting (tPort upPort) (0x3A000 + 5)) 63 = false ∧ crcOk pRow = true ∧
    crcOk { pRow with hdr := setField pRow.hdr 60 4 0 } = false ∧
    malformed { pRow with hdr := setField pRow.hdr 1 1 2 } (!peModule upPort) 1 32 = 2 ∧
    malformed { pRow with hdr := setField pRow.hdr 10 2 2 } (!peModule upPort) 1 32 = 3 ∧ malformed pRow (!peModule upPort) 1 32 = 0 ∧
    malformed pRow (!peModule upPort) 0 32 = 1 ∧ (tPort lockPort).boot.life = .running ∧
    (let x := { pRow with hdr := setField (setField pRow.hdr 60 4 0) 1 1 2 }
     crcOk x = false ∧ malformed x (!peModule upPort) 1 32 ≠ 0) ∧
    (let x := { pRow with hdr := setField pRow.hdr 60 4 0 }
     crcOk x = false ∧ malformed x (!peModule upPort) 1 32 = 0 ∧ pIsCtl x = true) := by decide +kernel
/-- One PUT for this module, on VL1 of a module port, and an empty pool 3. -/
def putHdr (units : Nat) : BitVec 512 := setField (setField (setField (setField (BitVec.ofNat 512 0x01) 1 1 1) 2 2 0x8002) 4 2 3) 6 2 units
def pPut : Packet := sealCrc { hdr := putHdr 1, payload := List.replicate 256 0, trailer := 0 }
/-- R29: a data packet of which the CRC-32C fails, and one finished with a wrong one. -/
theorem test_spoilt : pIsCtl pPut = false ∧ crcOk { pPut with trailer := 0 } = false ∧
    malformed { pPut with trailer := 0 } (!peModule upPort) 1 32 = 0 ∧ crcOk (spoilCrc pPut) = false := by decide +kernel
def tPools (q : Port) : State :=
  { tPort { q with level := 1 } with pools := { t0.pools with applied := true, pools := [{}, {}, {}, { cells := 4 }] } }
theorem test_packet_in : (getPort (tPools upPort) 5).state = .up ∧ pType pPut ≠ 0x40 ∧ crcOk pPut = true ∧
    malformed pPut (!peModule upPort) (1 : BitVec 2).toNat 32 = 0 ∧ peModule upPort = true ∧
    bankState (tPools upPort) (pEpoch pPut) ≠ .retired ∧ pDst pPut = modAddr (tPools upPort).label ∧ isIdleType (pType pPut) = false ∧ pIsCtl pPut = false ∧
    (getPool (tPools upPort) 3).used = [] ∧ 0 < (getPool (tPools upPort) 3).cells ∧ (getPool (tPools upPort) 3).stack = [] ∧
    (getPool (tPools upPort) 3).fresh = 0 := by decide +kernel
/-- A packet injected at time 0 waits on sub-lane 1 since it reached the head of its queue. -/
def waits (head : Nat) (inj ty : Nat) : QPkt :=
  { pkt := { pPut with hdr := setField (setField pPut.hdr 8 3 inj) 0 1 ty }, inPort := 6, enq := 0, headAt := some head }
def tQueue (y : QPkt) : State :=
  let s := tPort { upPort with queues := [(1, [y])] }
  { s with clock := { s.clock with fine := 64 * 3000000000 } }
theorem test_age : (queueOf (tQueue (waits 0 0 2)) 5 1)[0]? = some (waits 0 0 2) ∧ isAged (tQueue (waits 0 0 2)) (waits 0 0 2).pkt = true ∧
    isAged (tQueue (waits 0 (3000000000 / 256 % 2 ^ 24) 2)) (waits 0 (3000000000 / 256 % 2 ^ 24) 2).pkt = false ∧ pType (waits 0 0 2).pkt = 0x02 ∧
    (waits 0 0 2).inSub = 9 ∧ (waits 0 0 2).cell = none ∧ startsNow (tQueue (waits 0 0 2)) 5 1 = false := by decide +kernel
/-- The same packet with credits: it starts in this tick. -/
theorem test_starts : startsNow (updPort 5 (fun q => { q with credits := [(1, { limit := 8 })] }) (tQueue (waits 0 0 2))) 5 1 = true := by
  decide +kernel
theorem test_adapt : let s := tQueue (waits 0 0 1)
    queueOf s 5 1 = [waits 0 0 1] ∧ creditLets s 5 1 (waits 0 0 1).pkt = false ∧ bits (setting s 0x20000) 31 16 ≤ s.clock.now - 0 ∧
    s.routing.fallback.length = 3 ∧ pVl (waits 0 0 1).pkt = vlOf 1 ∧ (2000000000 - 1999999999) < bits (setting s 0x20000) 31 16 := by decide +kernel

/-- A port of dimension 0 to label 3. -/
def entry5 : BitVec 256 := portEntry 3 + 2 ^ 160 - 4 * 2 ^ 32
/-- Before FABRIC_ID is fixed: with port 5 enabled and no peg entry, and with it peg entry. -/
def tIdFree (pegs : List (Nat × BitVec 128)) : State :=
  let s := updPort 5 (fun _ => { entry := entry5, nextEntry := entry5 }) t0
  { s with routing := { s.routing with idFixed := false, pegs := pegs } }
def peg5 : List (Nat × BitVec 128) := [(pegIndex (port .lock) 0, 0x10000), (pegIndex (port .lock) 1, 0x10000)]
theorem test_fabric_id : t0.routing.idFixed = true ∧ (tIdFree []).routing.idFixed = false ∧ peEnable (getPort (tIdFree []) 5) = true ∧
    (getPort (tIdFree []) 5).state = .disabled ∧ peEnable (getPort (tIdFree []) 6) = false ∧
    portRangeOk { tIdFree peg5 with routing := { (tIdFree peg5).routing with dim := 3, label := 2 } } entry5 = true ∧ (∀ i, i < peWidth (port .lock) → pegMain (tIdFree peg5) (pegIndex (getPort (tIdFree peg5) 5) i) ≠ 0) ∧
    (getPort (nextOr t0 (exec (.registerWrite (.bar0 0x200000) .b32 0x30002) (tIdFree peg5))) 5).state = .lock ∧ bits (0x30002#64).toNat 19 16 = 3 := by decide +kernel
theorem test_latch : let s := { t0 with host := { t0.host with readLatch := [(0x500000, 7)] } }
    s.host.readLatch.find? (·.1 == 0x500000) = some (0x500000, 7) ∧ (∀ q ∈ t0.host.readLatch, q.1 ≠ 0x500000) ∧
    { t0 with clock := { t0.clock with portsLeft := true } }.clock.portsLeft = true := by decide +kernel

/-- A port that owes a replay of the flit after 5; one whose retry store is full; one with a credit to give. -/
theorem test_replay : (7 - 6 : BitVec 12).toNat = 1 ∧ ((6 : BitVec 12) - 5).toNat ≤ 2047 ∧ upPort.replay = [] ∧ upPort.retry.length < 2047 ∧
    upPort.txBytes = [] ∧ upPort.sending = [] ∧ upPort.replayFrom = none ∧ upPort.ackDue = false ∧ upPort.sinceAck < 15 ∧
    (∀ c ∈ upPort.credits, c.2.dueAt = none) ∧ upPort.retry.length < 128 * peWidth upPort ∧
    128 * peWidth upPort ≤ ((List.replicate 256 ((0, 0, some []) : BitVec 12 × Nat × Option (List Byte))).filter fun f => f.2.2.isSome).length := by
  decide +kernel
theorem test_queues_empty : ∀ k, queueOf (tPort upPort) 5 k = [] := fun _ => rfl
/-- A packet at the head of VL0 since a tick, its credit there. -/
def head0 : QPkt := { pkt := ctl 0x41 [], inPort := 128, enq := 0, headAt := some 1999999999 }
def tHead : State := tPort { upPort with credits := [(0, { init := 16, limit := 16 })], queues := [(0, [head0])] }
theorem test_head : eligible tHead 5 (leaveTime tHead 5 0 0) 0 = true ∧ (packetBytes head0.pkt).length ≤ 640 ∧ tHead.clock.now = 2000000000 ∧
    eligible tHead 5 0 7 = false ∧ nextPacket 5 0 tHead = (tHead, some 0) := by decide +kernel
theorem test_head_alone : ∀ k, queueOf tHead 5 k = if k = 0 then [head0] else [] := by
  intro k
  cases k with
  | zero => rfl
  | succ k => rfl
/-- Lane 1's codeword waits for lane 0's; a flit's packet is freed by its ACK. -/
theorem test_deskew : upPort.rxLane = 0 ∧ (tget [] upPort.deskew upPort.rxLane : List (Option Message)) = [] ∧ upPort.deskew = [] ∧
    ({ upPort with rxLane := 1 } : Port).rxLane = (1 : BitVec 4).toNat ∧ upPort.lastRtag ≠ some 0 ∧ precedes 3 4 = true ∧
    ({ upPort with unacked := [(7, { head0 with cell := some (0, 5) })] } : Port).unacked = [(7, { head0 with cell := some (0, 5) })] ∧
    (getPool (tSample 0) 0).used.contains 5 = true := by decide +kernel
theorem test_pools : PoolsWf (tPools upPort) := ⟨rfl, rfl⟩

/-- Endpoint 4 behind port 6, with port 5 and 7 as candidates; the bank, what is down, and the entry. -/
def tRoute (down : BitVec 128) (v : Nat) : State :=
  let s := updPort 6 (fun _ => { upPort with entry := BitVec.ofNat 256 (1 + 2 ^ 8 + 4 * 2 ^ 48) })
    (updPort 7 (fun _ => { upPort with entry := BitVec.ofNat 256 (3 + 2 ^ 8 + 3 * 2 ^ 48) }) (tPools upPort))
  { s with routing := { s.routing with down := down, settings := [(4, BitVec.ofNat 64 v)] } }
/-- A PUT of VL1 from endpoint 3 to endpoint 4. -/
def pFor4 : Packet := sealCrc { hdr := setField (putHdr 1) 2 2 4, payload := List.replicate 256 0, trailer := 0 }
def cands57 : Nat := 2 ^ 63 + 0x87 * 2 ^ 16 + 0x85 * 2 ^ 8 + 6
theorem test_candidates : chooseCandidate (tRoute 0 cands57) cands57 1 = some 5 ∧ chooseCandidate (tRoute (2 ^ 5) cands57) cands57 1 = some 7 ∧
    chooseCandidate (tRoute 0 6) 6 1 = none ∧ (setting (tRoute 0 cands57) 4) = cands57 := by decide +kernel
/-- Port 6 lost: the lowest dimension-0 port; port 5's packets come by dimension 0 and go no further. Two ports to module 3. -/
theorem test_detours : isDim0 (tRoute 0 0) 7 = true ∧ isDim0 (tRoute 0 0) 5 = false ∧ isModPort (tRoute 0 0) 5 = true ∧ pePeer (getPort (tRoute 0 0) 5) = 3 ∧
    detour (tRoute (2 ^ 6) 0) 4 5 6 = some 7 ∧ detour (tRoute (2 ^ 6) 0) 4 7 6 = none ∧ detour (tRoute (2 ^ 5) 0) 4 6 5 = some 7 := by decide +kernel
theorem test_lookups : curValid (tRoute 0 cands57) = true ∧ curValid State.reset = false ∧ bankState (tRoute 0 0) false = .current ∧
    (lookup (tRoute 0 cands57) pFor4 5 false false).2 = .out 5 1 ∧ (lookup (tRoute 0 (2 ^ 63 + 6)) pFor4 5 false false).2 = .out 6 2 ∧
    (lookup (tRoute (2 ^ 6) (2 ^ 63 + 6)) pFor4 5 false false).2 = .out 7 2 ∧ (lookup (tRoute (2 ^ 6) (2 ^ 63 + 6)) pFor4 7 false false).2 = .hold 6 2 ∧
    (lookup (tRoute 0 0) pFor4 5 false false).2 = .refuse 4 ∧ (lookup (tRoute 0 0) pPut 5 false false).2 = .here ∧
    (lookup { tRoute 0 0 with routing := { (tRoute 0 0).routing with bank0 := .retired } } pFor4 5 false false).2 = .stale ∧
    pIsCtl pRow = true ∧ pType pRow ≠ 0x43 ∧ pType pRow ≠ 0x4C := by decide +kernel
theorem test_forwards : (allocReserved (rxPool ((sublane pFor4).getD 0)) (tRoute 0 cands57)).isSome = true ∧ crcOk pFor4 = true ∧
    malformed pFor4 (!peModule upPort) 1 32 = 0 ∧ meterOf (tRoute 0 cands57) 5 pFor4 = none ∧
    (queueOf (nextOr t0 (exec (.packetRx 5 pFor4) (tRoute 0 cands57))) 5 1).length = 1 ∧
    (queueOf (nextOr t0 (exec (.packetRx 5 pFor4) (tRoute (2 ^ 6) (2 ^ 63 + 6)))) 7 2).length = 1 := by decide +kernel
/-- AGE_CHECK at a head that starts in this tick, and of a packet that has begun to leave. -/
theorem test_age_head : startsNow (updPort 5 (fun q => { q with credits := [(1, { limit := 8 })] }) (tQueue (waits 0 0 2))) 5 1 = true ∧
    ({ waits 0 0 2 with cut := true } : QPkt).cut = true ∧ (waits 0 0 2).cut = false := by decide +kernel

/-! ## Egress (chapter 10) -/

/-- Port 5 gated: VL1 open for 100 ticks, then closed for 50; two VL1 packets wait at VL1 and VL2. -/
def tGates : State :=
  let s := tPort { upPort with credits := [(1, { limit := 64 }), (3, { limit := 64 })], queues := [(1, [waits 0 0 1]), (3, [waits 0 0 1])] }
  { s with routing := { s.routing with settings := [(0x30105, 0x82), (0x34000 + 64 * 5, 100 * 256 + 2), (0x34001 + 64 * 5, 50 * 256)] } }
theorem test_gates : isGated tGates 5 = true ∧ gateOf tGates 5 1 100 0 = .fits ∧ gateOf tGates 5 1 100 1 = .shut ∧ gateOf tGates 5 1 101 0 = .overrun ∧
    gateOf tGates 5 1 101 150 = .overrun ∧ gateOf tGates 5 1 1 100 = .shut ∧ Rules.openAt (fretList tGates 5) 1 99 = true ∧
    Rules.openAt (fretList tGates 5) 1 100 = false ∧ setting tGates 0x30205 = 0 := by decide +kernel
theorem test_next : (let s := { tGates with routing := { tGates.routing with settings := [] } }
     eligible s 5 0 1 = true ∧ eligible s 5 0 3 = true ∧ eligible s 5 0 0 = false ∧ (getPort s 5).turn = 1 ∧ pickSub s 5 0 1 = some 1 ∧
     packetSize (waits 0 0 1).pkt ≤ (0 + 256 * bits (setting s 0x30005) 7 0) ∧ (nextPacket 5 0 s).2 = some 1 ∧
     (∀ v, v < 6 → 1 ≤ v → 1 ≤ bits (setting s 0x30005) (8 * v - 1) (8 * v - 8))) := by decide +kernel
/-- A meter of endpoint 3 at port 5: 1 unit a tick, a committed burst of 1 unit of 1,250. -/
def tMeter (tc te : Nat) : State :=
  let s := tPort upPort
  { s with
    routing := { s.routing with settings := [(0x30005, 2 ^ 52 + 2 ^ 40), (0x38000, 2 ^ 63 + 1), (0x38400, 2 ^ 24 + 1), (0x40003, 2 ^ 15)] }
    traffic := { s.traffic with meters := [(0, { tc := tc, te := te, last := fabricTime s })] } }
def pMetered : Packet := { pFor4 with hdr := setField (setField pFor4.hdr 1 1 5) 4 2 3 }
theorem test_meters : meterOf (tMeter 0 0) 5 pMetered = some 0 ∧ meterOf (tMeter 0 0) 5 pFor4 = none ∧
    (let f (tc te cost : Nat) := (meterColour 1 (2 ^ 24 + 1) { tc := tc, te := te, last := 0 } 0 cost).1
     f 1250 0 1250 = .green ∧ f 1249 1250 1250 = .yellow ∧ f 1249 1249 1250 = .red) ∧
    (meterColour (2 ^ 62 + 2 ^ 20 + 1) (2 ^ 24 + 1) { tc := 9, te := 10, last := 0 } 0 10).1 = .yellow ∧
    (meterColour (2 ^ 62 + 1) (2 ^ 24 + 1) { tc := 9, te := 10, last := 0 } 0 10).1 = .red ∧
    (queueOf (tMeter 0 0) 5 7).length + (queueOf (tMeter 0 0) 5 8).length < bits (setting (tMeter 0 0) 0x30005) 51 40 := by decide +kernel

/-! ## Drone lanes, fabric time, tables (chapter 9) -/

/-- 8b/10b (R275): D21.5 is 1010101010 at either disparity, and K28.5 changes with it. A BEAT of 0x15 comes whole, one group cut is
a code error, and a frame of HELLO's type passes its checks. -/
theorem test_code_groups : (encodeGroup false (.data 0xB5)).1 = 0b1010101010 ∧ (encodeGroup true (.data 0xB5)).1 = 0b1010101010 ∧
    (encodeGroup false (.k 0xBC)).1 = 0b0011111010 ∧ (encodeGroup true (.k 0xBC)).1 = 0b1100000101 ∧ 0xBC ∈ kCodes := by decide +kernel
theorem test_frames : frameFault [0b1111111111] = some .code ∧ frameFault [] ≠ some .code ∧ ftypeKnown 1 = true ∧
    frameBytesFault [1, 0, 0, 0, 0, 0] = some .crc := by decide +kernel
/-- A lane that sends a hello when an urgent frame comes. -/
def dUrgent : Drone := { txFrame := some (.hello 0), txUrgent := [.urgent 0x10 0], txRest := [.data 1] }
theorem test_urgent : dUrgent.txSet = [] ∧ dUrgent.txSets = [] ∧ dUrgent.sinceComma < 245 ∧ (lineNext t0 dUrgent).1 = .k kSou ∧
    (lineNext t0 dUrgent).2.txFrames = [.hello 0] ∧ ({ txSets := [.beat 1, .tmark 0 0] } : Drone).txSet.length ≤ 255 := by decide +kernel
theorem test_only_sets : ∀ f ∈ ([.beat 1, .tmark 0 0] : List DroneOut), (∃ b, f = .beat b) ∨ ∃ v k, f = .tmark v k := by
  intro f hf
  simp only [List.mem_cons, List.not_mem_nil, or_false] at hf
  rcases hf with rfl | rfl
  · exact .inl ⟨_, rfl⟩
  · exact .inr ⟨_, _, rfl⟩

/-- A drone lane to label 3, dimension 0, its entry's level 2. -/
def lane (l : LaneState) : Drone := { entry := BitVec.ofNat 192 (1 + 3 * 2 ^ 16 + 2 * 2 ^ 40), state := l, since := 1000000000 }
theorem test_beats : laneSends (tDrone (lane .up)) 5 = true ∧ (lane .up).beatAt = none ∧ 150 ≤ 2000000000 - 1999999850 ∧
    2000000000 - 1999999851 < 150 ∧ bits (0x3F : Byte).toNat 7 6 = 0 ∧
    bits (0x40 : Byte).toNat 7 6 = 1 ∧ faultOf (tDrone (lane .up)) (dePeer (lane .up)) = .up ∧ 2 ≤ bits (0x80 : Byte).toNat 7 6 ∧
    640 ≤ 2000000000 - 1999999360 ∧ 2000000000 - 1999999361 < 640 ∧ (getDrone (tDrone (lane .lock)) 5).state = .lock := by decide +kernel
/-- The hello of that neighbour: label 3 at byte 8, level 2, locked. -/
def helloFrom (flags : Nat) : BitVec 224 := BitVec.ofNat 224 (3 * 2 ^ 64 + 2 ^ 80 + 2 * 2 ^ 104 + flags * 2 ^ 112)
theorem test_hellos : laneHears (tDrone (lane .hello)) 5 = true ∧ droneDrives (tDrone (lane .hello)) 5 = true ∧ (lane .hello).helloAt = none ∧
    helloCause (tDrone (lane .hello)) 5 (helloFrom 2) = 0 ∧ helloCause (tDrone (lane .hello)) 5 (helloFrom 1) = 1 ∧
    helloCause (tDrone (lane .up)) 5 (helloFrom 2) = 0 ∧ laneHears (tDrone (lane .lock)) 5 = false := by decide +kernel
def measuring (n : Nat) (w : Bool) : Drone :=
  { lane .measure with reqId := 7, waiting := w, measureAt := 1999999000, samples := List.replicate n 1000 }
theorem test_lane_delay : laneMeasures (tDrone (measuring 0 false)) 5 = true ∧ (measuring 0 false).reqAt = none ∧
    2000000000 - (measuring 0 false).measureAt < 1250000 ∧ (6 : BitVec 32) + 1 = (measuring 14 true).reqId ∧
    (measuring 14 true).samples.length < 15 ∧ (measuring 15 true).samples.length = 15 ∧
    (ninth ((measuring 15 true).samples ++ [((BitVec.ofNat 64 128000 - 125900#64) - (100#64 - 0#64)).toNat / 2]) 64).2 = true ∧
    (ninth ((measuring 15 true).samples ++ [((BitVec.ofNat 64 128000 - 125900#64) - (100#64 - 0#64)).toNat / 2]) 64).1 ≤ 48000 := by
  decide +kernel
/-- A relay whose upstream is lane 5, and its fine time 128,000. -/
def tRelay (d : Drone) : State := { tDrone d with clock := { t0.clock with refCtrl := 5 * 2 ^ 13 } }
theorem test_tmarks : (getDrone (tRelay (lane .up)) 5).state = .up ∧ (tRelay (lane .up)).clock.timeValid = true ∧
    droneDrives (tRelay (lane .up)) 5 = true ∧ (lane .up).tmarkAt = none ∧ isUpstream (tRelay (lane .up)) 5 = true ∧
    (tRelay (lane .up)).clock.holdover = false ∧ (tRelay (lane .up)).clock.locked = true ∧
    (tRelay (lane .up)).clock.fine < (2001#64).toNat * 64 + (lane .up).delayFine.toNat ∧
    (2001#64).toNat * 64 + (lane .up).delayFine.toNat ≤ (tRelay (lane .up)).clock.fine + 64 ∧
    (1999#64).toNat * 64 < (tRelay (lane .up)).clock.fine ∧ (tRelay (lane .up)).clock.fine ≤ (1999#64).toNat * 64 + 64 ∧
    (tRelay (lane .up)).clock.fine + 64 < (2002#64).toNat * 64 ∧ (1998#64).toNat * 64 + 64 < (tRelay (lane .up)).clock.fine := by decide +kernel
/-- The CRC-8 of the manual's `0x07` polynomial, of eight zero bytes, and of a time of 1. -/
theorem test_tmark_crc : tmarkCrc 0 ≠ tmarkCrc 1 := by decide +kernel
def tHold (at_ ctrl : Nat) : State :=
  { tPort upPort with
    drones := [(6, { lane .up with accepted := some (helloFrom 2) })]
    clock := { t0.clock with refCtrl := BitVec.ofNat 32 ctrl, holdover := true, holdoverAt := at_ } }
theorem test_reference : refSource (tPort upPort) = 1 ∧ (tHold 0 (6 * 2 ^ 19 + 2 ^ 18)).clock.holdover = true ∧
    bit (tHold 0 (6 * 2 ^ 19 + 2 ^ 18)).clock.refCtrl.toNat 18 = true ∧ altLane (tHold 0 (6 * 2 ^ 19 + 2 ^ 18)) = 6 ∧
    offersRef (tHold 0 (6 * 2 ^ 19 + 2 ^ 18)) 6 = true ∧ 1250000 ≤ 2000000000 - 1998750000 ∧ 2000000000 - 1998750001 < 1250000 ∧
    bit (tHold 0 (2 ^ 12)).clock.refCtrl.toNat 12 = true ∧ bit (tHold 0 0).clock.refCtrl.toNat 12 = false ∧
    (tPort upPort).boot.life = .running ∧ { t0.clock with locked := false }.locked = false ∧
    (0 : BitVec 2).toNat < t0.config.bridges ∧ t0.clock.bridgeLost = [] ∧ peEnable upPort = true ∧ peBridge upPort = 0 := by decide +kernel

/-- A port table of 128 disabled endpoint ports, and tables of 32 disabled drone lanes and 288 pegs. -/
def portRow : BitVec 256 := BitVec.ofNat 256 (2 ^ 40 + 2 ^ 160)
def ports0 : List Byte := (List.replicate 128 (leBytes 32 portRow.toNat)).flatMap id
def tDim : State := { t0 with routing := { t0.routing with dim := 3 } }
theorem test_port_rows : portRsvdOk portRow = true ∧ portRangeOk tDim portRow = true ∧ bit (efield portRow 0 1) 0 = false ∧
    portsClash portRow portRow = false ∧ ports0.length = 4096 ∧
    (chunksOf 32 ports0).map (fun b => BitVec.ofNat 256 (leNat b)) = List.replicate 128 portRow := by decide +kernel
theorem test_no_clash (n : Nat) : noClash (List.replicate n portRow) = true := by
  induction n with
  | zero => rfl
  | succ n ih =>
    have h : portsClash portRow portRow = false := test_port_rows.2.2.2.1
    simp [List.replicate_succ, noClash, ih, h]
/-- A lane along dimension 1 to label 2 twisted by it, and its table. -/
def droneRow : BitVec 192 := BitVec.ofNat 192 (2 ^ 8 + neighbour 2 1 3 * 2 ^ 16 + 2 ^ 40)
def drones0 : List Byte := (List.replicate 32 (leBytes 24 droneRow.toNat)).flatMap id
theorem test_drone_rows : droneRsvdOk droneRow = true ∧ droneRangeOk tDim droneRow = true ∧ bit (efield droneRow 0 1) 0 = false ∧
    (chunksOf 24 drones0).map (fun b => BitVec.ofNat 192 (leNat b)) = List.replicate 32 droneRow := by decide +kernel
def pegRow : BitVec 128 := 0x200000
def pegs0 : List Byte := (List.replicate 288 (leBytes 16 pegRow.toNat)).flatMap id
theorem test_pegs : pegRsvdOk pegRow = true ∧ pegRangeOk pegRow = true ∧ pegDroneOk pegRow = true ∧
    (chunksOf 16 pegs0).map (fun b => BitVec.ofNat 128 (leNat b)) = List.replicate 288 pegRow := by decide +kernel
theorem test_loads : (Taken tDim 0 (desc 0x39 []) 0x39 ∧ dRsvdOk (desc 0x39 []) [(16, 8)] = true) ∧
    (Taken tDim 0 (desc 0x3A []) 0x3A ∧ dRsvdOk (desc 0x3A []) [(16, 8)] = true) ∧
    (Taken tDim 0 (desc 0x3B []) 0x3B ∧ dRsvdOk (desc 0x3B []) [(16, 8)] = true) := by unfold Taken; decide +kernel
theorem test_loads_idle : (∀ p, p < 128 → (getPort tDim p).state = .disabled) ∧ ∀ m, m < 32 → (getDrone tDim m).state = .disabled :=
  ⟨fun _ _ => rfl, fun _ _ => rfl⟩
theorem test_loads_read : inHostWindow tDim 0 4096 = true ∧ inHostWindow tDim 0 768 = true ∧ inHostWindow tDim 0 4608 = true ∧
    drones0.length = 768 ∧ pegs0.length = 4608 := by decide +kernel
def dRestart (p : Nat) : Desc := desc 0x3C [(8, 1, p)]
theorem test_restart : Taken (tPort { epPort1 with state := .failed }) 0 (dRestart 5) 0x3C ∧ dRsvdOk (dRestart 5) [(8, 1), (9, 1)] = true ∧
    field (dRestart 5) 9 1 = 0 ∧ field (dRestart 5) 8 1 < 128 ∧ (getPort (tPort { epPort1 with state := .failed }) 5).state ≠ .disabled ∧
    refReady (tPort epPort1) (peBridge epPort1) = true ∧ (getPort (tPort { epPort1 with state := .failed }) 6).state = .disabled := by
  unfold Taken; decide +kernel

theorem test_comma_soon : Rules.commaSoon { sinceComma := 253 } ∧ Rules.commaSoon { sinceComma := 254, txRest := [.data 1] } :=
  ⟨⟨fun _ h => (nomatch h), .inl (by decide)⟩, ⟨fun _ h => (nomatch h), .inr (by decide)⟩⟩
/-- An urgent frame once begun goes on before another; a waiting BEAT; a queued TMARK. -/
theorem test_line : (lineNext t0 { txUrgent := [.urgent 0x10 0], txRest := [.data 1] }).1 = .data 1 ∧
    (lineNext t0 { txSets := [.beat 1], sinceComma := 243 }).1 = .k kBeat ∧ (lineNext t0 { txSets := [.tmark 0 0] }).1 = .k kTmark ∧
    (∀ b ∈ ([] : List DroneOut), b ≠ .beat 1) ∧ (getDrone (tDrone (lane .up)) 5).txSets = [] := by decide +kernel
/-- TMARKs of the upstream: a step forward, a step back, the first of all; on another lane the fourth in turn that is off. -/
theorem test_tmark_steps : let s := tRelay { lane .up with skew := 3 }
    s.clock.fine + 64 < (3000#64).toNat * 64 + (lane .up).delayFine.toNat ∧ (1000#64).toNat * 64 + 64 < s.clock.fine ∧
    isUpstream (tDrone (lane .up)) 5 = false ∧ 640 < ((3000 * 64 : Int) - s.clock.fine).natAbs ∧
    (nextOr t0 (exec (.tmark 5 3000 (tmarkCrc 3000)) s)).clock.timeSteps = 1 ∧
    { s with clock := { s.clock with timeValid := false } }.clock.timeValid = false ∧ (2000#64).toNat * 64 = s.clock.fine := by decide +kernel
/-- A relay that has lost its reference and whose upstream offers it again. -/
theorem test_relay_lock : let s := { tRelay { lane .up with accepted := some (helloFrom 2) } with
                                     clock := { (tRelay (lane .up)).clock with locked := false, lost := true } }
    refSource s = 0 ∧ offersRef s (upstream s) = true ∧ s.boot.life = .running ∧ s.clock.locked = false ∧
    (nextOr t0 (exec .refLock s)).clock.lost = false ∧ offersRef (tRelay (lane .up)) (upstream (tRelay (lane .up))) = false ∧
    (getDrone s 5).state = .up := by decide +kernel

/-- Tables with a reserved field set, out of range, and with an entry for a port in use that changes it, or switches it off. -/
theorem test_table_moves : portRsvdOk (portRow + 2 ^ 255) = false ∧ portRangeOk tDim (portRow + 5 * 2 ^ 8) = false ∧ portShape (getPort (tPort upPort) 5).nextEntry ≠ portShape portRow ∧
    portShape (getPort (tPort { upPort with nextEntry := portRow }) 5).nextEntry = portShape portRow ∧ (getPort (tPort upPort) 5).state ≠ .disabled ∧
    droneRsvdOk (droneRow + 2 ^ 191) = false ∧ droneRangeOk tDim (droneRow + 2 ^ 47) = false ∧ pegRsvdOk (pegRow + 2 ^ 127) = false ∧
    pegRangeOk (pegRow + 2 ^ 23) = false := by decide +kernel
/-- A portrow with the port on, its lanes with pegs, and a drone row that is on. -/
theorem test_restarts : (getPort (tPort upPort) 5).state = .up ∧ allQuarantined (tPort upPort) (pePeer upPort) = false ∧
    refReady (tPort upPort) (peBridge upPort) = true ∧ Taken (tDrone (lane .failed)) 0 (desc 0x3C [(8, 1, 5), (9, 1, 1)]) 0x3C ∧
    (getDrone (tDrone (lane .failed)) 5).state ≠ .disabled ∧ laneHears (tDrone (lane .failed)) 5 = false ∧ (getDrone (tDrone (lane .failed)) 6).state = .disabled ∧
    (let s := updDrone 5 (fun _ => lane .quarantined) (tPort { upPort with state := .failed })
     allQuarantined s (pePeer upPort) = true ∧ peModule upPort = true ∧ Taken s 0 (dRestart 5) 0x3C) ∧
    field (desc 0x3C [(9, 1, 2)]) 9 1 = 2 ∧ field (desc 0x3C [(8, 1, 128)]) 8 1 = 128 ∧ Taken (tPort upPort) 0 (dRestart 5) 0x3C := by
  unfold Taken; decide +kernel

theorem test_port_row_on : bit (efield (portRow + 1) 0 1) 0 = true ∧ portRangeOk tDim (portRow + 1) = true ∧ fabricIdOk tDim = true ∧
    bit (efield (droneRow + 1) 0 1) 0 = true ∧ droneExists tDim 5 = true ∧ droneRangeOk tDim (droneRow + 1) = true ∧ levelsDiffer [droneRow] = false := by decide +kernel

/-! ## Groups and collectives (chapter 5) -/

/-- The library reduction program in slot 0, and its digest. -/
def add0 : Image :=
  { libImage 0 with digest := 0x5b2933a0469ae77d3a14663080497ae91f01fa166c7a18da4e718df18ee2aa43b6b54366358e5e0f949aca4591968ea4c096610a92931008014798bfbff7fb5d#512 }
/-- The digest of its 70 bytes, worked out outside the model. -/
theorem test_library_digest : sealImage (libImage 0) = add0 := by decide +kernel
/-- A group record of group 9 (Table 5.2) with one rank (endpoint 3), row counters 10 and 11, and its nodes. -/
def recBytes (chunk : Nat) (nodes : List (Nat × Nat × Nat)) (dig : Nat) : List Byte :=
  leBytes 4 9 ++ leBytes 4 5 ++ leBytes 8 0 ++ leBytes 2 1 ++ leBytes 2 nodes.length ++ leBytes 4 1250 ++ leBytes 4 chunk ++
  [1, 0x3F, 0, 0, 0, 0xFF, 0xFF, 3] ++ leBytes 4 0 ++ [1, 0, 0, 0] ++ leBytes 4 1250 ++ leBytes 2 10 ++ leBytes 2 2 ++ leBytes 4 0 ++
  leBytes 8 dig ++ leBytes 64 0 ++ (leBytes 2 3 ++ leBytes 6 0) ++
  nodes.flatMap fun n => leBytes 2 n.1 ++ leBytes 1 n.2.1 ++ leBytes 1 n.2.2 ++ leBytes 4 0
def digAdd : Nat := 92210266711259997
/-- One leaf node here: this module coordinates; and a leaf node here with its root at module 3. -/
def recOne : List Byte := recBytes 4096 [(2, 1, 0)] digAdd
def recTwo : List Byte := recBytes 4096 [(2, 1, 0), (3, 2, 1)] digAdd
/-- Its module: endpoint 3 on port 5, its home here, and the program in slot 0. -/
def tGroup (gs : List Group) : State :=
  let s := tPort { epPort1 with creditAt := [], lastFlit := 2000000000, level := 2, state := .up }
  let s := updSlot 0 (fun _ => { image := some add0 }) s
  { s with routing := { s.routing with settings := [(3, 2 ^ 63 + 2 * 2 ^ 52)], down := 0 }, groups := gs }
/-- CAST_ON of a record of `n` bytes as group 9. -/
def dCast (op n : Nat) : Desc := desc op [(8, 3, 9), (24, 4, n)]
theorem test_cast_reads : Taken (tGroup []) 0 (dCast 0x10 144) 0x10 ∧ dRsvdOk (dCast 0x10 144) [(8, 3), (16, 8), (24, 4)] = true ∧
    hostRead (taking (tGroup []) 0 (dCast 0x10 144)) (field (dCast 0x10 144) 16 8) (field (dCast 0x10 144) 24 4) (some recOne) = some recOne ∧
    recordLenOk recOne 144 = true ∧ recordLenOk recOne 152 = false ∧ field (dCast 0x10 127) 24 4 < 128 := by unfold Taken; decide +kernel
/-- Root at module 1, which coordinates; and a chunk limit that check 1 refuses. -/
def recAway (chunk : Nat) : List Byte := recBytes chunk [(2, 1, 0), (1, 2, 1)] digAdd
theorem test_cast_checks : castCheck (tGroup []) 9 recOne (recordOf recOne) = 0 ∧ castCheck (tGroup []) 9 (recAway 4096) (recordOf (recAway 4096)) = 0 ∧
    castCheck (tGroup []) 9 (recAway 4095) (recordOf (recAway 4095)) = 1 ∧ castCheck (tGroup []) 8 recOne (recordOf recOne) = 1 ∧
    castCheck (tGroup []) 9 (recBytes 4096 [(2, 1, 0)] 1) (recordOf (recBytes 4096 [(2, 1, 0)] 1)) = 3 := by decide +kernel
theorem test_cast_roles : coordinatorOf (recordOf (recAway 4096)) = some 1 ∧ (tGroup []).label = 2 ∧
    groupModules (recordOf recOne) = [2] ∧ coordinatorOf (recordOf recOne) = some 2 := by decide +kernel
/-- A failed check of a record that this module coordinates; a record for which nothing is left to reserve. -/
theorem test_cast_fails : castCheck (tGroup []) 8 recOne (recordOf recOne) ≠ 0 ∧ coordinatorOf (recordOf recOne) = some (tGroup []).label ∧
    (let s := updSlot 0 (fun q => { q with binds := 4096 }) (tGroup [])
     castCheck s 9 (recAway 4096) (recordOf (recAway 4096)) = 0 ∧
     (reserveGroup (recordOf (recAway 4096)) (checkValue (recAway 4096)) [] s).isNone = true) := by decide +kernel
theorem test_cast_reserves : (reserveGroup (recordOf recOne) (checkValue recOne) [] (tGroup [])).isSome = true ∧
    (reserveGroup (recordOf (recAway 4096)) (checkValue (recAway 4096)) [] (tGroup [])).isSome = true := by decide +kernel

/-- Group 9 as cast on: active, paused or being cast on by the command `tok1`. -/
def g9 : Group :=
  { id := 9, phase := .active, record := recordOf recOne, check := 77, nextSeq := 5
    insts := [{ node := 0, baseSeq := 5 }] }
def gCasting : Group := { g9 with phase := .casting, castTok := some tok1, castAt := 2000000000 - 1250, ready := [2] }
def tCasting (g : Group) : State :=
  let s := tGroup [g]
  { s with host := { s.host with outstanding := [tok1] } }
def pReady (check : Nat) : Packet := ctl 0x50 [(4, 2, 0x8003), (8, 3, 9), (16, 8, check)]
theorem test_casting : findGroup (tCasting gCasting) (field (pReady 76).hdr 8 3) = some gCasting ∧ gCasting.phase = .casting ∧
    gCasting.castTok = some tok1 ∧ coordinates (tCasting gCasting) gCasting = true ∧ field (pReady 76).hdr 16 8 ≠ gCasting.check.toNat ∧
    gCasting.record.castOnLimit ≤ (tCasting gCasting).clock.now - gCasting.castAt ∧
    2000000000 - (2000000000 - 1249) < gCasting.record.castOnLimit ∧ findGroup (tGroup []) 9 = none ∧ g9.phase ≠ .casting := by decide +kernel
/-- READY of module 3, of a group for which this module waits for 2 and 3, or for 2 alone; and one of a module that coordinates no
cast-on. -/
theorem test_ready : coordinates (tCasting gCasting) gCasting = true ∧ field (pReady 77).hdr 16 8 = gCasting.check.toNat ∧
    (∀ k ∈ castAwaits (tCasting gCasting) gCasting.record, k ∈ gCasting.ready ++ [pSrc (pReady 77) % 2048]) ∧
    (let g := { gCasting with record := recordOf recTwo, ready := [] }
     coordinates (tCasting g) g = true ∧ ∃ k ∈ castAwaits (tCasting g) g.record, k ∉ [pSrc (pReady 77) % 2048]) ∧
    (let g := { gCasting with record := recordOf (recAway 4096) }
     coordinates (tCasting g) g = false ∧ findGroup (tCasting g) 9 = some g) := by decide +kernel
theorem test_restful : Rules.restful gCasting ∧ Rules.restful g9 := by unfold Rules.restful; decide +kernel
def dGrp (op : Nat) (fs : List (Nat × Nat × Nat)) : Desc := desc op ((8, 3, 9) :: fs)
/-- Group 9 with a context open, so that a pause waits. -/
def gOpen : Group :=
  { g9 with insts := [{ node := 0, baseSeq := 5, ctxs := [{ seq := 5, chunk := 0, attempt := 0, slots := [{}] }] }] }
def gPaused : Group := { g9 with pause := .paused, lastStep := 12, nondet := 13 }
theorem test_pause : Taken (tGroup [g9]) 0 (dGrp 0x13 []) 0x13 ∧ dRsvdOk (dGrp 0x13 []) [(8, 3)] = true ∧ findGroup (tGroup [g9]) (dGroup (dGrp 0x13 [])) = some g9 ∧
    g9.pause = .running ∧ quiet (tGroup [g9]) g9 = true ∧ quiet (tGroup [gOpen]) gOpen = false ∧ Taken (tGroup [gPaused]) 0 (dGrp 0x14 []) 0x14 ∧
    gPaused.pause = .paused ∧ Taken (tGroup [g9]) 0 (dGrp 0x11 []) 0x11 ∧ dRsvdOk (dGrp 0x11 []) [(8, 3)] = true := by unfold Taken; decide +kernel
def dSave (n : Nat) : Desc := dGrp 0x15 [(16, 8, 3), (24, 8, 0x70000), (32, 4, n)]
theorem test_save : Taken (tGroup [gPaused]) 0 (dSave 168) 0x15 ∧ dRsvdOk (dSave 168) [(8, 3), (16, 8), (24, 8), (32, 4)] = true ∧
    saveBlocked gPaused = false ∧ (saveImage (taking (tGroup [gPaused]) 0 (dSave 168)) gPaused 3).length = 168 ∧ field (dSave 168) 32 4 = 168 ∧
    field (dSave 167) 32 4 < 168 := by unfold Taken; decide +kernel
/-- The image of that group, its row counters 10 and 11 at 100 and 101. -/
def image9 : List Byte := saveImage (setRow 10 100 (setRow 11 101 (tGroup [gPaused]))) gPaused 3
def dRestore : Desc := dGrp 0x16 [(24, 4, 168)]
theorem test_restore : Taken (tGroup [g9]) 0 dRestore 0x16 ∧ dRsvdOk dRestore [(8, 3), (16, 8), (24, 4)] = true ∧ g9.ops = [] ∧ g9.queue = [] ∧
    g9.nextSeq = g9.record.firstSeq ∧ hostRead (taking (tGroup [g9]) 0 dRestore) (field dRestore 16 8) (field dRestore 24 4) (some image9) = some image9 ∧
    leAt image9 0 2 = 1 ∧ leAt image9 2 2 = (tGroup [g9]).label ∧ leAt image9 4 4 = g9.id ∧ leAt image9 16 8 = g9.check.toNat ∧
    leAt image9 48 2 = g9.record.rowCount ∧ 128 + 8 * g9.record.rowCount ≤ field dRestore 24 4 ∧
    instEntries (leAt image9 28 4) (image9.drop (128 + 8 * g9.record.rowCount)) = some [image9.drop 144] ∧
    (∀ e ∈ [image9.drop 144], ∃ i ∈ g9.insts, savedNode i = leAt e 0 2) := by unfold Taken; decide +kernel

/-- A group that permits REDUCE_APPLY, with a shard owned here at step 8. -/
def gShard (step : Nat) : Group :=
  { g9 with
    record := { g9.record with
      opsMask := 0x7F, totalElems := 1024, stateFmts := [0, 0xFF, 0xFF]
      shards := [{ owner := 2, partner := 3, firstSpan := 0, base := 0, count := 1024, spanCount := 0 }]
      nodes := [{ moduleId := 2, level := 1, slotLevel := 0, index := 0 }, { moduleId := 0xFFFF, level := 2, slotLevel := 1, index := 0 }] }
    insts := [{ node := 0, baseSeq := 5 }, { node := 1, shard := some 0, baseSeq := 5 }]
    shards := [{ index := 0, owner := true, step := step, arrays := [] }]
    lastStep := step }
def dRoll (step : Nat) : Desc := dGrp 0x18 [(16, 8, step)]
theorem test_rollback : findGroup (tGroup [gShard 8]) 9 = some (gShard 8) ∧ Taken (tGroup [gShard 8]) 0 (dRoll 7) 0x18 ∧
    dRsvdOk (dRoll 7) [(8, 3), (16, 8)] = true ∧ hasApply (gShard 8).record = true ∧
    (∀ sh ∈ (gShard 8).shards, sh.step ≤ field (dRoll 7) 16 8 + 1 ∧ sh.begun < field (dRoll 7) 16 8 + 2) ∧
    (∃ sh ∈ (gShard 8).shards, field (dRoll 6) 16 8 + 1 < sh.step ∨ field (dRoll 6) 16 8 + 2 ≤ sh.begun) := by unfold Taken; decide +kernel
def gProv : Group := { g9 with provs := [{ seq := 4, content := List.replicate 384 1 }] }
def dProv (seq : Nat) : Desc := dGrp 0x1A [(12, 4, seq), (16, 8, 0x70000)]
theorem test_prov : Taken (tGroup [gProv]) 0 (dProv 4) 0x1A ∧ dRsvdOk (dProv 4) [(8, 3), (12, 4), (16, 8), (24, 1)] = true ∧
    field (dProv 4) 24 1 = 0 ∧ (gProv.provs.find? (·.seq == field (dProv 4) 12 4)).isSome = true ∧
    gProv.provs.find? (·.seq == field (dProv 3) 12 4) = none := by unfold Taken; decide +kernel
/-- REDUCE_APPLY of 1,024 elements in chunks of 1,024, kept as the step last committed. -/
def dApply (seq : Nat) : Desc := dGrp 0x12 [(12, 4, seq), (16, 8, 1024), (24, 4, 1024), (29, 1, 1), (31, 1, 6), (36, 2, 10)]
def gResend : Group := { gShard 8 with stepSeqs := [(8, 4, dApply 4)] }
def dResend : Desc := dGrp 0x19 [(12, 2, 10)]
theorem test_resend : Taken (tGroup [gResend]) 0 dResend 0x19 ∧ dRsvdOk dResend [(8, 3), (12, 2)] = true ∧ heldShards gResend true ≠ [] ∧
    gResend.stepSeqs.find? (·.1 == gResend.lastStep) = some (gResend.lastStep, 4, dApply 4) ∧ gResend.record.rowBase ≤ field dResend 12 2 ∧
    field dResend 12 2 < gResend.record.rowBase + gResend.record.rowCount := by unfold Taken; decide +kernel
def dRecast : Desc := dGrp 0x17 [(24, 4, 144), (32, 8, 8)]
theorem test_recast : Taken (tGroup [g9]) 0 dRecast 0x17 ∧ dRsvdOk dRecast [(8, 3), (16, 8), (24, 4), (32, 8)] = true ∧
    readRecord (taking (tGroup [g9]) 0 dRecast) (field dRecast 16 8) (field dRecast 24 4) (some recOne) = some recOne ∧
    castCheck { taking (tGroup [g9]) 0 dRecast with groups := [] } 9 recOne (recordOf recOne) = 0 ∧ recastKeeps g9.record (recordOf recOne) = true ∧
    (∀ sh ∈ keptShards (taking (tGroup [g9]) 0 dRecast) g9 (recordOf recOne), sh.step = field dRecast 32 8) := by unfold Taken; decide +kernel

/-- ALL_REDUCE of 1,024 FP32 elements as one chunk of 4,096 B. -/
def dRed (seq : Nat) : Desc := dGrp 0x12 [(12, 4, seq), (16, 8, 1024), (24, 4, 1024), (29, 1, 1), (31, 1, 0), (36, 2, 10)]
def opOf (d : Desc) : Op := { seq := dSeq d, op := dOp d, desc := d, tok := tok1, chunks := chunksOfOp g9.record d }
theorem test_posting : Taken (tGroup [g9]) 0 (dRed 5) 0x12 ∧ Taken (tGroup []) 0 (dRed 5) 0x12 ∧
    postError (taking (tGroup [g9]) 0 (dRed 5)) g9 (dRed 5) none = none ∧ postError (taking (tGroup [g9]) 0 (dRed 6)) g9 (dRed 6) none = some 7 ∧
    (dOp (dRed 5) ≠ 6) ∧ (∀ i ∈ g9.insts, i.restored = none) ∧ dCount (dRed 5) ≠ 0 ∧
    (∃ c ∈ List.range 1, c < chunksOfOp g9.record (dRed 5) ∧ workers g9 { opOf (dRed 5) with tok := tokOf (tGroup [g9]) 0 (dRed 5) } c ≠ []) := by
  unfold Taken; decide +kernel
/-- The group with that operation in progress, a context open, and the first of its 16 units already there. -/
def gRed (b : SlotBuf) : Group :=
  { g9 with
    nextSeq := 6, ops := [opOf (dRed 5)]
    insts := [{ node := 0, baseSeq := 5, ctxs := [{ seq := 5, chunk := 0, attempt := 0, slots := [b] }] }] }
def inst0 (b : SlotBuf) : Inst := (gRed b).insts.getD 0 default
def ctx0 (b : SlotBuf) : Ctx := (inst0 b).ctxs.getD 0 { seq := 0, chunk := 0, attempt := 0, slots := [] }
/-- A COLL_UP packet of one unit at unit `off`. -/
def pUp (gid off : Nat) : Packet :=
  sealCrc { hdr := [(1, 1, 3), (2, 2, 0x8002), (4, 2, 3), (6, 2, 1), (11, 3, gid), (14, 2, 5), (22, 2, off), (24, 8, 1)].foldl
                (fun d (f : Nat × Nat × Nat) => setField d f.1 f.2.1 f.2.2) (BitVec.ofNat 512 0x10),
            payload := List.replicate 256 7, trailer := 0 }
def unit0 : SlotBuf := { parts := [(0, List.replicate 256 7)] }
theorem test_contribution : liveGroup (tGroup [gRed {}]) (pGroup (pUp 9 0)) = some (gRed {}) ∧ liveGroup (tGroup [gRed {}]) (pGroup (pUp 8 0)) = none ∧
    (gRed {}).pause = .running ∧
    contribSlot (field (pUp 9 0).hdr 24 8) (slotCount (ranksOf (gRed {}).record) (nodeAt (gRed {}).record 0)) = some 0 ∧
    nameOp (gRed {}) (pSeqLo (pUp 9 0)) = .now (opOf (dRed 5)) ∧ findOp (gRed {}) 5 = some (opOf (dRed 5)) ∧
    instFor (gRed {}) (opOf (dRed 5)) 0 0 = some (inst0 {}) ∧ instAt (gRed {}) (instKey (inst0 {})) = some (inst0 {}) := by decide +kernel
/-- Every packet of a group carries its CRC-32C, or is discarded. -/
theorem test_checked : crcOk (pUp 9 0) = true ∧ crcOk { pUp 9 0 with trailer := 0 } = false ∧ (({} : SlotBuf).full = false) := by
  decide +kernel
theorem test_contribution_slot : ceilDiv (streamBytes (gRed {}).record (opOf (dRed 5)) (slotSpec (gRed {}).record (opOf (dRed 5)) (inst0 {})) 0) 256 = 16 ∧
    bits (field (pUp 9 15).hdr 22 2) 13 0 + pUnits (pUp 9 15) ≤ 16 ∧ ctxAt (inst0 {}) 5 0 = some (ctx0 {}) ∧ (ctx0 {}).attempt = pAttempt (pUp 9 0) ∧
    (ctx0 {}).stage = .filling ∧ (inst0 {}).aborted = [] ∧ meets {} 15 1 = false ∧ (record {} 15 16 (pUp 9 15)).full = false ∧
    meets unit0 0 1 = true ∧ meets unit0 1 1 = false := by decide +kernel
/-- A BARRIER, and the arrival of endpoint 3 at its node. -/
def dBar : Desc := dGrp 0x12 [(12, 4, 5), (31, 1, 5), (36, 2, 10), (38, 1, 32)]
def gBar (done : List (Nat × Option Nat × Nat × Nat)) : Group :=
  { gRed {} with ops := [{ opOf dBar with downDone := done }] }
def pArrive : Packet := sealCrc (ctl 0x4C [(1, 1, 3), (4, 2, 3), (8, 3, 9), (14, 2, 5), (16, 8, 1)])
theorem test_arrival : liveGroup (tGroup [gBar []]) (field pArrive.hdr 8 3) = some (gBar []) ∧
    contribSlot (field pArrive.hdr 16 8) (slotCount (ranksOf (gBar []).record) (nodeAt (gBar []).record 0)) = some 0 ∧
    nameOp (gBar []) (field pArrive.hdr 14 2) = .now (opOf dBar) ∧ (opOf dBar).op = 5 ∧ instFor (gBar []) (opOf dBar) 0 0 = some (inst0 {}) ∧
    bits (field pArrive.hdr 11 1) 3 0 = 0 ∧ meets {} 0 (pUnits pArrive) = false ∧ postError (taking (tGroup [g9]) 0 dBar) g9 dBar none = none := by decide +kernel
/-- A COLL_DOWN packet of one unit, from the parent at module 3, and the buffer with 15 units of its chunk. -/
def pDown (off : Nat) : Packet :=
  sealCrc { hdr := [(1, 1, 4), (2, 2, 0x8002), (4, 2, 0x8003), (6, 2, 1), (11, 3, 9), (14, 2, 5), (20, 2, off)].foldl
                (fun d (f : Nat × Nat × Nat) => setField d f.1 f.2.1 f.2.2) (BitVec.ofNat 512 0x11),
            payload := List.replicate 256 7, trailer := 0 }
def keyDown : PartBuf := { kind := 1, seq := 5, chunk := 0, fmt := 0 }
def gDown (n : Nat) : Group :=
  { gRed {} with insts := [{ node := 0, baseSeq := 5, bufs := if n = 0 then [] else
      [{ keyDown with cells := some 3, buf := { parts := (List.range n).map fun k => (k, List.replicate 256 7) } }] }] }
def instDown (n : Nat) : Inst := (gDown n).insts.getD 0 default
def bufDown (n : Nat) : SlotBuf := (((instDown n).bufs.find? (bufIs keyDown)).map (·.buf)).getD {}
theorem test_down : liveGroup (tGroup [gDown 15]) (pGroup (pDown 15)) = some (gDown 15) ∧
    (gDown 15).insts.find? (fun j => j.node == field (pDown 15).hdr 28 2 && j.shard.isNone) = some (instDown 15) ∧
    downOp (gDown 15) (pSeqLo (pDown 15)) = some (opOf (dRed 5)) ∧ (outSpecs (gDown 15).record (opOf (dRed 5))).find? (·.1 == 0) = some (0, Spec.ofNat 0) ∧
    streamLen (Spec.ofNat 0) (dRowLen (opOf (dRed 5)).desc) (chunkLogical (gDown 15).record (opOf (dRed 5)) 0) (chunkLen (gDown 15).record (opOf (dRed 5)) 0) = 4096 ∧
    meets (bufDown 15) 15 1 = false ∧ (record (bufDown 15) 15 16 (pDown 15)).full = true ∧ (record (bufDown 0) 15 16 (pDown 15)).full = false := by decide +kernel
/-- A chunk whose buffer is there; one that takes a buffer; and one for which the group's four buffers are all in use. -/
def tFullBufs : State :=
  let s := tGroup [gDown 0]
  { s with pools := { s.pools with buffers := (List.range 4).map fun k => (k, { group := 9, cells := [], refs := 1 }) } }
theorem test_buffered : crcOk (pDown 15) = true ∧ pUnits (pDown 15) = 1 ∧ (opOf (dRed 5)).op ≠ 5 ∧ (opOf (dRed 5)).op ≠ 4 ∧
    ((instDown 15).bufs.find? (bufIs keyDown)).map (·.cells) = some (some 3) ∧ (instDown 0).bufs.find? (bufIs keyDown) = none ∧
    (openBuf 9 (pDown 15) (tGroup [gDown 0])).isSome = true ∧ (openBuf 9 (pDown 15) tFullBufs).isNone = true := by decide +kernel
theorem test_buffered_at (u : State) : ∀ b, (∃ v, openBuf 9 (pDown 15) u = some (b, v)) → ∃ v, Rules.buffered 9 (pDown 15) (instDown 0) keyDown u b v :=
  fun _ h => h.imp fun _ e => .inr ⟨test_buffered.2.2.2.2.2.1, e⟩
def pRelease : Packet := sealCrc (ctl 0x4D [(1, 1, 4), (4, 2, 0x8003), (8, 3, 9), (14, 2, 5)])
theorem test_release : liveGroup (tGroup [gBar []]) (field pRelease.hdr 8 3) = some (gBar []) ∧
    (gBar []).insts.find? (fun j => j.node == field pRelease.hdr 12 2 && j.shard.isNone) = some (inst0 {}) ∧
    nameOp (gBar []) (field pRelease.hdr 14 2) = .now (opOf dBar) ∧ (opOf dBar).downDone.contains (0, none, 0, 0) = false ∧
    ((gBar [(0, none, 0, 0)]).ops.getD 0 default).downDone.contains (0, none, 0, 0) = true := by decide +kernel
/-- ALL_TO_ALL_V in chunks of 1,024 elements, its matrix of one rank with itself passed. -/
def dA2a : Desc := dGrp 0x12 [(12, 4, 5), (16, 8, 2048), (24, 4, 1024), (29, 1, 1), (31, 1, 4), (36, 2, 10), (38, 1, 32)]
def opA2a (crossed : List (Nat × Nat × Nat × Nat)) : Op := { opOf dA2a with matrix := [(0, [2048])], crossed := crossed }
def gA2a (crossed : List (Nat × Nat × Nat × Nat)) : Group := { gDown 0 with ops := [opA2a crossed] }
def pA2a (ty chunk elem : Nat) : Packet :=
  sealCrc { hdr := [(1, 1, 3), (2, 2, 0x8002), (4, 2, 3), (6, 2, 1), (11, 3, 9), (14, 2, 5), (20, 4, chunk), (24, 4, elem)].foldl
                (fun d (f : Nat × Nat × Nat) => setField d f.1 f.2.1 f.2.2) (BitVec.ofNat 512 ty),
            payload := List.replicate 256 7, trailer := 0 }
theorem test_a2a : liveGroup (tGroup [gA2a []]) (pGroup (pA2a 0x12 1 1088)) = some (gA2a []) ∧ nameOp (gA2a []) (pSeqLo (pA2a 0x12 1 1088)) = .now (opA2a []) ∧
    matrixFull (gA2a []).record (opA2a []) = true ∧ (tget [] (opA2a []).matrix 0).getD 0 0 ≤ dCount (opA2a []).desc ∧ 1 < pairChunks (opA2a []) 0 0 ∧
    1 * dChunk (opA2a []).desc ≤ field (pA2a 0x12 1 1088).hdr 24 4 ∧ (field (pA2a 0x12 1 1088).hdr 24 4 - 1 * dChunk (opA2a []).desc) * a2aWidth (opA2a []) = 256 ∧
    segLen (opA2a []) 0 0 1 = 1024 ∧ 256 / 256 + pUnits (pA2a 0x12 1 1088) ≤ ceilDiv (1024 * a2aWidth (opA2a [])) 256 ∧
    onPath (gA2a []).record 0 0 0 = true ∧ (opA2a [(0, 0, 0, 1)]).crossed.contains (0, 0, 0, 1) = true ∧
    (record {} 1 16 (pA2a 0x12 1 1088)).full = false := by decide +kernel
/-- A group whose leaf node here has its root at module 1: credits come from the root's instance. -/
def gLeaf : Group := { g9 with record := recordOf (recAway 4096) }
def pCredit (seq : Nat) : Packet := sealCrc (ctl 0x48 [(4, 2, 0x8001), (8, 3, 9), (12, 2, 1), (14, 2, seq), (16, 4, 3)])
theorem test_gcredit : liveGroup (tGroup [gLeaf]) (field (pCredit 5).hdr 8 3) = some gLeaf ∧ field (pCredit 5).hdr 11 1 ≠ 0xFF ∧
    childOf gLeaf.record (nodeAt gLeaf.record (field (pCredit 5).hdr 12 2)) (field (pCredit 5).hdr 11 1) = some 0 ∧
    chunkLt (tget (gLeaf.record.firstSeq, 0) ({ node := 0, baseSeq := 5 } : Inst).parentBase (pSrc (pCredit 5))) (expandSeq gLeaf.nextSeq 5, 3) = true := by decide +kernel
def upXfer : Transfer := { node := 0, seq := 5, chunk := 0, dir := 0, dst := 0x8001, packets := [pUp 9 0], sent := true }
def gXfer : Group := { gLeaf with transfers := [upXfer] }
def pTack (chunk : Nat) : Packet := sealCrc (ctl 0x49 [(4, 2, 0x8001), (8, 3, 9), (14, 2, 5), (16, 4, chunk)])
theorem test_tack : findGroup (tGroup [gXfer]) (field (pTack 0).hdr 8 3) = some gXfer ∧ gXfer.transfers.find? (tackMatches (pTack 0)) = some upXfer ∧
    gXfer.transfers.find? (tackMatches (pTack 1)) = none := by decide +kernel
def gAbort (done : List (Nat × Nat × Nat)) : Group :=
  { gRed {} with record := recordOf (recAway 4096), insts := [{ inst0 {} with aborted := done }] }
def pAbort : Packet := sealCrc (ctl 0x4A [(4, 2, 0x8001), (8, 3, 9), (12, 2, 1), (14, 2, 5)])
theorem test_abort : liveGroup (tGroup [gAbort []]) (field pAbort.hdr 8 3) = some (gAbort []) ∧ nameOp (gAbort []) (field pAbort.hdr 14 2) = .now (opOf (dRed 5)) ∧
    nextTo (gAbort []) (opOf (dRed 5)) 1 0 = [inst0 {}] ∧ instAt (gAbort []) (instKey (inst0 {})) = some (inst0 {}) ∧
    ({ inst0 {} with aborted := [(5, 0, 0)] } : Inst).aborted.contains (5, 0, 0) = true := by decide +kernel
theorem test_control_checked : crcOk (pCredit 5) = true ∧ crcOk (pTack 0) = true ∧ crcOk pAbort = true ∧ crcOk pArrive = true ∧
    crcOk pRelease = true ∧ crcOk (pA2a 0x12 1 1088) = true ∧ a2aAt (gA2a []) 0 = some (instDown 0) ∧ (gA2a []).pause = .running := by
  decide +kernel
def pNack (code : Nat) (h : BitVec 512) : Packet := ctl 0x4B [(4, 2, 0x8001), (6, 1, code), (8, 32, field h 0 32)]
theorem test_c_nack : findGroup (tGroup [gXfer]) 9 = some gXfer ∧ field (BitVec.ofNat 512 (field (pNack 2 (pUp 9 0).hdr).hdr 8 32)) 11 3 = 9 ∧
    (gXfer.transfers.flatMap (·.packets)).find? (fun q => headKey q.hdr == headKey (BitVec.ofNat 512 (field (pNack 2 (pUp 9 0).hdr).hdr 8 32))) = some (pUp 9 0) ∧
    pCode (pNack 2 (pUp 9 0).hdr) = 2 ∧ pIsCtl (pUp 9 0) = false ∧ pIsCtl pArrive = true := by decide +kernel
/-- Table 7.12: a first refusal with TARGET_LEAVING is followed by a resend no earlier than 12,500 ticks later; one after 1 s of
them by none. -/
def keyUp : Nat := headKey (pUp 9 0).hdr
theorem test_leaving : pCode (pNack 1 (pUp 9 0).hdr) = 1 ∧ gXfer.leaving.find? (·.key == keyUp) = none ∧
    (noteLeaving 2000000000 keyUp gXfer).leaving.map (·.due) = [some 2000012500] ∧
    (noteLeaving 2000000000 keyUp { gXfer with leaving := [⟨keyUp, 750000000, none⟩] }).leaving.map (·.due) = [none] ∧
    (noteLeaving 1999999999 keyUp { gXfer with leaving := [⟨keyUp, 750000000, none⟩] }).leaving.map (·.due) = [some 2000012499] ∧
    headKey (BitVec.ofNat 512 (field (pNack 1 (pUp 9 0).hdr).hdr 8 32)) = keyUp := by decide +kernel
theorem test_leaving_resend : let x : Leaving := ⟨keyUp, 2000000000, some 2000000000⟩
    ({ gXfer with leaving := [x] } : Group).leaving = [x] ∧ x.due = some 2000000000 ∧ 2000000000 ≤ (tGroup []).clock.now ∧
    2000000000 < 2000000001 := by decide +kernel
theorem test_leaving_due : leavingDue 2000012500 ⟨keyUp, 2000000000, some 2000012500⟩ = true ∧
    leavingDue 2000012499 ⟨keyUp, 2000000000, some 2000012500⟩ = false := by decide +kernel

/-! ## The needle bed and chunks -/

/-- A module with the needle bed in a state. -/
def tBed (b : Bed) (gs : List Group) : State := { tGroup gs with bed := b }
/-- ALL_REDUCE of two FP32 elements; its context here holds 1, 2 in one slot and 3, 4 in another. -/
def dPair : Desc := dGrp 0x12 [(12, 4, 5), (16, 8, 2), (24, 4, 1024), (29, 1, 1), (31, 1, 0), (36, 2, 10)]
def slotOf (a b : Nat) : SlotBuf := { parts := [(0, leBytes 4 a ++ leBytes 4 b)], full := true }
def ctxPair : Ctx :=
  { seq := 5, chunk := 0, attempt := 0, stage := .running, start := some (2000000000 - 1250)
    slots := [slotOf 0x3F800000 0x40000000, slotOf 0x40400000 0x40800000] }
def instPair (st : CtxStage) : Inst := { node := 0, baseSeq := 5, ctxs := [{ ctxPair with stage := st }] }
def gPair (st : CtxStage) : Group := { gLeaf with nextSeq := 6, ops := [opOf dPair], insts := [instPair st] }
def stitch1 : Stitch := { kind := .reduce, group := 9, node := 0, seq := 5, chunk := 0, attempt := 0 }
/-- R79 on two slots: 1 + 3 and 2 + 4. -/
theorem test_reduce_adds : reduceChunk (stitchImage (tGroup [gPair .running]) (gPair .running).record stitch1) (gPair .running) (opOf dPair) (instPair .running) ctxPair 0 =
    (leBytes 4 0x40800000 ++ leBytes 4 0x40C00000, fNone) := by decide +kernel
theorem test_dispatch : (tBed { queue := [stitch1] } [gPair .queued]).bed.running = none ∧ findGroup (tBed { queue := [stitch1] } [gPair .queued]) 9 = some (gPair .queued) ∧
    (tBed { queue := [stitch1], program := some (libImage 1) } [gPair .queued]).bed.program = some (libImage 1) ∧
    libImage 1 ≠ stitchImage (tGroup [gPair .queued]) (gPair .queued).record stitch1 := by decide +kernel
theorem test_stitch_complete : findGroup (tBed { running := some (stitch1, 0) } [gPair .running]) 9 = some (gPair .running) ∧
    findOp (gPair .running) 5 = some (opOf dPair) ∧ instAt (gPair .running) (0, none) = some (instPair .running) ∧
    ctxAt (instPair .running) 5 0 = some ctxPair ∧ ctxPair.stage = .running ∧ ctxPair.attempt = stitch1.attempt ∧
    readsLost (tBed { running := some (stitch1, 0) } [gPair .running]) (gPair .running) (opOf dPair) stitch1 = false ∧ isRoot (gPair .running).record (instPair .running) = false := by decide +kernel
/-- By hand from R238: label 4 in dimension 1 of a fabric of dimension 4 is twisted; in dimensions 0 and 2 of that fabric, and in a fabric
of dimension 3, it is not. -/
theorem test_twist : neighbour 4 1 4 = 14 ∧ neighbour 14 1 4 = 4 ∧ neighbour 4 2 4 = 0 ∧ neighbour 4 1 3 = 6 ∧ neighbour 4 0 4 = 5 := by
  decide +kernel
/-- R79: of 5 operands the split is at 4, of 2 at 1. -/
theorem test_tree_split : 2 ^ (ceilLog2 [1, 2, 3, 4, 5].length - 1) = 4 ∧ 2 ^ (ceilLog2 [1, 2].length - 1) = 1 := by decide +kernel
theorem test_tree_arrival : (gPair .running).record.arrival = false ∧ [1, 2, 3].length ≤ 2 ^ 2 ∧ [1, 2, 3, 4].length = 2 ^ 2 := by decide +kernel
theorem test_dwell : liveGroup (tGroup [gPair .filling]) 9 = some (gPair .filling) ∧ instFor (gPair .filling) (opOf dPair) 0 0 = some (instPair .filling) ∧
    ctxAt (instPair .filling) 5 0 = some { ctxPair with stage := .filling } ∧ (gPair .filling).record.dwellLimit ≤ 2000000000 - (2000000000 - 1250) ∧
    2000000000 - (2000000000 - 1249) < (gPair .filling).record.dwellLimit := by decide +kernel
/-- The same operation with its result passed down, its context closed. -/
def gEnded (done : List Nat) : Group :=
  let o := opOf dPair
  { gPair .done with
    ops := [{ o with downDone := [(0, none, 0, 0)], complete := done }]
    insts := [{ node := 0, baseSeq := 5, baseChunk := 1 }] }
def opEnded (done : List Nat) : Op := (gEnded done).ops.getD 0 default
theorem test_chunk : liveGroup (tGroup [gEnded []]) 9 = some (gEnded []) ∧ findOp (gEnded []) 5 = some (opEnded []) ∧
    chunkReady (tGroup [gEnded []]) (gEnded []) (opEnded []) 0 = true ∧ 0 < (opEnded []).chunks ∧ (opEnded []).op < 4 ∧ dRowShift (opEnded []).desc < 32 ∧
    (opEnded []).again = false ∧ (opEnded []).resend = none ∧ (opEnded [0]).complete.contains 0 = true ∧ chunkReady (tGroup [gPair .filling]) (gPair .filling) (opOf dPair) 0 = false := by decide +kernel

/-! ## Shards and steps -/

/-- A shard of 1,024 FP32 elements, whose array A1 has hank 5 in set 0 and hank 6 in set 1, and the group with it. -/
def shardAt (owner : Bool) (step bytes : Nat) : Shard :=
  { index := 0, owner := owner, step := step, arrays := [{ array := 0, set0 := [5], set1 := [6] }], mirrorBytes := bytes }
def gWith (sh : Shard) : Group :=
  let g := gShard sh.step
  { g with shards := [sh] }
def tWith (sh : Shard) : State :=
  let s := tGroup [gWith sh]
  { s with skein := { s.skein with hanks := [(5, if sh.owner then .shard else .sympathetic), (6, if sh.owner then .shard else .sympathetic)] } }
def pSeal (ab step : Nat) : Packet := sealCrc (ctl 0x58 [(4, 2, 0x8003), (8, 3, 9), (11, 1, ab), (16, 8, step)])
def pSealed : Packet := sealCrc (ctl 0x59 [(4, 2, 0x8003), (8, 3, 9), (16, 8, 8)])
theorem test_restful_shard : Rules.restful (gWith (shardAt false 7 0)) ∧ Rules.restful (gWith (shardAt true 7 0)) :=
  by unfold Rules.restful; decide +kernel
theorem test_seal : findGroup (tWith (shardAt false 7 4096)) (field (pSeal 0 8).hdr 8 3) = some (gWith (shardAt false 7 4096)) ∧
    (gWith (shardAt false 7 4096)).secureReq = false ∧ (gWith (shardAt false 7 4096)).swapDue = [] ∧ (gWith (shardAt false 7 4096)).phase = .active ∧
    bit (field (pSeal 0 8).hdr 11 1) 0 = false ∧ bit (field (pSeal 1 8).hdr 11 1) 0 = true ∧ heldShards (gWith (shardAt false 7 4096)) false = [shardAt false 7 4096] ∧
    field (pSeal 0 8).hdr 16 8 = 8 ∧ crcOk (pSeal 0 8) = true ∧ crcOk (pSeal 1 8) = true ∧ crcOk (pSeal 0 7) = true ∧ crcOk pSealed = true ∧
    (∃ sh ∈ heldShards (gWith (shardAt false 7 4096)) false, field (pSeal 0 7).hdr 16 8 ≤ sh.step) ∧
    (∀ sh ∈ heldShards (gWith (shardAt false 7 4096)) false, sh.step < 8 ∧ sh.lost = false) ∧ mirrorFull (gWith (shardAt false 7 4096)) (shardAt false 7 4096) = true ∧
    mirrorFull (gWith (shardAt false 7 4095)) (shardAt false 7 4095) = false := by decide +kernel
/-- The owner's side: the step's REDUCE_APPLY has sent its seal at `t`. -/
def dStep8 : Desc := dGrp 0x12 [(12, 4, 5), (16, 8, 1024), (24, 4, 1024), (29, 1, 1), (31, 1, 6), (36, 2, 10), (56, 8, 8)]
def gSealed (t : Nat) (due : Option Nat) : Group :=
  let g := gWith (shardAt true 7 0)
  { g with nextSeq := 6, flipDue := due, ops := [{ opOf dStep8 with sealSent := some t }] }
theorem test_step_commit : (opOf dStep8).op = 6 ∧ dStep dStep8 = 8 ∧ field pSealed.hdr 16 8 = 8 ∧
    findGroup (tGroup [gSealed 0 none]) (field pSealed.hdr 8 3) = some (gSealed 0 none) ∧ (opOf dStep8).abandon = false ∧ (opOf dStep8).committed = none ∧
    applyRunning (tGroup [gSealed 0 none]) 9 = false ∧ (gSealed 0 (some 8)).flipDue = some 8 ∧ 125000 ≤ 2000000000 - (2000000000 - 125000) ∧
    findGroup (tGroup [gSealed 0 (some 8)]) 9 = some (gSealed 0 (some 8)) ∧ (opOf dStep8).resend = none ∧
    (gSealed 0 none).queue = [] ∧ (gSealed 0 none).held = [] ∧ (gSealed 0 none).earlyAborts = [] ∧ (gSealed 0 none).bindTok = none ∧
    (gSealed 0 none).recast = none ∧ (gSealed 0 none).secureReq = false ∧ (gSealed 0 none).swapDue = [] ∧ (gSealed 0 none).phase = .active := by decide +kernel
def tShard : State := tWith (shardAt true 7 0)
def dSec (op : Nat) : Desc := dGrp op []
theorem test_secure : Taken tShard 0 (dSec 0x22) 0x22 ∧ Taken tShard 0 (dSec 0x23) 0x23 ∧ dRsvdOk (dSec 0x22) [(8, 3)] = true ∧
    findGroup tShard (dGroup (dSec 0x22)) = some (gWith (shardAt true 7 0)) ∧ applyPosted (gWith (shardAt true 7 0)) = false ∧ applyPosted (gSealed 0 none) = true ∧
    applyQueuedUp (gWith (shardAt true 7 0)) = false ∧
    ((reserveSnapshots ((gWith (shardAt true 7 0)).shards.flatMap (currentHanks (gWith (shardAt true 7 0))))
      (updGroup 9 (fun g => { g with secureReq := false }) (taking tShard 0 (dSec 0x22)))).map (·.1)) = some [(5, 0, false)] := by
  unfold Taken; decide +kernel
/-- Hank 5 protected, hank 9 kept for its copy, which is due. -/
def shardSec : Shard := { shardAt true 7 0 with secure := some { set := false, hanks := [(5, 9, false)] } }
def tCopy : State :=
  let s := tWith shardSec
  { s with skein := { s.skein with copying := [5], mem := [(5 * hankBytes + 3, 77)] } }
theorem test_copy : tCopy.skein.copying.contains 5 = true ∧ tCopy.skein.waitPuts = [] ∧ tCopy.groups = [gWith shardSec] ∧
    (gWith shardSec).shards = [shardSec] ∧ MemWf tCopy ∧ ({ set := false, hanks := [(5, 9, false)] } : Secure).hanks.find? (fun q => q.1 == 5 && !q.2.2) =
    some (5, 9, false) ∧ tCopy.skein.copying.contains 6 = false := by decide +kernel
/-- SHARD_WRITE and SHARD_READ of elements 2 and 3, of array A1 of a shard that runs solo. -/
def shardSolo : Shard := { shardAt true 7 0 with solo := true }
def dElems (op : Nat) : Desc := dGrp op [(16, 8, 2), (24, 8, 2), (32, 8, 0x70000)]
theorem test_shard_cmds : findGroup (tWith shardSolo) (dGroup (dElems 0x20)) = some (gWith shardSolo) ∧ Taken (tWith shardSolo) 0 (dElems 0x20) 0x20 ∧
    Taken (tWith shardSolo) 0 (dElems 0x21) 0x21 ∧ dRsvdOk (dElems 0x20) shardFields = true ∧ shardError (gWith shardSolo) true (dElems 0x20) = none ∧
    shardError (gWith shardSolo) false (dElems 0x21) = none ∧ (gWith shardSolo).shards.find? (·.index == field (dElems 0x20) 12 2) = some shardSolo ∧
    arrayFmt (gWith shardSolo).record 0 = 0 ∧ MemWf (tWith shardSolo) ∧ (arraySet shardSolo 0 false).Nodup ∧
    (entryOf (gWith shardSolo).record 0).count * 4 ≤ (arraySet shardSolo 0 false).length * hankBytes ∧ isProtected (tWith shardSolo) 5 = false ∧
    hostRead (taking (tWith shardSolo) 0 (dElems 0x20)) (field (dElems 0x20) 32 8) 8 (some [1, 2, 3, 4, 5, 6, 7, 8]) = some [1, 2, 3, 4, 5, 6, 7, 8] := by
  unfold Taken; decide +kernel
/-- This module leads, and has kept one report of step 8. -/
def tLead : State :=
  { t0 with course := { t0.course with leadNow := some 2, records := [{ step := 8, reports := [List.replicate 256 1], notes := [] }] } }
def dRecs : Desc := desc 0x24 [(16, 8, 8), (24, 8, 0x70000), (32, 4, 256)]
theorem test_step_record : Taken tLead 0 dRecs 0x24 ∧ dRsvdOk dRecs [(8, 1), (16, 8), (24, 8), (32, 4), (36, 4)] = true ∧ leadRole tLead = 1 ∧
    field dRecs 8 1 ≤ 1 ∧ (tLead.course.records.find? (·.step == field dRecs 16 8)).isSome = true ∧
    ((recordEntries { step := 8, reports := [List.replicate 256 1], notes := [] } false).take (field dRecs 32 4 / 256)).length = 1 := by
  unfold Taken; decide +kernel
/-- Step 9 is not kept; reports are put in order by group, then owner. -/
theorem test_step_record_order : (tLead.course.records.find? (·.step == 9)) = none ∧
    reportKey ([2, 0, 0] ++ List.replicate 15 0 ++ [1, 0]) = (2, 1) := by decide +kernel

/-! ## Groups in progress -/

/-- The record of a group that is being cast on here is sent again. -/
theorem test_cast_again : castCheck (taking (tCasting gCasting) 0 (dCast 0x10 144)) 9 recOne (recordOf recOne) ≠ 0 ∧
    findGroup (tCasting gCasting) 9 = some gCasting ∧ coordinates (tCasting gCasting) gCasting = true ∧
    Taken (tCasting gCasting) 0 (dCast 0x10 144) 0x10 := by unfold Taken; decide +kernel
/-- Its operation with no chunk begun: a pause that was asked for completes. -/
def gStopping (insts : List Inst) : Group := { gRed {} with pause := .pausing, insts := insts }
def isStill (g : Group) : Bool :=
  (g.ops.all fun o => !opDone g o && (o.op != 6 || o.resend.isSome || !ownedDone g o)) && g.queue.isEmpty && g.held.isEmpty &&
  g.earlyAborts.isEmpty && g.heldBufs.isEmpty && g.transfers.all (·.sent) && g.insts.all (·.retries.isEmpty) && !g.secureReq &&
  g.bindTok.isNone && g.recast.isNone
theorem still_of {g : Group} (h : isStill g = true) : Rules.still g := by
  simp only [isStill, Bool.and_eq_true, List.all_eq_true, Bool.or_eq_true, Bool.not_eq_true', List.isEmpty_iff,
    Option.isNone_iff_eq_none, bne_iff_ne, ne_eq] at h
  obtain ⟨⟨⟨⟨⟨⟨⟨⟨⟨a, b⟩, c⟩, d⟩, e⟩, f⟩, i⟩, j⟩, k⟩, l⟩ := h
  refine ⟨fun o ho => ⟨(a o ho).1, fun x => ?_⟩, b, c, d, e, f, i, j, k, l⟩
  rcases (a o ho).2 with (y | y) | y
  · exact absurd x y
  · exact .inl y
  · exact .inr y
theorem test_still : Rules.still (gRed {}) ∧ Rules.still (gStopping [{ node := 0, baseSeq := 5 }]) ∧ Rules.still (gStopping (gRed {}).insts) ∧
    Rules.still g9 ∧ Rules.still gPaused :=
  ⟨still_of (by decide +kernel), still_of (by decide +kernel), still_of (by decide +kernel), still_of (by decide +kernel), still_of (by decide +kernel)⟩
theorem test_pausing : quiet (tGroup [gRed {}]) (gRed {}) = false ∧ Taken (tGroup [gRed {}]) 0 (dGrp 0x13 []) 0x13 ∧
    Taken (tGroup [gRed {}]) 0 (dGrp 0x11 []) 0x11 ∧ (∃ o ∈ (gRed {}).ops, o.again = false) ∧
    quiet (tGroup [gStopping [{ node := 0, baseSeq := 5 }]]) (gStopping [{ node := 0, baseSeq := 5 }]) = true ∧
    quiet (tGroup [gStopping (gRed {}).insts]) (gStopping (gRed {}).insts) = false ∧ gPaused.ops = [] ∧ gPaused.pauseToks = [] := by
  unfold Taken; decide +kernel
theorem test_group_phases : g9.phase = .active ∧ g9.bindTok = none ∧ gCasting.phase = .casting ∧ findGroup (tGroup []) (dGroup (dGrp 0x11 [])) = none ∧
    ({ g9 with phase := .faulted } : Group).phase = .faulted := by decide +kernel
/-- PROVENANCE with `sign`: with a valid identity, without, and while a report is being signed. -/
def dSign : Desc := dGrp 0x1A [(12, 4, 4), (16, 8, 0x70000), (24, 1, 1)]
def tSigns (ok busy : Bool) : State :=
  let s := tGroup [gProv]
  { s with boot := { s.boot with idValid := ok, attBusy := busy, toSign := [(tok1, 0x70000, List.replicate 384 1)] } }
theorem test_signs : Taken (tSigns true false) 0 dSign 0x1A ∧ dRsvdOk dSign [(8, 3), (12, 4), (16, 8), (24, 1)] = true ∧ field dSign 24 1 = 1 ∧
    (taking (tSigns true true) 0 dSign).boot.attBusy = true ∧ (taking (tSigns false false) 0 dSign).boot.idValid = false ∧
    gProv.provs.find? (·.seq == field dSign 12 4) = some { seq := 4, content := List.replicate 384 1 } ∧ gProv.phase ≠ .faulted ∧
    (tSigns true false).boot.toSign = [(tok1, 0x70000, List.replicate 384 1)] ∧ findGroup (tGroup []) (dGroup dSign) = none := by
  unfold Taken; decide +kernel
theorem test_content : (List.replicate 384 (1 : Byte)).length = 384 := List.length_replicate ..

theorem test_recast_goes : (let u := taking (tGroup [g9]) 0 dRecast
    let pend : Group := { g9 with phase := .binding, recast := some { tok := tokOf (tGroup [g9]) 0 dRecast, desc := dRecast, host := some recOne }, pause := .running }
    let e (bs : List Byte) := endGroup pend ((keptShards u g9 (recordOf bs)).flatMap shardHanks) (updGroup 9 (fun _ => pend) u)
    let get (bs : List Byte) := reserveGroup (recordOf bs) (checkValue bs) (keptShards u g9 (recordOf bs)) (e bs)
    castCheck (e recOne) 9 recOne (recordOf recOne) = 0 ∧ (get recOne).isSome = true ∧ castCheck (e (recAway 4096)) 9 (recAway 4096) (recordOf (recAway 4096)) = 0 ∧
    (get (recAway 4096)).isSome = true ∧ castCheck (e recOne) 9 (recAway 4095) (recordOf (recAway 4095)) ≠ 0) := by
  decide +kernel
/-- A RECAST while an operation runs, of another work format, and by a record that check 1 refuses. -/
theorem test_recast_waits : opStarted (gRed {}) (opOf (dRed 5)) = true ∧ ((gRed {}).ops.map (·.seq)).Nodup ∧ Taken (tGroup [gRed {}]) 0 dRecast 0x17 ∧
    recastKeeps { g9.record with workFmt := 1 } (recordOf recOne) = false ∧ coordinatorOf (recordOf (recAway 4096)) = some 1 ∧
    castCheck { taking (tGroup [gLeaf]) 0 dRecast with groups := [] } 9 (recAway 4095) (recordOf (recAway 4095)) ≠ 0 ∧
    findGroup (taking (tGroup [gRed {}]) 0 dRecast) (dGroup dRecast) = some (gRed {}) ∧ (gRed {}).recast = none := by unfold Taken; decide +kernel
/-- SHARD_RESEND: while a step runs, without a shard here, without a kept step, and for a counter outside the group's. -/
theorem test_resends : isStill gResend = true ∧ isStill (gSealed 0 none) = true ∧ (∃ o ∈ (gSealed 0 none).ops, o.resend.isSome = true ∨ o.op = 6) ∧
    heldShards g9 true = [] ∧ (gShard 8).stepSeqs.find? (·.1 == (gShard 8).lastStep) = none ∧ ¬ gResend.record.rowBase ≤ field (dGrp 0x19 [(12, 2, 9)]) 12 2 ∧
    (∃ c ∈ List.range 1, c < chunksOfOp gResend.record (dApply 4) ∧ workers gResend { opOf (dApply 4) with resend := some 10 } c ≠ []) := by
  decide +kernel

theorem test_details : (let e (d : Desc) (h : HostRead) := postError (taking (tGroup [g9]) 0 d) g9 d h
    e (setField (dRed 5) 21 1 1) none = some 2 ∧ e (dRed 4) none = some 7 ∧ e (setField (dRed 5) 31 1 7) none = some 3 ∧
    e (setField (dRed 5) 24 4 1025) none = some 3 ∧ e (setField (dRed 5) 36 2 12) none = some 3 ∧ e (setField (dRed 5) 30 1 1) none = some 4 ∧
    e (setField (dRed 5) 48 8 0x70000) none = some 5 ∧ e (dRed 5) none = none) := by decide +kernel

/-- A REDUCE_APPLY posted while one runs waits; one of a group whose shards are handed over too. -/
theorem test_posts_wait : dOp (dApply 5) = 6 ∧ (∃ o ∈ (gSealed 0 none).ops, o.op = 6 ∧ o.resend = none ∧ o.again = false) ∧
    ({ gShard 8 with handedOver := true } : Group).handedOver = true ∧ Taken (tGroup [gCasting]) 0 (dRed 5) 0x12 ∧
    postError (taking (tGroup [g9]) 0 (setField (dRed 5) 16 8 0)) g9 (setField (dRed 5) 16 8 0) none = none ∧
    dCount (setField (dRed 5) 16 8 0) = 0 ∧ Taken (tGroup [g9]) 0 (setField (dRed 5) 16 8 0) 0x12 := by unfold Taken; decide +kernel
/-- Fifteen of a slot's sixteen units: the packet with the last one makes it full. Its group here, and staged in hank 5. -/
def slot15 : SlotBuf := { parts := (List.range 15).map fun k => (k, List.replicate 256 7) }
theorem test_slot_fills : (record slot15 15 16 (pUp 9 15)).full = true ∧ meets slot15 15 1 = false ∧ (gRed slot15).pause = .running ∧
    isReducing (opOf (dRed 5)).op = true ∧ ctxAt (inst0 slot15) 5 0 = some (ctx0 slot15) ∧ (ctx0 slot15).slots = [slot15] ∧
    instFor (gRed slot15) (opOf (dRed 5)) 0 0 = some (inst0 slot15) ∧ liveGroup (tGroup [gRed slot15]) 9 = some (gRed slot15) ∧
    findOp (gRed slot15) 5 = some (opOf (dRed 5)) ∧ 0 < (opOf (dRed 5)).chunks ∧
    bufferLost (tGroup []) (gRed slot15) 0 4096 = false ∧
    bufferLost { tGroup [] with skein := { (tGroup []).skein with hanks := [(5, .retired)] } } { gRed slot15 with staging := [5] } 0 4096 = true := by
  decide +kernel
theorem test_slots : (∃ k ∈ ((ctx0 slot15).slots.set 0 (record slot15 15 16 (pUp 9 15)) ++ [unit0]), k.full = false) ∧
    (∀ k ∈ (ctx0 slot15).slots.set 0 (record slot15 15 16 (pUp 9 15)), k.full = true) := by decide +kernel
/-- An arrival that a pause holds. -/
def gBarPaused : Group := { gBar [] with pause := .paused, insts := [{ node := 0, baseSeq := 5 }] }
theorem test_arrival_held : liveGroup (tGroup [gBarPaused]) 9 = some gBarPaused ∧ gBarPaused.pause = .paused ∧ isStill gBarPaused = true ∧
    pType pArrive = 0x4C ∧ ctxAt { node := 0, baseSeq := 5 } 5 0 = none ∧ instDone (opOf dBar) { node := 0, baseSeq := 5 } 0 = false ∧
    instFor gBarPaused (opOf dBar) 0 0 = some { node := 0, baseSeq := 5 } ∧
    contribSlot (field pArrive.hdr 16 8) (slotCount (ranksOf gBarPaused.record) (nodeAt gBarPaused.record 0)) = some 0 := by decide +kernel
/-- A result that comes in a pause for a chunk not begun here; and one for a chunk that is. -/
theorem test_down_held : ({ gDown 0 with pause := .paused } : Group).pause ≠ .running ∧ (opOf (dRed 5)).resend = none ∧
    chunkOpen { gDown 0 with pause := .paused } (opOf (dRed 5)) 0 = false ∧ chunkOpen { gDown 15 with pause := .paused } (opOf (dRed 5)) 0 = true ∧
    (openBuf 9 (pDown 15) tFullBufs).isNone = true := by decide +kernel
def a2aXfer : Transfer := { node := 0, seq := 5, chunk := 1, dir := 2, dst := 3, packets := [], srcRank := 0, dstRank := 0, sent := true }
theorem test_a2a_way : a2aOnWay { gA2a [] with transfers := [a2aXfer] } (opA2a []) (instDown 0) 0 0 1 = true ∧ a2aOnWay (gA2a []) (opA2a []) (instDown 0) 0 0 1 = false ∧
    ({ gA2a [] with pause := .paused } : Group).pause ≠ .running ∧ (∀ x ∈ (instDown 0).bufs, bufIs { keyDown with kind := 2, chunk := 1 } x = false) := by
  decide +kernel

/-! ## Numbers (chapters 2 to 4) -/

/-- The grids of 3 in FP32 and MXINT8, exact and inexact, and a draw; 1 and 2 in every format, and what overflows MXFP4. -/
theorem test_numbers : gridOf tFp32 3 0 = -22 ∧ tInt8.fixed = true ∧ geMag 3 0 1 1 = true ∧ gtMag 1 2 3 0 = true ∧ gridOf tFp32 (2 ^ 24 + 1) 0 = 1 ∧
    (roundTo tFp32 none (2 ^ 24 + 1) 0).1 = 2 ^ 23 ∧ (roundTo tFp32 none (2 ^ 24 + 3) 0).1 = 2 ^ 23 + 2 ∧
    (∀ t ∈ Rules.targets, convertFin t true none false 1 0 = (.code (packCode t false 1 0), fNone) ∨ (convertFin t true none false 1 0).2 = fNone) ∧
    (convertFin tE2m1 true none false 7 0).1 = .blockNan ∧ (convertFin tE2m1 false none false 7 0).1 = .code 7 ∧ (convertFin tE2m1 true none false 13 (-1)).2 = fNone := by
  decide +kernel
/-- 2^-15 in FP16, below the least normal; a subnormal code; 1 + 2^-16 in two limbs, which is inexact; ∞ − ∞. -/
theorem test_flushed : (convertFin tFp16 false none false 1 (-15)).2 = fFlushed ∧ gtMag 1 tFp16.emin 1 (-15) = true ∧ (readCode tFp16 1).2 = fFlushed ∧
    readCode tFp32 0x7F800000 = (.inf false, fNone) ∧ mxValue 8 0xFF 0 = .nan ∧ (add1 tFp32 0x7F800000 0xFF800000).2 = fInvalid ∧
    (add1 tFp32 0x3F800000 0x3F800000).1 = 0x40000000 ∧ (roundArith tFp32 false 1 128).1 = 0x7F800000 ∧ (rcp 0x40000000).1 = 0x3F000000 := by decide +kernel

/-- What the bed may start: a stitch of a group that is gone, and after another program. -/
theorem test_starts_stitch : findGroup (tBed { queue := [stitch1] } []) stitch1.group = none ∧ (tBed { queue := [stitch1] } []).bed.running = none ∧
    instAt (gPair .queued) (0, none) = some (instPair .queued) ∧ ctxAt (instPair .queued) 5 0 = some { ctxPair with stage := .queued } ∧
    (tBed {} []).bed.queue = [] ∧ (tBed { running := some (stitch1, 0) } []).bed.running ≠ none ∧ (tBed {} []).bed.work = [] ∧
    (tBed { work := [.change 256] } []).bed.work = [.change 256] ∧ ((tBed {} []).perf.rateFrac + 176) / 100 < 256 := by decide +kernel
theorem test_work : (let l : Load := { elems := 1024, cost := 3, pre := 2, last := 1 }
    passPiece 128 1 (.stitch l 0) = ({ retired := 1, busy := 1 }, some (.stitch l 1), 0)) ∧
    passPiece 128 9 (.wait 3 4) = ({ front := 3, back := 4 }, none, 2) := by decide +kernel
/-- A root here with the same operation, and with `apply_map`. -/
def gRoot (map : Nat) : Group := { gPair .running with record := g9.record, ops := [opOf (setField dPair 30 1 map)] }
theorem test_runs : Rules.runs (tBed { running := some (stitch1, 0) } [gPair .running]) stitch1 0 (gPair .running) (opOf dPair) (instPair .running) ∧
    Rules.runs (tBed { running := some (stitch1, 0) } [gRoot 0]) stitch1 0 (gRoot 0) (opOf dPair) (instPair .running) ∧
    isRoot (gRoot 0).record (instPair .running) = true ∧ dMap (opOf dPair).desc = false ∧ dMap (setField dPair 30 1 1) = true ∧ ctxPair.attempt = stitch1.attempt :=
  ⟨⟨by decide +kernel, by decide +kernel, by decide +kernel, by decide +kernel, by decide +kernel, by decide +kernel, by decide +kernel⟩,
   ⟨by decide +kernel, by decide +kernel, by decide +kernel, by decide +kernel, by decide +kernel, by decide +kernel, by decide +kernel⟩,
   by decide +kernel⟩
theorem test_runs_map : let x : Stitch := { stitch1 with kind := .map }
    Rules.runs (tBed { running := some (x, 0) } [gRoot 1]) x 0 (gRoot 1) (opOf (setField dPair 30 1 1)) (instPair .running) := ⟨by decide +kernel, by decide +kernel, by decide +kernel, by decide +kernel, by decide +kernel, by decide +kernel, by decide +kernel⟩
/-- An APPLY of one phase without accumulators; of shard 0, with its step's context, and with its hank protected. -/
def img1 : Image := { header := setField 0 3 1 1, words := [], digest := 0 }
def apply1 : Stitch := { kind := .apply1, group := 9, node := 1, shard := some 0, seq := 5, chunk := 0, attempt := 0 }
def ctxApply : Ctx := { seq := 5, chunk := 0, attempt := 0, stage := .running, slots := [] }
def gApply (applied : List Nat) : Group :=
  let g := gWith (shardAt true 7 0)
  { g with nextSeq := 6, ops := [{ opOf dStep8 with applied := applied }], insts := [{ node := 1, shard := some 0, baseSeq := 5, ctxs := [ctxApply] }] }
def tApply (x : Stitch) (l : List Nat) : State := tBed { running := some (x, 0), program := some img1 } [gApply l]
theorem test_runs_apply : Rules.runs (tApply apply1 []) apply1 0 (gApply []) (opOf dStep8) { node := 1, shard := some 0, baseSeq := 5, ctxs := [ctxApply] } ∧
    (gApply []).shards.find? (fun sh => some sh.index == apply1.shard) = some (shardAt true 7 0) := ⟨⟨by decide +kernel, by decide +kernel, by decide +kernel, by decide +kernel, by decide +kernel, by decide +kernel, by decide +kernel⟩, by decide +kernel⟩
theorem test_apply : imgPhases (runImage (tApply apply1 [])) = 1 ∧ feedsAcc (runImage (tApply apply1 [])) 1 = false ∧
    applyBlocked (tApply apply1 []) (gApply []) (opOf dStep8) (shardAt true 7 0) 0 (streamsOf 0x11 (imgSection img1 1 false)).eraseDups = [] ∧
    imgPhases (runImage (tBed {} [])) ≠ 1 ∧ isRoot (gApply []).record { node := 1, shard := some 0, baseSeq := 5 } = true ∧
    0 ∉ (opOf dStep8).applied ∧ (opOf dStep8).heldChunks = [] ∧ applyQueued (tApply { apply1 with kind := .reduce } []) 9 5 0 = false := by decide +kernel
theorem test_runs_reduced (l : List Nat) (h : l = [] ∨ l = [0]) : let x : Stitch := { apply1 with kind := .reduce }
    Rules.runs (tApply x l) x 0 (gApply l) { opOf dStep8 with applied := l } { node := 1, shard := some 0, baseSeq := 5, ctxs := [ctxApply] } := by
  rcases h with rfl | rfl
  · exact ⟨by decide +kernel, by decide +kernel, by decide +kernel, by decide +kernel, by decide +kernel, by decide +kernel, by decide +kernel⟩
  · exact ⟨by decide +kernel, by decide +kernel, by decide +kernel, by decide +kernel, by decide +kernel, by decide +kernel, by decide +kernel⟩
/-- Streams of array A1, its hank protected, and a value stored. -/
theorem test_stores : applyBlocked tCopy (gApply []) (opOf dStep8) (shardAt true 7 0) 0 [8] = [] ∧
    applyBlocked tCopy (gApply []) (opOf dStep8) { shardAt true 7 0 with gen := true } 0 [8] = [5] ∧
    (arraySet (shardAt true 7 0) 0 true) = [6] ∧ isProtected tShard 6 = false ∧ 0 + 4096 ≤ [6].length * hankBytes := by decide +kernel

theorem test_swap_due : ({ gWith (shardAt false 7 4096) with swapDue := [false] } : Group).swapDue.contains false = true ∧
    (gWith (shardAt false 7 4096)).swapDue.contains false = false := by decide +kernel

/-! ## Flows, PUT and GET -/

/-- Endpoint 3 may read and write one hank (41) at address 0; its flow is at 5, with number 6 there already. -/
def prot1 : List Byte := List.replicate 7 0 ++ [1] ++ List.replicate 312 0 ++ leBytes 2 3 ++ leBytes 2 3 ++ [3, 1, 0, 0] ++ leBytes 8 0
def rxAt : RxFlow := { started := true, incarn := 7, cum := 5, bits := [6], last := 1999999999 }
def tFlow : State :=
  let s := tGroup [g9]
  { s with
    boot := { s.boot with prot := prot1 }, skein := { s.skein with windows := [(0, [41])] }, flows := { s.flows with rx := [(3, rxAt)] } }
/-- A PUT of one unit with sequence number `n` and incarnation 7 to byte 256 of the window. -/
def pPutAt (n : Nat) : Packet :=
  { hdr := [(1, 1, 1), (2, 2, 0x8002), (4, 2, 3), (6, 2, 1), (12, 4, n), (16, 8, 256), (24, 2, 7)].foldl
      (fun d (f : Nat × Nat × Nat) => setField d f.1 f.2.1 f.2.2) (BitVec.ofNat 512 0x01)
    payload := List.replicate 256 7, trailer := 0 }
theorem test_put : (judgeFlow (consume (pPutAt 5) tFlow) (rxKey (consume (pPutAt 5) tFlow) (pPutAt 5)) (BitVec.ofNat 16 (pIncarn (pPutAt 5))) (BitVec.ofNat 32 (pFlowSeq (pPutAt 5)))).1 = .fresh ∧
    (judgeFlow (consume (pPutAt 6) tFlow) (rxKey (consume (pPutAt 6) tFlow) (pPutAt 6)) 7 6).1 = .duplicate ∧
    (judgeFlow (consume (pPutAt 4) tFlow) (rxKey (consume (pPutAt 4) tFlow) (pPutAt 4)) 7 4).1 = .duplicate ∧
    (judgeFlow (consume (pPutAt 5) t0) (rxKey (consume (pPutAt 5) t0) (pPutAt 5)) 7 5).1 = .unknown ∧ bits (pAddr (pPutAt 5)) 63 62 = 0 ∧
    tFlow.course.draining = false ∧ pDst (pPutAt 5) = me tFlow ∧ pNotify (pPutAt 5) = false ∧
    windowRange tFlow (pSrc (pPutAt 5)) (pAddr (pPutAt 5)) (putBytes (pPutAt 5)).length true = some ([41], 256) := by decide +kernel
/-- R217: accepting 5 moves `cum` past 6, which was there. -/
theorem test_accept : acceptSeq 5 rxAt = { rxAt with cum := 7, bits := [] } := by decide +kernel
def pGet : Packet := ctl 0x43 [(2, 2, 0x8002), (4, 2, 3), (8, 4, 5), (12, 4, 99), (16, 8, 256), (24, 4, 300), (28, 2, 7)]
theorem test_get : (judgeFlow (consume pGet tFlow) (rxKey (consume pGet tFlow) pGet) (BitVec.ofNat 16 (field pGet.hdr 28 2)) (BitVec.ofNat 32 (field pGet.hdr 8 4))).1 = .fresh ∧
    pDst pGet = me tFlow ∧ bits (pAddr pGet) 63 62 = 0 ∧ field pGet.hdr 24 4 ≤ 16777216 ∧
    windowRange tFlow (pSrc pGet) (pAddr pGet) (field pGet.hdr 24 4) false = some ([41], 256) ∧ 0 < field pGet.hdr 24 4 := by decide +kernel

/-- A flow to endpoint 3 with one packet not acknowledged. -/
def txPut : TxPkt :=
  { seq := 2, pkt := { pPutAt 2 with hdr := setField (setField (pPutAt 2).hdr 2 2 3) 4 2 0x8002 }, sentAt := some 1999975000, due := 2000000000
    refused := none, resends := 15, purpose := .report }
def getReq1 : TxPkt := { txPut with pkt := ctl 0x43 [(2, 2, 3), (4, 2, 0x8002), (8, 4, 2), (12, 4, 99), (24, 4, 300), (28, 2, 7)], purpose := .inject tok1 }
def tx1 (l : List TxPkt) : TxFlow := { incarn := 7, next := 3, unacked := l }
def tTx (l : List TxPkt) : State :=
  let s := tFlow
  { s with flows := { s.flows with tx := [(3, tx1 l)] } }
def pAck (incarn : Nat) : Packet := ctl 0x41 [(2, 2, 0x8002), (4, 2, 3), (8, 4, 2), (12, 4, 3), (16, 2, incarn), (18, 1, 1)]
def pEn (code : Nat) : Packet := ctl 0x42 [(2, 2, 0x8002), (4, 2, 3), (6, 1, code), (8, 4, 2), (12, 4, 2), (16, 2, 7), (18, 1, 1)]
theorem test_ack : getFlow (tTx [txPut]) (pSrc (pAck 7)) = some (tx1 [txPut]) ∧ (tx1 []).incarn.toNat = field (pAck 7).hdr 16 2 ∧
    (tx1 []).incarn.toNat ≠ field (pAck 8).hdr 16 2 ∧ txPut.seq.toNat = field (pAck 7).hdr 8 4 ∧ pType txPut.pkt = 0x01 ∧ txPut.resends < 16 ∧
    (tx1 [txPut]).unacked.find? (·.seq == BitVec.ofNat 32 (field (pEn 5).hdr 8 4)) = some txPut ∧ pCode (pEn 5) = 5 ∧ pCode (pEn 3) = 3 ∧ pCode (pEn 7) = 7 ∧
    (tx1 [txPut]).incarn.toNat = field (pEn 5).hdr 16 2 := by decide +kernel
def pGd : Packet :=
  { hdr := [(1, 1, 2), (2, 2, 0x8002), (4, 2, 3), (6, 2, 1), (12, 4, 2), (16, 8, 99), (24, 2, 7)].foldl
      (fun d (f : Nat × Nat × Nat) => setField d f.1 f.2.1 f.2.2) (BitVec.ofNat 512 0x02)
    payload := List.replicate 256 7, trailer := 0 }
theorem test_get_data : getFlow (tTx [getReq1]) (pSrc pGd) = some (tx1 [getReq1]) ∧ bits (pAddr pGd) 31 0 = 99 ∧
    ((tx1 [getReq1]).unacked.find? fun y => pType y.pkt == 0x43 && y.seq.toNat == pFlowSeq pGd && field y.pkt.hdr 12 4 == 99 &&
      (tx1 [getReq1]).incarn.toNat == pIncarn pGd) = some getReq1 ∧
    gotAll ([((3, 7, 2, 99), bits (pAddr pGd) 63 32, putBytes pGd)]) (3, 7, 2, 99) (field getReq1.pkt.hdr 24 4) = false := by decide +kernel
theorem test_get_acked : (tx1 [getReq1]).unacked = [getReq1] ∧ getReq1.seq.toNat = field (pAck 7).hdr 8 4 ∧ pType getReq1.pkt = 0x43 ∧
    field getReq1.pkt.hdr 24 4 ≠ 0 ∧ ({ getReq1 with purpose := .report } : TxPkt).purpose = .report ∧
    gotAll [((3, 7, 2, 99), 0, List.replicate 300 1)] (3, 7, 2, 99) 300 = true := by decide +kernel
theorem test_resend_timer : getFlow (tTx [txPut]) 3 = some (tx1 [txPut]) ∧ txPut.sentAt.isSome = true ∧ txPut.due ≤ (tTx [txPut]).clock.now ∧
    2000000000 < ({ txPut with due := 2000000001 } : TxPkt).due := by decide +kernel
/-- INJECT of a control packet, and the 64 bytes the host holds: ROW_WAIT, and one that no host may send. -/
def dInject : Desc := desc 0x48 [(8, 2, 64), (16, 8, 0x70000)]
def bsInject (t : Nat) : List Byte := leBytes 64 (ctl t [(1, 1, 1), (2, 2, 3)]).hdr.toNat
theorem test_inject : Taken tFlow 0 dInject 0x48 ∧ dRsvdOk dInject [(8, 2), (16, 8)] = true ∧ field dInject 8 2 = 64 ∧
    hostRead (taking tFlow 0 dInject) (field dInject 16 8) 64 (some (bsInject 0x44)) = some (bsInject 0x44) ∧
    injectOk (injected (taking tFlow 0 dInject) (bsInject 0x44)) 64 = true ∧ injectOk (injected (taking tFlow 0 dInject) (bsInject 0x48)) 64 = false ∧
    pType (injected (taking tFlow 0 dInject) (bsInject 0x44)) ≠ 0x43 ∧ (allocUnreserved 64 1 (taking tFlow 0 dInject)).1.isSome = true := by
  unfold Taken; decide +kernel
/-- A module whose pools have no cell left. -/
def tNoCells : State :=
  let s := tFlow
  { s with pools := { s.pools with pools := [{}, {}, {}, {}], carve := [0, 0, 0, 0], applied := true } }
theorem test_inject_full : Taken tNoCells 0 dInject 0x48 ∧ (allocUnreserved 64 1 (taking tNoCells 0 dInject)).1 = none := by
  unfold Taken; decide +kernel
/-- ROW_WAIT of endpoint 3, a member of group 9, on its row counter 10, and on counter 12, which is not the group's. -/
def pRowWait (row thr : Nat) : Packet := ctl 0x44 [(2, 2, 0x8002), (4, 2, 3), (8, 2, row), (12, 4, 5), (16, 8, thr)]
def waiter1 : EpWaiter := { src := 3, row := 10, tag := 5, threshold := 1 }
theorem test_endpoint_row_wait : mayNameRow tFlow (pSrc (pRowWait 10 0)) (field (pRowWait 10 0).hdr 8 2) = true ∧
    mayNameRow tFlow (pSrc (pRowWait 12 0)) (field (pRowWait 12 0).hdr 8 2) = false ∧ rowValue tFlow 10 < field (pRowWait 10 1).hdr 16 8 ∧
    field (pRowWait 10 0).hdr 16 8 ≤ rowValue tFlow 10 ∧ (List.replicate 16384 waiter1).length = 16384 ∧ (List.replicate 16383 waiter1).length < 16384 := by decide +kernel

/-- The receiver's flow: a number beyond the window is dropped, one far behind a duplicate; an older and a newer incarnation. -/
theorem test_flow_judged : tFlow.flows.rx = [(3, rxAt)] ∧ (judgeFlow tFlow 3 7 261).1 = .dropped ∧ (judgeFlow tFlow 3 7 260).1 = .fresh ∧
    (judgeFlow tFlow 3 7 4).1 = .duplicate ∧ (judgeFlow tFlow 3 7 (5 + 2 ^ 31)).1 = .duplicate ∧ (judgeFlow tFlow 3 6 5).1 = .dropped ∧
    (judgeFlow tFlow 3 8 0).1 = .fresh ∧ (judgeFlow { tFlow with flows := { tFlow.flows with rx := [(3, { rxAt with started := false })] } } 3 7 5).1 = .unknown ∧
    (∀ q ∈ t0.flows.rx, q.1 ≠ 3) := by decide +kernel
/-- A packet of the host that is given up: its INJECT outstanding, or completed. -/
theorem test_given_up : getReq1.cell = none ∧ isOpen (tTx [getReq1]) tok1 = false ∧
    isOpen { tTx [getReq1] with host := { (tTx [getReq1]).host with outstanding := [tok1] } } tok1 = true ∧ pCode (pEn 4) = 4 ∧
    ({ txPut with purpose := .inject tok1 } : TxPkt).purpose = .inject tok1 ∧ pType getReq1.pkt = 0x43 ∧ (tx1 [getReq1]).unacked = [getReq1] := by decide +kernel
/-- An injected control packet that its lookup refuses, for no entry leads to it, and one for this module. -/
theorem test_inject_refused : (let u := taking tFlow 0 dInject
    match allocUnreserved 64 1 u with
    | (some c, v) => (routeOnce { pkt := injected u (bsInject 0x44), inPort := 128, enq := v.clock.now, cell := some c, priv := 1 } true false v).2.isNone
    | _ => false) = true ∧
    (let s := { tFlow with routing := { tFlow.routing with bank0 := .retired } }
     let u := taking s 0 dInject
     match allocUnreserved 64 1 u with
     | (some c, v) => (routeOnce { pkt := injected u (bsInject 0x44), inPort := 128, enq := v.clock.now, cell := some c, priv := 1 } true false v).2 == some 4
     | _ => false) = true := by decide +kernel

/-! ## Courses, faults and replays -/

/-- A module whose lane 5 leads to its partner and is UP, with a course. -/
def tCourse (c : Course) : State :=
  let s := updDrone 5 (fun _ => { state := .up }) t0
  { s with course := c }
def pairedCourse : Course := { fixed := true, state := .paired, leadNow := some 4 }
/-- COURSE_CFG: `feed_id` 6, lead 4, no override. -/
def cfg6 : BitVec 32 := BitVec.ofNat 32 (6 + 4 * 65536)
def dPlain (op : Nat) : Desc := desc op []
theorem test_course_setup : Taken (tCourse { cfg := cfg6 }) 0 (dPlain 0x28) 0x28 ∧ dRsvdOk (dPlain 0x28) [] = true ∧ (tCourse { cfg := cfg6, fixed := true }).course.fixed = true ∧
    ownFeed (tCourse { cfg := cfg6 }) = 6 ∧ ownFeed (tCourse {}) = 0 ∧ (tCourse { cfg := cfg6 }).course.partner = none := by unfold Taken; decide +kernel
/-- A frame's body: origin, subject, cause, time and argument. -/
def body (origin subject cause time arg : Nat) : BitVec 192 :=
  BitVec.ofNat 192 (origin + subject * 2 ^ 16 + cause * 2 ^ 32 + time * 2 ^ 64 + arg * 2 ^ 128)
theorem test_course_hears : laneHears (tCourse { cfg := cfg6, fixed := true }) 5 = true ∧ deDim (getDrone (tCourse { cfg := cfg6, fixed := true }) 5) = 0 ∧
    ownOverride (tCourse { cfg := cfg6 }) = false ∧ bit (uCause (body 3 3 1 0 6)) 0 = true ∧ uArg (body 3 3 0 0 7) = 7 ∧ laneHears t0 5 = false := by decide +kernel
/-- A course whose partner's frame came before COURSE_SETUP; a later frame with the same feed, and one with another. -/
theorem test_course_early : (tCourse { cfg := cfg6, partner := some (7, false) }).course.state = .unset ∧
    (tCourse { cfg := cfg6, partner := some (7, false) }).course.fixed = false ∧ ownFeed (tCourse { cfg := cfg6, partner := some (7, false) }) = 6 ∧
    Taken (tCourse { cfg := cfg6, partner := some (7, false) }) 0 (dPlain 0x28) 0x28 ∧
    BitVec.ofNat 16 (uArg (body 3 3 0 0 7)) = (7 : BitVec 16) ∧ BitVec.ofNat 16 (uArg (body 3 3 0 0 6)) ≠ (7 : BitVec 16) := by
  unfold Taken; decide +kernel
theorem test_course_repeat : (tCourse { setupAt := some (2000000000 - 125000) }).course.setupAt = some (2000000000 - 125000) ∧
    125000 ≤ 2000000000 - (2000000000 - 125000) ∧ 2000000000 - (2000000000 - 124999) < 125000 := by decide +kernel
theorem test_takeover : mayTakeOver (tCourse pairedCourse) = true ∧ mayTakeOver (tCourse {}) = false ∧ Taken (tCourse pairedCourse) 0 (dPlain 0x29) 0x29 ∧
    (tCourse pairedCourse).groups = [] ∧ Taken (tCourse pairedCourse) 0 (dPlain 0x2A) 0x2A ∧ Taken (tCourse pairedCourse) 0 (dPlain 0x2B) 0x2B := by
  unfold Taken; decide +kernel
def lostCourse (t : Nat) : Course := { pairedCourse with partnerLostAt := some t }
theorem test_sever : 1250000 ≤ (tCourse (lostCourse (2000000000 - 1250000))).clock.now - (2000000000 - 1250000) ∧
    2000000000 - (2000000000 - 1249999) < 1250000 := by decide +kernel
theorem test_drained : isDrained (tCourse { pairedCourse with draining := true, drainTok := some tok1 }) = true ∧
    isDrained { tCourse { pairedCourse with draining := true, drainTok := some tok1 } with groups := [g9] } = false := by decide +kernel
theorem test_evac : (tCourse pairedCourse).course.risk.toNat < riskLevel (tCourse pairedCourse) 2 ∧ riskLevel (tCourse { pairedCourse with risk := 255 }) 2 ≤ 255 ∧ uCause (body 3 3 0 0 0) = 0 ∧ uCause (body 3 3 1 0 0) ≠ 0 := by decide +kernel
/-- A module whose weights and temperature floor have their reset values, at a fabric time. -/
def tRisk (fine : Nat) (replays : Nat) : State :=
  { tCourse { risk := 5, inputs := [0, 0, replays, 0, 0, 0] } with clock := { t0.clock with fine := fine } }
def riskOf (s : State) : Nat := max (riskInst s (s.course.inputs.set 3 (40 - bits (setting s 0x50002) 31 24))) (s.course.risk.toNat - bits (setting s 0x50002) 47 40)
theorem test_risk : fabricTime (tRisk (64 * 1250000) 0) % 1250000 = 0 ∧ fabricTime (tRisk (64 * 1250000) 0) ≠ (tRisk (64 * 1250000) 0).course.riskAt ∧
    fabricTime (tRisk (64 * 1250001) 0) % 1250000 ≠ 0 ∧ (∀ l ∈ [0, 1, 2], riskOf (tRisk (64 * 1250000) 0) < riskLevel (tRisk (64 * 1250000) 0) l) ∧
    (tRisk (64 * 1250000) 0).course.armed = [true, true, true] := by decide +kernel
theorem test_risk_hyp : (tRisk (64 * 1250000) 0).boot.life = .running ∧ (tLife .resetHold).boot.life ≠ .running ∧
    riskLevel (tRisk (64 * 1250000) 0) 2 ≠ 0 := by decide +kernel
theorem test_risk_watch : riskLevel (tRisk (64 * 1250000) 20) 0 ≠ 0 ∧ riskLevel (tRisk (64 * 1250000) 20) 0 ≤ riskOf (tRisk (64 * 1250000) 20) ∧
    riskOf (tRisk (64 * 1250000) 20) < riskLevel (tRisk (64 * 1250000) 20) 1 ∧ riskLevel (tRisk (64 * 1250000) 20) 1 ≤ riskLevel (tRisk (64 * 1250000) 20) 2 := by decide +kernel
/-- The same module with group 9 and its shard. -/
def tCourseWith (sh : Shard) : State := { tCourse pairedCourse with groups := [gWith sh], skein := (tWith sh).skein }
theorem test_secure_req : (tCourseWith (shardAt true 7 0)).groups = [gWith (shardAt true 7 0)] ∧ (gWith (shardAt true 7 0)).shards ≠ [] ∧
    (gWith (shardAt true 7 0)).phase = .active ∧ laneHears (tCourseWith (shardAt true 7 0)) 5 = true := by decide +kernel
theorem test_notices : uSubject (body 6 7 0 0 0) % 2048 = 7 ∧ uOrigin (body 6 7 0 0 0) = 6 ∧ (tCourse pairedCourse).label = 2 ∧ (tCourse pairedCourse).partnerLabel = 3 ∧
    faultOf (tCourse pairedCourse) 7 = .up ∧ faultOf (tCourse { pairedCourse with faults := [(7, .returned)] }) 7 = .returned ∧
    uSubject (body 6 2 0 0 0) % 2048 = (tCourse pairedCourse).label ∧ faultOf (tCourse { pairedCourse with faults := [(7, .draining)] }) 7 = .draining ∧
    isGone (tCourse pairedCourse) 7 = false ∧ faultOf (tCourse { pairedCourse with faults := [(7, .lost)] }) 7 ≠ .up ∧
    isGone (tCourse { pairedCourse with faults := [(7, .draining)] }) 7 = false := by decide +kernel
theorem test_ep_lost : (tCourse pairedCourse).course.epLost = [] ∧ (tCourse { pairedCourse with epLost := [(9, 50)] }).course.epLost = [(uSubject (body 3 0x8009 0 40 0) % 2 ^ 15, 50)] ∧
    uTime (body 3 0x8009 0 40 0) < 50 := by decide +kernel
theorem test_hank_states : hankState (tWith (shardAt true 7 0)) 5 ≠ .firmware ∧ t0.groups = [] ∧
    hankState { t0 with skein := { t0.skein with hanks := [(5, .firmware)] } } 5 = .firmware := by decide +kernel
/-- SHARD_LOST of shard 0 of group 9, by the partner. -/
theorem test_shard_lost : bits (uArg (body 3 3 0 0 9)) 23 0 = 9 ∧ bits (uArg (body 3 3 0 0 9)) 35 24 = 0 ∧ uOrigin (body 3 3 0 0 9) = (tCourseWith (shardAt true 7 0)).partnerLabel ∧
    findGroup (tCourseWith (shardAt true 7 0)) 9 = some (gWith (shardAt true 7 0)) ∧ findGroup (tCourseWith (shardAt false 7 0)) 9 = some (gWith (shardAt false 7 0)) ∧
    (gWith (shardAt false 7 0)).shards.find? (·.index == 0) = some (shardAt false 7 0) := by decide +kernel

/-- A partner whose shard is copied here, whole or with a refill under way, and that is the lead. -/
def tPartner (refill : Bool) (st : CourseState) : State :=
  { tCourse { pairedCourse with state := st, refillHere := refill, leadNow := some 3 } with
    groups := [gWith { shardAt false 7 0 with refill := refill }], skein := (tWith (shardAt false 7 0)).skein }
theorem test_takes_over : mayTakeOver (tPartner false .severed) = true ∧ (∃ g ∈ (tPartner false .severed).groups, ∃ sh ∈ heldShards g false, sh.refill = false ∧ 5 ∈ stateHanks g sh) ∧
    mayTakeOver (tPartner true .refill) = true ∧ (∃ g ∈ (tPartner true .refill).groups, ∃ sh ∈ heldShards g false, sh.refill = true) ∧
    leadOf (tPartner false .severed) = (tPartner false .severed).partnerLabel ∧ hankState (tPartner false .severed) 5 ≠ .retired ∧
    Taken (tPartner false .severed) 0 (dPlain 0x29) 0x29 ∧ hankState (nextOr t0 (exec (.takeover 0 (dPlain 0x29)) (tPartner false .severed))) 5 = .shard ∧
    (nextOr t0 (exec (.takeover 0 (dPlain 0x29)) (tPartner true .refill))).course.state = .lost := by unfold Taken; decide +kernel
/-- A MODULE_LOST of the partner by module 7, where this module has declared it lost, and where not. -/
theorem test_corroborates : (let s := { tPartner false .severed with course := { (tPartner false .severed).course with ownLost := [3] } }
     laneHears s 5 = true ∧ uSubject (body 7 3 0 0 0) % 2048 = s.partnerLabel ∧ uOrigin (body 7 3 0 0 0) ≠ s.label ∧
     s.course.otherLost.contains s.partnerLabel = false ∧ (nextOr t0 (exec (.moduleLost 5 (body 7 3 0 0 0)) s)).course.state = .solo) ∧
    (nextOr t0 (exec (.moduleLost 5 (body 7 3 0 0 0)) (tPartner false .severed))).course.state = .severed := by decide +kernel
theorem test_swaps : ((tCourseWith (shardAt true 7 0)).groups.map (·.id)).Nodup ∧ stepOpen (gWith (shardAt true 7 0)) true = false ∧
    stepOpen (gSealed 0 none) true = true ∧ heldShards (gWith (shardAt true 7 0)) true ≠ [] ∧ heldShards (gWith (shardAt true 7 0)) false = [] ∧
    true ∈ ({ gWith (shardAt true 7 0) with swapDue := [true] } : Group).swapDue ∧ true ∉ (gWith (shardAt true 7 0)).swapDue ∧
    5 ∈ stateHanks (gWith (shardAt true 7 0)) (shardAt true 7 0) ∧ (heldShards g9 true = []) := by decide +kernel
/-- Module 7 holds a node of a group whose operation runs here; and the group once it is lost. -/
def gFar : Group := { gRed {} with record := { (gRed {}).record with nodes := (gRed {}).record.nodes ++ [{ moduleId := 7, level := 2, slotLevel := 1, index := 0 }] } }
def tFar : State := { tCourse pairedCourse with groups := [gFar], host := { (tCourse pairedCourse).host with outstanding := [tok1] } }
theorem test_faults : uSubject (body 6 7 0 0 0) % 2048 = 7 ∧ 7 ∈ coreModules gFar.record ∧ gFar.phase = .active ∧ isGone tFar 7 = false ∧
    tFar.course.otherLost.contains tFar.partnerLabel = false ∧ laneHears tFar 5 = true ∧ gFar.pauseToks = [] ∧ (opOf (dRed 5)).again = false ∧
    (nextOr t0 (exec (.moduleLost 5 (body 6 7 0 0 0)) tFar)).host.outstanding = [] ∧
    (match findGroup (nextOr t0 (exec (.moduleLost 5 (body 6 7 0 0 0)) tFar)) 9 with | some g => g.phase | none => .casting) = .faulted := by decide +kernel
def gFaulted : Group := { g9 with phase := .faulted }
theorem test_faulted : findGroup (tGroup [gFaulted]) 9 = some gFaulted ∧ Taken (tGroup [gFaulted]) 0 (dRed 5) 0x12 ∧ Taken (tGroup [gFaulted]) 0 (dGrp 0x13 []) 0x13 ∧
    Taken (tGroup [gFaulted]) 0 (dSec 0x22) 0x22 ∧ Taken (tGroup [gFaulted]) 0 dSign 0x1A ∧ Taken (tGroup [gFaulted]) 0 (dRoll 7) 0x18 := by unfold Taken; decide +kernel
/-- An error in hank 5, of a shard owned here, with no step, and with one whose chunk is not applied. -/
theorem test_hank_of_shard : hankState (tCourseWith (shardAt true 7 0)) 5 = .shard ∧
    ((gWith (shardAt true 7 0)).shards.find? fun y => (stateHanks (gWith (shardAt true 7 0)) y).contains 5) = some (shardAt true 7 0) ∧
    (gWith (shardAt true 7 0)).ops = [] ∧ (gApply []).ops = [opOf dStep8] ∧ (opOf dStep8).committed = none ∧
    (gApply []).shards.find? (·.index == 0) = some (shardAt true 7 0) ∧
    (∃ sh ∈ ({ gApply [] with shards := [{ shardAt true 7 0 with lost := true }] } : Group).shards, some sh.index = apply1.shard ∧ sh.lost = true) := by decide +kernel
/-- A running REDUCE whose slot lies in staging hank 5, with the hank whole and lost; an error in another hank. -/
def gStaged : Group := { gPair .running with staging := [5] }
def tStaged (l : List (Nat × HankState)) : State :=
  let s := tBed { running := some (stitch1, 0) } [gStaged]
  { s with skein := { s.skein with hanks := l } }
theorem test_lost_staging : gStaged.staging ≠ [] ∧ (∀ k ∈ gStaged.reserved, k = 0) ∧ readsLost (tStaged [(5, .retired)]) gStaged (opOf dPair) stitch1 = true ∧
    readsLost (tStaged [(6, .retired)]) gStaged (opOf dPair) stitch1 = false ∧ hankState (tStaged []) 5 ≠ .firmware ∧ lostApply (tStaged [(5, .retired)]) = none ∧
    instAt gStaged (0, none) = some (instPair .running) ∧ (∀ y ∈ (tStaged []).groups, ∀ sh ∈ y.shards, 5 ∉ stateHanks y sh) ∧ (tStaged []).bed.void = false := by decide +kernel
/-- Draining with a shard owned here. -/
theorem test_drains_owner : (∃ g ∈ (tCourseWith (shardAt true 7 0)).groups, heldShards g true ≠ []) ∧ Taken (tCourseWith (shardAt true 7 0)) 0 (dPlain 0x2B) 0x2B ∧
    riskLevel (tCourse pairedCourse) 2 ≤ (tCourse { pairedCourse with risk := 255 }).course.risk.toNat := by unfold Taken; decide +kernel

/-! ## The whole machine -/

theorem test_front : ({ t0 with pending := [.stitchDispatch] } : State).pending = .stitchDispatch :: [] := by decide +kernel
theorem test_command_answers : Answers (exec .stitchDispatch t0) fun _ => True := ⟨_, rfl, trivial⟩
theorem test_memory_wf : MemWf tCopy ∧ tCopy.skein.mem ≠ [] := by decide +kernel
theorem test_slots_add_up : SlotsAddUp t0 := by unfold SlotsAddUp; decide +kernel
/-- One tick of an idle module whose firmware does not run. -/
theorem test_idle_tick : (match step (tLife .inReset) with | .next t => t.clock.now | _ => 0) = 2000000001 := by decide +kernel

end Sys2Proof.Tests
end

section
/-!
PROOFS. The fixed-order tree (R79) and the reduction of a chunk by it (R82): ⌈log2 w⌉ and where it splits a range, the
equations of `combine`, the values `reduceChunk` gives to a group with fixed order.
-/
namespace Sys2Proof.Machine

/-! ### Where a range is split -/

theorem ceilLog2_le_iff (w k : Nat) : ceilLog2 w ≤ k ↔ w ≤ 2 ^ k := by
  have hpos : 1 ≤ 2 ^ k := Nat.one_le_two_pow
  rw [ceilLog2]
  split
  · omega
  · rw [Nat.add_one_le_iff, Nat.log2_lt (by omega)]
    omega

theorem ceilLog2_eq_clog (w : Nat) : ceilLog2 w = Nat.clog 2 w :=
  eq_of_forall_ge_iff fun k => (ceilLog2_le_iff w k).trans (Nat.clog_le_iff_le_pow Nat.one_lt_two).symm

theorem splitPoint_lt {w : Nat} (hw : 2 ≤ w) : 2 ^ (ceilLog2 w - 1) < w := by
  rw [ceilLog2_eq_clog]
  exact Nat.pow_pred_clog_lt_self Nat.one_lt_two hw

theorem le_two_mul_splitPoint {w : Nat} (hw : 2 ≤ w) : w ≤ 2 * 2 ^ (ceilLog2 w - 1) := by
  have hpos : 0 < Nat.clog 2 w := Nat.clog_pos Nat.one_lt_two hw
  rw [ceilLog2_eq_clog, Nat.mul_comm, Nat.pow_pred_mul hpos]
  exact Nat.le_pow_clog Nat.one_lt_two w

/-- The power of two that a range is split at is the only one below its width and at least half of it. -/
theorem splitPoint_eq {w k : Nat} (hlo : 2 ^ k < w) (hhi : w ≤ 2 * 2 ^ k) : 2 ^ (ceilLog2 w - 1) = 2 ^ k := by
  have hle : ceilLog2 w ≤ k + 1 := (ceilLog2_le_iff w (k + 1)).2 (by omega)
  have hgt : ¬ ceilLog2 w ≤ k := by simpa [ceilLog2_le_iff] using hlo
  rw [show ceilLog2 w - 1 = k by omega]

/-! ### The equations of `combine` -/

section
variable {α : Type} [Inhabited α] (f : α → α → α × Flags)

/-- An inner vertex of the tree: the operator on the values of its two parts, with the flags of both and its own. -/
def joinParts (a b : α × Flags) : α × Flags := ((f a.1 b.1).1, a.2 ||| b.2 ||| (f a.1 b.1).2)

theorem combineFuel_succ (k : Nat) {xs : List α} (h : 2 ≤ xs.length) :
    combineFuel f (k + 1) xs =
      joinParts f (combineFuel f k (xs.take (2 ^ (ceilLog2 xs.length - 1))))
        (combineFuel f k (xs.drop (2 ^ (ceilLog2 xs.length - 1)))) := by
  rw [combineFuel, if_neg (by omega)]
  rfl

theorem combineFuel_of_length_le_one (k : Nat) {xs : List α} (h : xs.length ≤ 1) :
    combineFuel f k xs = (xs.headD default, fNone) := by
  cases k with
  | zero => rfl
  | succ k => rw [combineFuel, if_pos h]

/-- Both parts of a split are shorter than the range, so a depth of the range's length is enough. -/
theorem combineFuel_eq_of_length_le {k m : Nat} {xs : List α} (hk : xs.length ≤ k) (hm : xs.length ≤ m) :
    combineFuel f k xs = combineFuel f m xs := by
  induction k generalizing m xs with
  | zero => simp only [combineFuel_of_length_le_one f _ (show xs.length ≤ 1 by omega)]
  | succ k ih =>
    by_cases h : xs.length ≤ 1
    · simp only [combineFuel_of_length_le_one f _ h]
    · obtain ⟨m, rfl⟩ : ∃ n, m = n + 1 := ⟨m - 1, by omega⟩
      have hlt := splitPoint_lt (show 2 ≤ xs.length by omega)
      have hpos : 0 < 2 ^ (ceilLog2 xs.length - 1) := Nat.two_pow_pos _
      rw [combineFuel_succ f k (by omega), combineFuel_succ f m (by omega)]
      congr 1
      · apply ih <;> rw [List.length_take] <;> omega
      · apply ih <;> rw [List.length_drop] <;> omega

theorem combineFuel_eq_combine {k : Nat} {xs : List α} (hk : xs.length ≤ k) : combineFuel f k xs = combine f xs :=
  combineFuel_eq_of_length_le f hk le_rfl

@[simp] theorem combine_singleton (x : α) : combine f [x] = (x, fNone) :=
  combineFuel_of_length_le_one f 1 le_rfl

/-- R79: a range of two or more operands is split, and each part is combined by the same rule. -/
theorem combine_split {xs : List α} (h : 2 ≤ xs.length) :
    combine f xs = joinParts f (combine f (xs.take (2 ^ (ceilLog2 xs.length - 1))))
      (combine f (xs.drop (2 ^ (ceilLog2 xs.length - 1)))) := by
  have htake := (List.take_sublist (2 ^ (ceilLog2 xs.length - 1)) xs).length_le
  have hdrop := (List.drop_sublist (2 ^ (ceilLog2 xs.length - 1)) xs).length_le
  rw [← combineFuel_eq_combine f (Nat.le_succ xs.length), combineFuel_succ f _ h, combineFuel_eq_combine f htake,
    combineFuel_eq_combine f hdrop]

theorem combine_split_fst {xs : List α} (h : 2 ≤ xs.length) :
    (combine f xs).1 = (f (combine f (xs.take (2 ^ (ceilLog2 xs.length - 1)))).1
      (combine f (xs.drop (2 ^ (ceilLog2 xs.length - 1)))).1).1 := by
  rw [combine_split f h, joinParts]

/-- A left part of 2^k operands with at most as many to its right is one side of the split. -/
theorem combine_append {xs ys : List α} (k : Nat) (hxs : xs.length = 2 ^ k) (hpos : 1 ≤ ys.length)
    (hys : ys.length ≤ 2 ^ k) : combine f (xs ++ ys) = joinParts f (combine f xs) (combine f ys) := by
  have hmid : 2 ^ (ceilLog2 (xs ++ ys).length - 1) = 2 ^ k :=
    splitPoint_eq (by simp; omega) (by simp; omega)
  have htwo : 2 ≤ (xs ++ ys).length := by
    have := Nat.two_pow_pos k
    simp
    omega
  rw [combine_split f htwo, hmid, ← hxs, List.take_left, List.drop_left]

theorem combine_pair (a b : α) : combine f [a, b] = joinParts f (a, fNone) (b, fNone) := by
  simpa using combine_append f (xs := [a]) (ys := [b]) 0 rfl le_rfl le_rfl

theorem combine_four (a b c d : α) : combine f [a, b, c, d] = joinParts f (combine f [a, b]) (combine f [c, d]) :=
  combine_append f (xs := [a, b]) (ys := [c, d]) 1 rfl (by simp) le_rfl

theorem combine_five_fst (a b c d e : α) :
    (combine f [a, b, c, d, e]).1 = (f (f (f a b).1 (f c d).1).1 e).1 := by
  have h := combine_append f (xs := [a, b, c, d]) (ys := [e]) 2 rfl le_rfl (by simp)
  simpa [combine_four, combine_pair, joinParts] using congrArg Prod.fst h

theorem combine_six_fst (a b c d e g : α) :
    (combine f [a, b, c, d, e, g]).1 = (f (f (f a b).1 (f c d).1).1 (f e g).1).1 := by
  have h := combine_append f (xs := [a, b, c, d]) (ys := [e, g]) 2 rfl (by simp) (by simp)
  simpa [combine_four, combine_pair, joinParts] using congrArg Prod.fst h

end

/-! ### The reduction of a chunk -/

/-- The working values of a slot of a node, as `reduceChunk` reads them: contributions decoded, partials as they stand. -/
def slotValues (g : Group) (op : Op) (i : Inst) (x : Ctx) (k : Nat) : List WVal :=
  if (nodeAt g.record i.node).slotLevel = 0 then
    (decodeWorking (slotSpec g.record op i) true (dRowLen op.desc) (chunkFirst g.record op x.chunk)
      (chunkLen g.record op x.chunk) (slotBytes (x.slots.getD k {}))).1
  else rawWorking g.record.workFmt (chunkLen g.record op x.chunk) (slotBytes (x.slots.getD k {}))

/-- R79, R82: with fixed order each element is `combine` over the slots' values in slot order. -/
theorem reduceChunk_fst_of_fixed_order (img : Image) {g : Group} (op : Op) (i : Inst) (x : Ctx) (time : Nat)
    (hfix : g.record.arrival = false) :
    (reduceChunk img g op i x time).1 =
      packWorking g.record.workFmt ((List.range (chunkLen g.record op x.chunk)).map fun j =>
        (combine (reduceOp img g.record.workFmt
            (phaseIn g op time (chunkFirst g.record op x.chunk) [0, 0, 0, 0]) (chunkFirst g.record op x.chunk + j))
          ((List.range x.slots.length).map fun k => (slotValues g op i x k).getD j [])).1) := by
  by_cases hleaf : (nodeAt g.record i.node).slotLevel = 0 <;>
    simp [reduceChunk, slotValues, hfix, hleaf, Function.comp_def]

theorem reduceChunk_order_of_fixed_order (img : Image) {g : Group} (op : Op) (i : Inst) (x : Ctx) (time : Nat)
    (order : List (Nat × Nat)) (hfix : g.record.arrival = false) :
    reduceChunk img g op i { x with order := order } time = reduceChunk img g op i x time := by
  simp only [reduceChunk, hfix, Bool.false_eq_true, if_false]

/-- Settles O44: the split of R79 by `combine_append` and `combine_split`, whatever the operator; the reduction of a chunk
by it, in slot order, from the equations of `reduceChunk` for a group with fixed order. -/
theorem reductionTreeIsFixed : Obligations.ReductionTreeIsFixed := by
  unfold Obligations.ReductionTreeIsFixed
  refine ⟨?append, ?single, ?split, ?examples, ?chunk, ?order⟩
  case append => exact fun α _ f xs ys k hxs hpos hys => combine_append f k hxs hpos hys
  case single => exact fun α _ f x => combine_singleton f x
  case split =>
    exact fun α _ f xs h => ⟨splitPoint_lt h, le_two_mul_splitPoint h, combine_split_fst f h⟩
  case examples => exact fun α _ f a b c d e g => ⟨combine_five_fst f a b c d e, combine_six_fst f a b c d e g⟩
  case chunk => exact fun img g op i x time hfix => reduceChunk_fst_of_fixed_order img op i x time hfix
  case order => exact fun img g op i x time order hfix => reduceChunk_order_of_fixed_order img op i x time order hfix

end Sys2Proof.Machine
end

section
/-!
PROOFS. The twist rule (R238): the bits in which a neighbour differs, from which it is mutual and each dimension names a
neighbour of its own.
-/
namespace Sys2Proof.Machine

/-- A field of one bit is that bit. -/
theorem bits_single (v i : Nat) : bits v i i = (v.testBit i).toNat := by
  rw [Nat.toNat_testBit, bits, Nat.shiftRight_eq_div_pow, Nat.add_sub_cancel_left, pow_one]

/-! ### The equations of `neighbour` -/

theorem neighbour_of_untwisted (x : Nat) {k d : Nat} (h : ¬ (1 ≤ k ∧ k + 2 ≤ d - 1)) :
    neighbour x k d = x ^^^ (1 <<< k) := by
  rw [neighbour, if_neg h]

theorem neighbour_of_twisted (x : Nat) {k d : Nat} (h : 1 ≤ k ∧ k + 2 ≤ d - 1) :
    neighbour x k d = x ^^^ (1 <<< k) ^^^ (bits x (k + 1) (k + 1) <<< (k + 2)) := by
  rw [neighbour, if_pos h]

/-! ### The bits of a neighbour -/

/-- Bit k changes; bit k + 2 changes in a twisted dimension where bit k + 1 is set. -/
theorem testBit_neighbour (x k d i : Nat) :
    (neighbour x k d).testBit i =
      (x.testBit i ^^ (decide (i = k) ^^ (decide (i = k + 2 ∧ 1 ≤ k ∧ k + 2 ≤ d - 1) && x.testBit (k + 1)))) := by
  by_cases h : 1 ≤ k ∧ k + 2 ≤ d - 1
  · rw [neighbour_of_twisted x h, bits_single]
    cases x.testBit (k + 1) <;> simp [h, Nat.one_shiftLeft, Nat.testBit_two_pow, eq_comm]
  · rw [neighbour_of_untwisted x h]
    simp [h, Nat.one_shiftLeft, Nat.testBit_two_pow, eq_comm]

/-- The bit that decides the twist stays. -/
theorem testBit_neighbour_succ (x k d : Nat) : (neighbour x k d).testBit (k + 1) = x.testBit (k + 1) := by
  simp [testBit_neighbour]

theorem testBit_neighbour_self (x k d : Nat) : (neighbour x k d).testBit k = !x.testBit k := by
  simp [testBit_neighbour]

theorem testBit_neighbour_of_lt (x d : Nat) {i k : Nat} (h : i < k) : (neighbour x k d).testBit i = x.testBit i := by
  have hk : i ≠ k := by omega
  have hk2 : i ≠ k + 2 := by omega
  simp [testBit_neighbour, hk, hk2]

/-! ### Mutual and distinct -/

/-- As the bit that decides the twist stays, the second crossing changes the same bits back. -/
theorem neighbour_neighbour (x k d : Nat) : neighbour (neighbour x k d) k d = x := by
  refine Nat.eq_of_testBit_eq fun i => ?_
  rw [testBit_neighbour, testBit_neighbour_succ, testBit_neighbour x k d i, Bool.xor_assoc, Bool.xor_self, Bool.xor_false]

/-- Crossing the lower of two dimensions changes its bit, which crossing the higher one leaves. -/
theorem neighbour_ne_of_lt (x d : Nat) {j k : Nat} (h : j < k) : neighbour x j d ≠ neighbour x k d := by
  intro heq
  have hbit := congrArg (Nat.testBit · j) heq
  simp [testBit_neighbour_self, testBit_neighbour_of_lt x d h] at hbit

theorem neighbour_injective_dim (x d : Nat) : Function.Injective fun k => neighbour x k d := by
  intro j k heq
  rcases lt_trichotomy j k with hlt | hjk | hgt
  · exact absurd heq (neighbour_ne_of_lt x d hlt)
  · exact hjk
  · exact absurd heq.symm (neighbour_ne_of_lt x d hgt)

/-- Settles O41: the two equations of `neighbour`, and the rest from the bits in which a neighbour differs. -/
theorem twistIsMutual : Obligations.TwistIsMutual := by
  unfold Obligations.TwistIsMutual
  refine ⟨?untwisted, ?twisted, ?plain, ?decider, ?involution, ?distinct⟩
  case untwisted => exact fun x k d h => neighbour_of_untwisted x (by omega)
  case twisted => exact fun x k d hk hd => neighbour_of_twisted x ⟨hk, hd⟩
  case plain => exact fun x k d hd => neighbour_of_untwisted x (by omega)
  case decider => exact testBit_neighbour_succ
  case involution => exact neighbour_neighbour
  case distinct => exact fun x j k d heq => neighbour_injective_dim x d heq

end Sys2Proof.Machine
end

section
/-!
PROOFS. Course set-up (R323 to R325): what the COURSE frame puts on the partner's lanes, the equations of the decision
between the two feeds, and those of COURSE_SETUP, of the partner's frame and of the repetition.
-/
namespace Sys2Proof.Machine

variable {s t : State}

/-! ### What the configuration gives -/

theorem ownFeed_congr (h : t.course.cfg = s.course.cfg) : ownFeed t = ownFeed s := by rw [ownFeed, h, ownFeed]

theorem ownOverride_congr (h : t.course.cfg = s.course.cfg) : ownOverride t = ownOverride s := by
  rw [ownOverride, h, ownOverride]

@[simp] theorem ownFeed_takeDesc {n : Nat} {d : Desc} : ownFeed (takeDesc n d s) = ownFeed s :=
  ownFeed_congr (congrArg Course.cfg takeDesc_course)

@[simp] theorem ownOverride_takeDesc {n : Nat} {d : Desc} : ownOverride (takeDesc n d s) = ownOverride s :=
  ownOverride_congr (congrArg Course.cfg takeDesc_course)

/-! ### What a frame to the partner reads -/

theorem partnerLanes_congr (h : t.drones = s.drones) : partnerLanes t = partnerLanes s := by
  simp only [partnerLanes, upLanes, getDrone, h]

theorem droneDrives_congr (hflash : t.flash = s.flash) (hboot : t.boot = s.boot) (hclock : t.clock = s.clock) :
    droneDrives t = droneDrives s := by
  funext m
  have hexists : droneExists t m = droneExists s m := by
    rw [droneExists, State.config, hflash, droneExists, State.config]
  have hbridge (b : Nat) : bridgeDrives t b = bridgeDrives s b := by rw [bridgeDrives, hboot, hclock, bridgeDrives]
  rw [droneDrives, hexists, hbridge, droneDrives]

theorem label_congr (h : t.routing = s.routing) : t.label = s.label := by rw [State.label, h, State.label]

theorem frameBody_congr (subject cause arg : Nat) (hrouting : t.routing = s.routing) (hclock : t.clock = s.clock)
    (hno : t.course.noticeNo = s.course.noticeNo) : frameBody t subject cause arg = frameBody s subject cause arg := by
  simp only [frameBody, fabricTime, label_congr hrouting, hclock, hno]

/-! ### What sending a frame does -/

theorem forEach_droneSend_drone (f : DroneOut) (lanes : List Nat) (s : State) :
    (forEach lanes (fun m => droneSend m f) s).out.drone = s.out.drone ++ lanes.map fun m => (m, f) := by
  induction lanes generalizing s with
  | nil => simp [forEach]
  | cons m lanes ih => exact (ih (droneSend m f s)).trans (by simp [droneSend])

@[simp] theorem sendUrgent_course {lanes : List Nat} {ftype : Nat} {b : BitVec 192} :
    (sendUrgent lanes ftype b s).course = s.course :=
  sendUrgent_keeps (free_changesOnly [.drones, .out] s) (ChangesOnly.refl _ _) .course (by decide)

/-- The COURSE frame goes out on every lane to the partner that is UP and drives. -/
theorem sendCourse_drone (s : State) :
    (sendCourse s).out.drone = s.out.drone ++ ((partnerLanes s).filter (droneDrives s)).map fun m =>
      (m, .urgent 0x18 (frameBody s s.label (b2n (ownOverride s)) (ownFeed s))) :=
  forEach_droneSend_drone _ _ _

/-- The time of the frame is kept and the count of frames moves on. -/
theorem sendCourse_course (s : State) :
    (sendCourse s).course =
      { s.course with setupAt := some s.clock.now, noticeNo := s.course.noticeNo + 1 } := by
  simp [sendCourse, toPartner, nextNotice]

/-! ### The completion of a waiting COURSE_SETUP -/

theorem setupDone_of_waiting {status : Nat} {tok : Tok} (h : s.course.setupTok = some tok) :
    setupDone status s = complete tok status 0 0 [] { s with course := { s.course with setupTok := none } } := by
  rw [setupDone, h]

theorem setupDone_of_none {status : Nat} (h : s.course.setupTok = none) : setupDone status s = s := by
  rw [setupDone, h]

theorem setupDone_course (status : Nat) (s : State) :
    (setupDone status s).course = { s.course with setupTok := none } := by
  cases h : s.course.setupTok with
  | some tok => rw [setupDone_of_waiting h, complete_course]
  | none => rw [setupDone_of_none h, ← h]

/-! ### The decision (R325) -/

theorem decideCourse_of_no_partner (h : s.course.partner = none) : decideCourse s = s := by
  rw [decideCourse, h]

theorem decideCourse_of_not_fixed (h : s.course.fixed = false) : decideCourse s = s := by
  unfold decideCourse
  split <;> simp [h]

section
variable {feed : BitVec 16} {ov : Bool} (hp : s.course.partner = some (feed, ov)) (hf : s.course.fixed = true)
  (hu : s.course.state = .unset)
include hp hf hu

theorem decideCourse_of_feeds_differ (hne : feed.toNat ≠ ownFeed s) :
    decideCourse s = setupDone stOK
      (postEvent 0x0009 1 s.partnerLabel [] { s with course := { s.course with state := .paired } }) := by
  simp [decideCourse, hp, hf, hu, hne]

theorem decideCourse_of_override (heq : feed.toNat = ownFeed s) (ho : ov = true ∨ ownOverride s = true) :
    decideCourse s = setupDone stOK (postEvent 0x0009 2 s.partnerLabel [] { s with course :=
      { s.course with state := .paired, overrides := satInc s.course.overrides } }) := by
  simp [decideCourse, hp, hf, hu, heq, ho]

theorem decideCourse_of_feed_shared (heq : feed.toNat = ownFeed s) (ho : ov = false) (hown : ownOverride s = false) :
    decideCourse s = setupDone stFeedShared { s with course := { s.course with state := .refused } } := by
  simp [decideCourse, hp, hf, hu, heq, ho, hown]

/-- The decision ends the wait of COURSE_SETUP: PAIRED where the feeds differ or an override accepts them, else
REFUSED. -/
theorem decideCourse_course :
    (decideCourse s).course.fixed = true ∧ (decideCourse s).course.setupTok = none ∧
      (decideCourse s).course.state = (if feed.toNat ≠ ownFeed s then .paired
        else if ov = true ∨ ownOverride s = true then .paired else .refused) := by
  by_cases heq : feed.toNat = ownFeed s
  · by_cases ho : ov = true ∨ ownOverride s = true
    · rw [decideCourse_of_override hp hf hu heq ho]
      simp [setupDone_course, hf, heq, ho]
    · obtain ⟨hov, hown⟩ : ov = false ∧ ownOverride s = false := by simpa using ho
      rw [decideCourse_of_feed_shared hp hf hu heq hov hown]
      simp [setupDone_course, hf, heq, hov, hown]
  · rw [decideCourse_of_feeds_differ hp hf hu heq]
    simp [setupDone_course, hf, heq]

end

/-! ### COURSE_SETUP (R324) -/

/-- The state of an accepted COURSE_SETUP before its frame: the configuration is fixed, the command waits. -/
def acceptCourse (tok : Tok) (s : State) : State :=
  { s with course := { s.course with
    fixed := true, setupTok := some tok
    leadNow := some (s.course.leadNow.getD (BitVec.ofNat 11 (bits s.course.cfg.toNat 26 16))) } }

theorem courseSetup_of_fixed {tok : Tok} (h : s.course.fixed = true) : courseSetup tok s = bad tok dtState s := by
  rw [courseSetup, if_pos h]

theorem courseSetup_of_no_feed {tok : Tok} (h : s.course.fixed = false) (h0 : ownFeed s = 0) :
    courseSetup tok s = bad tok dtRange s := by
  simp [courseSetup, h, h0]

theorem courseSetup_of_accepted {tok : Tok} (h : s.course.fixed = false) (h0 : ownFeed s ≠ 0) :
    courseSetup tok s = decideCourse (sendCourse (acceptCourse tok s)) := by
  simp [courseSetup, acceptCourse, h, h0]

theorem exec_courseSetup {sq : BitVec 8} {d : Desc} (h : Taken s sq d 0x28) (hr : dRsvdOk d [] = true) :
    exec (.courseSetup sq d) s = .next (courseSetup (tokOf s sq d) (takeDesc sq.toNat d s)) := by
  change execCourseSetup sq d s = _
  rw [execCourseSetup, runCommand_taken h, if_pos hr]

theorem exec_courseSetup_of_fixed {sq : BitVec 8} {d : Desc} (h : Taken s sq d 0x28) (hr : dRsvdOk d [] = true)
    (hf : s.course.fixed = true) :
    exec (.courseSetup sq d) s = .next (bad (tokOf s sq d) dtState (takeDesc sq.toNat d s)) := by
  rw [exec_courseSetup h hr, courseSetup_of_fixed (by rwa [takeDesc_course])]

theorem exec_courseSetup_of_no_feed {sq : BitVec 8} {d : Desc} (h : Taken s sq d 0x28) (hr : dRsvdOk d [] = true)
    (hf : s.course.fixed = false) (h0 : ownFeed s = 0) :
    exec (.courseSetup sq d) s = .next (bad (tokOf s sq d) dtRange (takeDesc sq.toNat d s)) := by
  rw [exec_courseSetup h hr, courseSetup_of_no_feed (by rwa [takeDesc_course]) (by rwa [ownFeed_takeDesc])]

theorem exec_courseSetup_of_accepted {sq : BitVec 8} {d : Desc} (h : Taken s sq d 0x28) (hr : dRsvdOk d [] = true)
    (hf : s.course.fixed = false) (h0 : ownFeed s ≠ 0) :
    exec (.courseSetup sq d) s =
      .next (decideCourse (sendCourse (acceptCourse (tokOf s sq d) (takeDesc sq.toNat d s)))) := by
  rw [exec_courseSetup h hr, courseSetup_of_accepted (by rwa [takeDesc_course]) (by rwa [ownFeed_takeDesc])]

/-- The frame of an accepted COURSE_SETUP is that of the state in which the command was taken. -/
theorem sendCourse_acceptCourse_drone (tok : Tok) (n : Nat) (d : Desc) (s : State) :
    (sendCourse (acceptCourse tok (takeDesc n d s))).out.drone =
      s.out.drone ++ ((partnerLanes s).filter (droneDrives s)).map fun m =>
        (m, .urgent 0x18 (frameBody s s.label (b2n (ownOverride s)) (ownFeed s))) := by
  let u := acceptCourse tok (takeDesc n d s)
  have hout : u.out = s.out := takeDesc_out
  have hlanes : partnerLanes u = partnerLanes s := partnerLanes_congr takeDesc_drones
  have hdrives : droneDrives u = droneDrives s := droneDrives_congr takeDesc_flash takeDesc_boot takeDesc_clock
  have hlabel : u.label = s.label := label_congr takeDesc_routing
  have hover : ownOverride u = ownOverride s := ownOverride_takeDesc
  have hfeed : ownFeed u = ownFeed s := ownFeed_takeDesc
  have hno : u.course.noticeNo = s.course.noticeNo := by simp [u, acceptCourse]
  have hbody (subject cause arg : Nat) : frameBody u subject cause arg = frameBody s subject cause arg :=
    frameBody_congr subject cause arg takeDesc_routing takeDesc_clock hno
  rw [sendCourse_drone u, hout, hlanes, hdrives, hlabel, hover, hfeed, hbody]

/-- The course of an accepted COURSE_SETUP once its frame is sent. -/
theorem sendCourse_acceptCourse_course (tok : Tok) (n : Nat) (d : Desc) (s : State) :
    (sendCourse (acceptCourse tok (takeDesc n d s))).course = { s.course with
      fixed := true, setupTok := some tok, setupAt := some s.clock.now, noticeNo := s.course.noticeNo + 1
      leadNow := some (s.course.leadNow.getD (BitVec.ofNat 11 (bits s.course.cfg.toNat 26 16))) } := by
  simp [sendCourse_course, acceptCourse]

/-! ### The partner's frame and the repetition (R324, R325) -/

/-- The state with the feed and the override of a partner's frame noted. -/
def noteFeed (b : BitVec 192) (s : State) : State :=
  { s with course := { s.course with partner := some (BitVec.ofNat 16 (uArg b), bit (uCause b) 0) } }

section
variable {m : BitVec 5} {b : BitVec 192}

theorem exec_course (hl : laneHears s m.toNat = true) (hd : deDim (getDrone s m.toNat) = 0) :
    exec (.course m b) s = .next (hearCourse m.toNat b s) := by
  change execCourse m b s = _
  simp [execCourse, hearPartner, hl, hd]

theorem hearCourse_first {lane : Nat} (h : s.course.partner = none) :
    hearCourse lane b s = decideCourse (noteFeed b s) := by
  rw [hearCourse, h, noteFeed]

theorem hearCourse_same_feed {lane : Nat} {ov : Bool} (h : s.course.partner = some (BitVec.ofNat 16 (uArg b), ov)) :
    hearCourse lane b s = s := by
  simp [hearCourse, h]

theorem hearCourse_other_feed {lane : Nat} {old : BitVec 16} {ov : Bool} (h : s.course.partner = some (old, ov))
    (hne : old ≠ BitVec.ofNat 16 (uArg b)) : hearCourse lane b s = quarantineLane lane 0x0A s := by
  simp [hearCourse, h, hne]

end

theorem courseRepeat_of_due {at0 : Nat} (h : s.course.setupAt = some at0) (hp : s.course.partner = none)
    (hdue : 125000 ≤ s.clock.now - at0) : courseRepeat s = sendCourse s := by
  simp [courseRepeat, h, hp, since, hdue]

theorem courseRepeat_of_not_due {at0 : Nat} (h : s.course.setupAt = some at0) (hp : s.course.partner = none)
    (hdue : s.clock.now - at0 < 125000) : courseRepeat s = s := by
  simp [courseRepeat, h, hp, since, hdue]

/-- Settles O51: COURSE_SETUP by its equations and the course its frame leaves; the partner's frame by the equations of the
decision, with the frame's feed noted in the state. -/
theorem courseSetupDecides : Obligations.CourseSetupDecides := by
  unfold Obligations.CourseSetupDecides
  refine ⟨?setup, ?early, ?frame, ?again⟩
  case setup =>
    intro s sq d u t0 ht hr
    refine ⟨fun hf => exec_courseSetup_of_fixed ht hr hf, fun hf h0 => exec_courseSetup_of_no_feed ht hr hf h0,
      fun hf h0 hp => ⟨_, exec_courseSetup_of_accepted ht hr hf h0, ?_⟩⟩
    have hcourse := sendCourse_acceptCourse_course t0 sq.toNat d s
    rw [decideCourse_of_no_partner (by rw [hcourse]; exact hp)]
    refine ⟨?_, ?_, ?_, ?_, sendCourse_acceptCourse_drone t0 sq.toNat d s⟩ <;> rw [hcourse]
  case early =>
    intro s sq d feed ov ht hr hf h0 hu hp
    refine ⟨_, exec_courseSetup_of_accepted ht hr hf h0, ?_⟩
    have hcourse := sendCourse_acceptCourse_course (tokOf s sq d) sq.toNat d s
    have hcfg : (sendCourse (acceptCourse (tokOf s sq d) (takeDesc sq.toNat d s))).course.cfg = s.course.cfg := by
      rw [hcourse]
    have hdec := decideCourse_course (by rw [hcourse]; exact hp) (by rw [hcourse]) (by rw [hcourse]; exact hu)
    rwa [ownFeed_congr hcfg, ownOverride_congr hcfg] at hdec
  case frame =>
    intro s m b hl hd feed u done
    rw [exec_course hl hd]
    have hnoted : (noteFeed b s).course.partner = some (feed, bit (uCause b) 0) := rfl
    have hdone (status : Nat) (x : State) (hx : x.course.setupTok = s.course.setupTok) :
        setupDone status x = done status x := by
      cases htok : s.course.setupTok with
      | some tok => simp only [setupDone_of_waiting (hx.trans htok), done, htok]
      | none => simp only [setupDone_of_none (hx.trans htok), done, htok]
    refine ⟨fun hp hf => ?unfixed,
      fun hp hf hun => ⟨fun hne => ?differ, fun heq ho => ?override, fun heq ho hown => ?shared⟩,
      fun old ov hp => ⟨fun hne => ?changed, fun heq => ?same⟩⟩
    case unfixed =>
      rw [hearCourse_first hp, decideCourse_of_not_fixed (s := noteFeed b s) hf]
      rfl
    case differ =>
      rw [hearCourse_first hp, decideCourse_of_feeds_differ hnoted hf hun hne]
      exact congrArg _ (hdone _ _ (by rw [postEvent_course]; rfl))
    case override =>
      rw [hearCourse_first hp, decideCourse_of_override hnoted hf hun heq ho]
      exact congrArg _ (hdone _ _ (by rw [postEvent_course]; rfl))
    case shared =>
      rw [hearCourse_first hp, decideCourse_of_feed_shared hnoted hf hun heq ho hown]
      exact congrArg _ (hdone _ _ rfl)
    case changed => rw [hearCourse_other_feed hp hne]
    case same => rw [hearCourse_same_feed (heq ▸ hp)]
  case again =>
    intro s at0 h hp
    exact ⟨fun hdue => congrArg _ (courseRepeat_of_due h hp hdue),
      fun hdue => congrArg _ (courseRepeat_of_not_due h hp hdue)⟩

end Sys2Proof.Machine
end

section
/-!
PROOFS. SHARD_READ, SHARD_WRITE and STEP_RECORD_READ (R187, R407, R408): a write to an array byte by byte, the elements of
an FP32 array as its bytes, the order in which the entries of a step record are placed, and the three commands.
-/
namespace Sys2Proof.Machine

variable {s t : State}

/-! ### The order of entries placed by key (R408) -/

theorem placeByKey_perm (e : Nat × List Byte) (l : List (Nat × List Byte)) : (placeByKey e l).Perm (e :: l) := by
  induction l with
  | nil => exact .refl _
  | cons x xs ih =>
    rw [placeByKey]
    split
    · exact .refl _
    · exact (ih.cons x).trans (.swap e x xs)

theorem placeByKey_pairwise (e : Nat × List Byte) {l : List (Nat × List Byte)} (h : l.Pairwise fun a b => a.1 ≤ b.1) :
    (placeByKey e l).Pairwise fun a b => a.1 ≤ b.1 := by
  induction l with
  | nil => exact List.pairwise_singleton _ e
  | cons x xs ih =>
    obtain ⟨hx, hxs⟩ := List.pairwise_cons.mp h
    rw [placeByKey]
    split
    case isTrue hlt =>
      refine List.pairwise_cons.mpr ⟨fun b hb => ?_, h⟩
      rcases List.mem_cons.mp hb with rfl | hb
      · exact hlt.le
      · exact hlt.le.trans (hx b hb)
    case isFalse hge =>
      refine List.pairwise_cons.mpr ⟨fun b hb => ?_, ih hxs⟩
      rcases List.mem_cons.mp ((placeByKey_perm e xs).mem_iff.mp hb) with rfl | hb
      · exact not_lt.mp hge
      · exact hx b hb

/-- Entries placed one after another, each by its key. -/
def placeAll (l : List (Nat × List Byte)) : List (Nat × List Byte) := l.foldl (fun l e => placeByKey e l) []

theorem placeAll_perm (l : List (Nat × List Byte)) : (placeAll l).Perm l := by
  suffices h : ∀ acc, (l.foldl (fun l e => placeByKey e l) acc).Perm (l ++ acc) by
    simpa [placeAll] using h []
  induction l with
  | nil => exact fun acc => .refl _
  | cons e l ih => exact fun acc => (ih _).trans (((placeByKey_perm e acc).append_left l).trans List.perm_middle)

theorem placeAll_pairwise (l : List (Nat × List Byte)) : (placeAll l).Pairwise fun a b => a.1 ≤ b.1 :=
  keep_foldl_any .nil fun _ e h => placeByKey_pairwise e h

theorem recordEntries_notes (y : StepRec) : recordEntries y true = (placeAll y.notes).map (·.2) := rfl

/-- A report with its key as one number: the group above the 16 bits of the owner. -/
def keyedReport (b : List Byte) : Nat × List Byte := ((reportKey b).1 * 65536 + (reportKey b).2, b)

theorem recordEntries_reports (y : StepRec) :
    recordEntries y false = (placeAll (y.reports.map keyedReport)).map (·.2) := rfl

theorem leNat_lt (bs : List Byte) : leNat bs < 256 ^ bs.length := by
  induction bs with
  | nil => exact Nat.one_pos
  | cons b bs ih =>
    have hb := b.isLt
    rw [leNat, List.length_cons, pow_succ]
    omega

@[simp] theorem slice_length (bs : List Byte) (o n : Nat) : (slice bs o n).length = n := by
  simp [slice]

theorem reportKey_owner_lt (b : List Byte) : (reportKey b).2 < 65536 := by
  simpa [reportKey, leAt] using leNat_lt (slice b 18 2)

/-- As the owner has 16 bits, reports in the order of their keys are in the order of (group, owner). -/
theorem keyedReport_le {a b : List Byte} (h : (keyedReport a).1 ≤ (keyedReport b).1) :
    (reportKey a).1 < (reportKey b).1 ∨ (reportKey a).1 = (reportKey b).1 ∧ (reportKey a).2 ≤ (reportKey b).2 := by
  have ha := reportKey_owner_lt a
  have hb := reportKey_owner_lt b
  simp only [keyedReport] at h
  omega

theorem recordEntries_reports_perm (y : StepRec) : (recordEntries y false).Perm y.reports := by
  have h := (placeAll_perm (y.reports.map keyedReport)).map (·.2)
  rwa [List.map_map, show (·.2) ∘ keyedReport = id from rfl, List.map_id] at h

theorem recordEntries_reports_pairwise (y : StepRec) :
    (recordEntries y false).Pairwise fun a b =>
      (reportKey a).1 < (reportKey b).1 ∨ (reportKey a).1 = (reportKey b).1 ∧ (reportKey a).2 ≤ (reportKey b).2 := by
  have hkeyed : ∀ e ∈ placeAll (y.reports.map keyedReport), e = keyedReport e.2 := by
    intro e he
    obtain ⟨b, -, rfl⟩ := List.mem_map.mp ((placeAll_perm _).mem_iff.mp he)
    rfl
  rw [recordEntries_reports, List.pairwise_map]
  refine (placeAll_pairwise _).imp_of_mem fun ha hb hle => keyedReport_le ?_
  rwa [← hkeyed _ ha, ← hkeyed _ hb]

/-! ### Addresses of an array's bytes (R185) -/

theorem hankAddr_div (hanks : List Nat) (o : Nat) : hankAddr hanks o / hankBytes = hanks.getD (o / hankBytes) 0 := by
  simp only [hankAddr, hankBytes]
  omega

theorem hankAddr_mod (hanks : List Nat) (o : Nat) : hankAddr hanks o % hankBytes = o % hankBytes := by
  simp only [hankAddr, hankBytes]
  omega

/-- Bytes of one hank of the array lie at rising addresses. -/
theorem hankAddr_succ (hanks : List Nat) {o : Nat} (h : o % hankBytes + 1 < hankBytes) :
    hankAddr hanks (o + 1) = hankAddr hanks o + 1 := by
  have hdiv : (o + 1) / hankBytes = o / hankBytes := by simp only [hankBytes] at h ⊢; omega
  have hmod : (o + 1) % hankBytes = o % hankBytes + 1 := by simp only [hankBytes] at h ⊢; omega
  rw [hankAddr, hankAddr, hdiv, hmod, Nat.add_assoc]

theorem hankPlace_lt {hanks : List Nat} {o : Nat} (h : o < hanks.length * hankBytes) : o / hankBytes < hanks.length :=
  Nat.div_lt_of_lt_mul (Nat.mul_comm .. ▸ h)

theorem getD_hank_mem {hanks : List Nat} {i : Nat} (h : i < hanks.length) : hanks.getD i 0 ∈ hanks := by
  rw [List.getD_eq_getElem _ _ h]
  exact List.getElem_mem h

theorem hankAddr_div_mem {hanks : List Nat} {o : Nat} (h : o < hanks.length * hankBytes) :
    hankAddr hanks o / hankBytes ∈ hanks := by
  rw [hankAddr_div]
  exact getD_hank_mem (hankPlace_lt h)

/-- An array of hanks that differ has no two bytes at one address. -/
theorem hankAddr_inj {hanks : List Nat} (hd : hanks.Nodup) {i j : Nat} (hi : i < hanks.length * hankBytes)
    (hj : j < hanks.length * hankBytes) (h : hankAddr hanks i = hankAddr hanks j) : i = j := by
  have hdiv := congrArg (· / hankBytes) h
  have hmod := congrArg (· % hankBytes) h
  simp only [hankAddr_div, hankAddr_mod] at hdiv hmod
  rw [List.getD_eq_getElem _ _ (hankPlace_lt hi), List.getD_eq_getElem _ _ (hankPlace_lt hj),
    hd.getElem_inj_iff] at hdiv
  rw [← Nat.div_add_mod i hankBytes, ← Nat.div_add_mod j hankBytes, hdiv, hmod]

/-! ### A write to an array, byte by byte -/

/-- Bytes written one by one from byte o of an array laid in these hanks. -/
def arrayPut (hanks : List Nat) : Nat → List Byte → List Host.Cell → List Host.Cell
  | _, [], m => m
  | o, b :: bs, m => arrayPut hanks (o + 1) bs (memSet m (hankAddr hanks o) b)

theorem arrayPut_append (hanks : List Nat) (xs ys : List Byte) (o : Nat) (m : List Host.Cell) :
    arrayPut hanks o (xs ++ ys) m = arrayPut hanks (o + xs.length) ys (arrayPut hanks o xs m) := by
  induction xs generalizing o m with
  | nil => rfl
  | cons b bs ih => rw [List.cons_append, arrayPut, ih, arrayPut, List.length_cons, Nat.add_assoc, Nat.add_comm 1]

/-- Within one hank it is a write at rising addresses. -/
theorem arrayPut_eq_memWrite (hanks : List Nat) {bs : List Byte} {o : Nat} (m : List Host.Cell)
    (h : o % hankBytes + bs.length ≤ hankBytes) : arrayPut hanks o bs m = memWrite m (hankAddr hanks o) bs := by
  induction bs generalizing o m with
  | nil => rfl
  | cons b bs ih =>
    rw [arrayPut, memWrite]
    cases bs with
    | nil => rfl
    | cons c bs =>
      have hnext : o % hankBytes + 1 < hankBytes := by simp only [List.length_cons] at h; omega
      have hmod : (o + 1) % hankBytes = o % hankBytes + 1 := by simp only [hankBytes] at hnext ⊢; omega
      rw [ih _ (by simp only [List.length_cons] at h ⊢; omega), hankAddr_succ hanks hnext]

theorem memGet_arrayPut {hanks : List Nat} (hd : hanks.Nodup) {bs : List Byte} {o i : Nat} (m : List Host.Cell)
    (hfit : o + bs.length ≤ hanks.length * hankBytes) (hi : i < hanks.length * hankBytes) :
    memGet (arrayPut hanks o bs m) (hankAddr hanks i) =
      if o ≤ i ∧ i < o + bs.length then bs.getD (i - o) 0 else memGet m (hankAddr hanks i) := by
  induction bs generalizing o m with
  | nil => simp [arrayPut]
  | cons b bs ih =>
    rw [List.length_cons] at hfit ⊢
    rw [arrayPut, ih _ (by omega), memGet_memSet]
    rcases lt_trichotomy i o with hlt | rfl | hgt
    · have hne : hankAddr hanks i ≠ hankAddr hanks o := fun h => by
        have := hankAddr_inj hd hi (by omega) h
        omega
      rw [if_neg (by omega), if_neg hne, if_neg (by omega)]
    · rw [if_neg (by omega), if_pos rfl, if_pos (by omega), Nat.sub_self, List.getD_cons_zero]
    · have hne : hankAddr hanks i ≠ hankAddr hanks o := fun h => by
        have := hankAddr_inj hd hi (by omega) h
        omega
      rw [if_neg hne, show i - o = i - (o + 1) + 1 by omega, List.getD_cons_succ]
      exact if_congr (by omega) rfl rfl

/-- No hank outside the array changes. -/
theorem memGet_arrayPut_of_not_mem {hanks : List Nat} {bs : List Byte} {o a : Nat} (m : List Host.Cell)
    (hfit : o + bs.length ≤ hanks.length * hankBytes) (ha : a / hankBytes ∉ hanks) :
    memGet (arrayPut hanks o bs m) a = memGet m a := by
  induction bs generalizing o m with
  | nil => rfl
  | cons b bs ih =>
    rw [List.length_cons] at hfit
    have hne : a ≠ hankAddr hanks o := fun h => ha (h ▸ hankAddr_div_mem (by omega))
    rw [arrayPut, ih _ (by omega), memGet_memSet, if_neg hne]

/-! ### Runs of bytes cut at hanks -/

theorem hankRuns_zero (k o : Nat) : hankRuns k o 0 = [] := by
  cases k <;> rfl

theorem hankRuns_succ (k o : Nat) {n : Nat} (h : n ≠ 0) :
    hankRuns (k + 1) o n =
      (o / hankBytes, o % hankBytes, min n (hankBytes - o % hankBytes)) ::
        hankRuns k (o + min n (hankBytes - o % hankBytes)) (n - min n (hankBytes - o % hankBytes)) := by
  rw [hankRuns, if_neg h]

/-- Every run lies before the end of the bytes that were cut. -/
theorem hankRuns_place_lt {k o n : Nat} {r : Nat × Nat × Nat} (h : r ∈ hankRuns k o n) : r.1 * hankBytes < o + n := by
  induction k generalizing o n with
  | zero => simp [hankRuns] at h
  | succ k ih =>
    by_cases hn : n = 0
    · simp [hn, hankRuns_zero] at h
    · rw [hankRuns_succ k o hn, List.mem_cons] at h
      rcases h with rfl | h
      · have := Nat.div_mul_le_self o hankBytes
        simp only
        omega
      · have := ih h
        omega

theorem runHanks_subset {hanks : List Nat} {o n : Nat} (hfit : o + n ≤ hanks.length * hankBytes) :
    runHanks hanks o n ⊆ hanks := by
  intro h hh
  obtain ⟨r, hr, rfl⟩ := List.mem_map.mp hh
  exact getD_hank_mem (Nat.lt_of_mul_lt_mul_right ((hankRuns_place_lt hr).trans_le hfit))

/-- One run written from the bytes that are left, as `arrayWrite` does. -/
def writeRun (hanks : List Nat) (a : List Host.Cell × List Byte) (r : Nat × Nat × Nat) : List Host.Cell × List Byte :=
  (memWrite a.1 (hanks.getD r.1 0 * hankBytes + r.2.1) (a.2.take r.2.2), a.2.drop r.2.2)

/-- With a run for every hank that the bytes reach, writing the runs is writing the bytes one by one. -/
theorem foldl_writeRun (hanks : List Nat) {k o : Nat} {bs : List Byte} (m : List Host.Cell)
    (h : bs = [] ∨ o + bs.length ≤ (o / hankBytes + k) * hankBytes) :
    ((hankRuns k o bs.length).foldl (writeRun hanks) (m, bs)).1 = arrayPut hanks o bs m := by
  induction k generalizing o bs m with
  | zero =>
    have hnil : bs = [] := h.elim id fun h => by
      have := Nat.div_mul_le_self o hankBytes
      exact List.eq_nil_of_length_eq_zero (by rw [Nat.add_zero] at h; omega)
    rw [hnil]
    rfl
  | succ k ih =>
    by_cases hnil : bs = []
    · rw [hnil]
      rfl
    · rw [hankRuns_succ k o (by simpa using hnil), List.foldl_cons]
      set n := min bs.length (hankBytes - o % hankBytes) with hn
      have hfirst : memWrite m (hanks.getD (o / hankBytes) 0 * hankBytes + o % hankBytes) (bs.take n) =
          arrayPut hanks o (bs.take n) m :=
        (arrayPut_eq_memWrite hanks m (by
          have : o % hankBytes < hankBytes := Nat.mod_lt _ (by decide)
          rw [List.length_take]
          omega)).symm
      have hrest : bs.drop n = [] ∨ o + n + (bs.drop n).length ≤ ((o + n) / hankBytes + k) * hankBytes := by
        by_cases hall : bs.length ≤ n
        · exact .inl (List.drop_eq_nil_of_le hall)
        · have h := h.resolve_left hnil
          rw [List.length_drop]
          simp only [hankBytes] at *
          omega
      have htake : (bs.take n).length = n := by rw [List.length_take]; omega
      rw [writeRun, hfirst, ← List.length_drop, ih _ hrest]
      conv_rhs => rw [← List.take_append_drop n bs, arrayPut_append, htake]

theorem arrayWrite_mem {hanks : List Nat} {o : Nat} {bs : List Byte} (s : State)
    (hfit : o + bs.length ≤ hanks.length * hankBytes) :
    (arrayWrite hanks o bs s).skein.mem = arrayPut hanks o bs s.skein.mem :=
  foldl_writeRun hanks s.skein.mem (.inr (hfit.trans (Nat.mul_le_mul_right _ ((Nat.le_succ _).trans (Nat.le_add_left _ _)))))

/-! ### What a guarded write leaves -/

theorem isProtected_congr (h : t.groups = s.groups) (k : Nat) : isProtected t k = isProtected s k := by
  rw [isProtected, h, isProtected]

/-- Where no hank of the array is protected, no copy comes first. -/
theorem guardedWrite_of_unprotected {priv : Nat} {hanks : List Nat} {o : Nat} {bs : List Byte}
    (hfit : o + bs.length ≤ hanks.length * hankBytes) (hp : ∀ k ∈ hanks, isProtected s k = false) :
    guardedWrite priv hanks o bs s = countSkein 0x21 priv hanks o bs.length (arrayWrite hanks o bs s) := by
  have hnone : (runHanks hanks o bs.length).filter (isProtected s) = [] :=
    List.filter_eq_nil_iff.mpr fun k hk => by simp [hp k (runHanks_subset hfit hk)]
  rw [guardedWrite, hnone]
  rfl

@[simp] theorem countSkein_skein {code priv : Nat} {hanks : List Nat} {o n : Nat} :
    (countSkein code priv hanks o n s).skein = s.skein :=
  (countSkein_keeps (free_changesOnly [.perf] s) (ChangesOnly.refl _ _)).skein (by decide) (by decide)

/-! ### Elements of an FP32 array (R185, R367) -/

theorem storedRange_fp32 (count first elems : Nat) : storedRange 0 count first elems = (first, first + elems) := rfl

theorem elemOff_fp32 (m : Nat) : elemOff 0 m = m * 4 := rfl

theorem arrayLen_fp32 (count : Nat) : arrayLen 0 count = count * 4 := rfl

theorem logicalWidth_fp32 : logicalWidth 0 = 4 := rfl

@[simp] theorem arrayRead_length (hanks : List Nat) (o n : Nat) : (arrayRead s hanks o n).length = n := by
  simp [arrayRead]

theorem loadElems_fp32 (s : State) (count : Nat) (hanks : List Nat) (first elems : Nat) :
    loadElems s 0 count hanks first elems = arrayRead s hanks (first * 4) (elems * 4) := by
  have hstream (n : Nat) (bs : List Byte) : logicalStream (Spec.ofNat 0) n bs = bs := rfl
  simp only [loadElems, storedRange_fp32, elemOff_fp32, arrayLen_fp32, logicalWidth_fp32, hstream,
    Nat.add_sub_cancel_left, Nat.sub_self, Nat.mul_zero, List.drop_zero]
  exact List.take_of_length_le (by simp [Nat.mul_comm])

/-- A write of whole FP32 elements stores the host's bytes as they are. -/
theorem storeElems_fp32 (s : State) (count : Nat) (hanks : List Nat) (first elems : Nat) (bs : List Byte) :
    storeElems s 0 count hanks first elems bs = (first * 4, bs) := by
  have hlogical (bs : List Byte) : fromLogical (Spec.ofNat 0) bs = bs := rfl
  have hrest : (loadElems s 0 count hanks first elems).drop (4 * elems) = [] :=
    List.drop_eq_nil_of_le (by simp [loadElems_fp32, Nat.mul_comm])
  simp [storeElems, storedRange_fp32, elemOff_fp32, logicalWidth_fp32, hlogical, hrest]

theorem arrayRead_congr {hanks : List Nat} {o n : Nat}
    (h : ∀ i, o ≤ i → i < o + n → memGet t.skein.mem (hankAddr hanks i) = memGet s.skein.mem (hankAddr hanks i)) :
    arrayRead t hanks o n = arrayRead s hanks o n :=
  List.map_congr_left fun i hi => h _ (Nat.le_add_right o i) (Nat.add_lt_add_left (List.mem_range.mp hi) o)

section
variable {hanks : List Nat} (hd : hanks.Nodup) {o : Nat} {bs : List Byte}
  (hfit : o + bs.length ≤ hanks.length * hankBytes) (hmem : t.skein.mem = arrayPut hanks o bs s.skein.mem)
include hd hfit hmem

/-- The bytes written read back. -/
theorem arrayRead_of_arrayPut : arrayRead t hanks o bs.length = bs := by
  refine List.ext_getElem (by simp) fun i hi hi' => ?_
  simp only [arrayRead, List.getElem_map, List.getElem_range, hmem]
  rw [memGet_arrayPut hd _ hfit (by omega), if_pos (by omega), Nat.add_sub_cancel_left, List.getD_eq_getElem _ _ hi']

/-- Bytes of the array before or after the ones written read as they did. -/
theorem arrayRead_of_arrayPut_disjoint {p n : Nat} (hdis : p + n ≤ o ∨ o + bs.length ≤ p)
    (hn : p + n ≤ hanks.length * hankBytes) : arrayRead t hanks p n = arrayRead s hanks p n :=
  arrayRead_congr fun i hlo hhi => by
    rw [hmem, memGet_arrayPut hd _ hfit (by omega), if_neg (by omega)]

end

/-! ### What the commands read of a state in which a command was taken -/

theorem findGroup_congr (h : t.groups = s.groups) (gid : Nat) : findGroup t gid = findGroup s gid := by
  rw [findGroup, h, findGroup]

theorem activeGroup_of_active {gid : Nat} {g : Group} (h : findGroup s gid = some g) (ha : g.phase = .active) :
    activeGroup s gid = some g := by
  rw [activeGroup, h]
  exact if_pos ha

theorem leadOf_congr (h : t.course = s.course) : leadOf t = leadOf s := by rw [leadOf, h, leadOf]

theorem leadRole_congr (hc : t.course = s.course) (hr : t.routing = s.routing) : leadRole t = leadRole s := by
  simp only [leadRole, leadOf_congr hc, hc, label_congr hr]

theorem hostRead_length {addr len : Nat} {h : HostRead} {bs : List Byte} (hb : hostRead s addr len h = some bs) :
    bs.length = len := by
  unfold hostRead at hb
  split at hb
  case isTrue =>
    obtain ⟨raw, -, rfl⟩ := Option.map_eq_some_iff.mp hb
    exact slice_length raw 0 len
  case isFalse => cases hb

/-- A completed command is no longer outstanding. -/
theorem finished_ok (tok : Tok) (arg : Nat) (bs : List Byte) (s : State) : Rules.finished tok (ok tok arg bs s) := by
  intro x hx
  rw [ok, complete_outstanding, List.mem_filter] at hx
  simpa using hx.2

/-! ### SHARD_READ and SHARD_WRITE (R187, R407) -/

/-- The range of a command that no check refuses lies within the shard. -/
theorem range_le_count {g : Group} {write : Bool} {d : Desc} (h : shardError g write d = none) :
    field d 16 8 + field d 24 8 ≤ (entryOf g.record (field d 12 2)).count := by
  by_contra hle
  cases hsh : g.shards.find? (·.index == field d 12 2) with
  | none =>
    simp only [shardError, hsh] at h
    split at h <;> cases h
  | some sh =>
    simp only [shardError, hsh, not_le.mp hle, or_true, if_true] at h
    split_ifs at h

section
variable {sq : BitVec 8} {d : Desc} {g : Group} {sh : Shard}

theorem exec_shardRead (h : Taken s sq d 0x21) (hr : dRsvdOk d shardFields = true) :
    exec (.shardRead sq d) s = .next (shardRead d (tokOf s sq d) (taking s sq d)) := by
  change execShardRead sq d s = _
  rw [execShardRead, runCommand_taken h, if_pos hr]

theorem exec_shardWrite {host : HostRead} (h : Taken s sq d 0x20) (hr : dRsvdOk d shardFields = true) :
    exec (.shardWrite sq d host) s = .next (shardWrite d host (tokOf s sq d) (taking s sq d)) := by
  change execShardWrite sq d host s = _
  rw [execShardWrite, runCommand_taken h, if_pos hr]

/-- The current set of a shard, read where no check refuses it. -/
theorem shardRead_current {tok : Tok} (hg : activeGroup s (dGroup d) = some g)
    (hsh : g.shards.find? (·.index == field d 12 2) = some sh) (he : shardError g false d = none)
    (hset : field d 15 1 = 0) (hn : field d 24 8 ≠ 0) :
    let f := arrayFmt g.record (field d 14 1)
    let hanks := arraySet sh (field d 14 1) sh.gen
    let count := (entryOf g.record sh.index).count
    let ab := storedRange f count (field d 16 8) (field d 24 8)
    shardRead d tok s = ok tok 0 [] (hostWrite (field d 32 8) (loadElems s f count hanks (field d 16 8) (field d 24 8))
      (countSkein 0x20 1 hanks (elemOff f ab.1) (arrayLen f (ab.2 - ab.1)) s)) := by
  cases hsec : sh.secure <;> simp [shardRead, hg, he, hsh, hset, hn, hsec]

/-- A write to a shard that runs solo is not forwarded. -/
theorem shardWrite_solo {host : HostRead} {tok : Tok} {bs : List Byte} (hg : activeGroup s (dGroup d) = some g)
    (hsh : g.shards.find? (·.index == field d 12 2) = some sh) (he : shardError g true d = none)
    (hfmt : arrayFmt g.record (field d 14 1) = 0) (hsolo : sh.solo = true) (hn : field d 24 8 ≠ 0)
    (hb : hostRead s (field d 32 8) (field d 24 8 * 4) host = some bs) :
    shardWrite d host tok s =
      ok tok 0 [] (guardedWrite 1 (arraySet sh (field d 14 1) sh.gen) (field d 16 8 * 4) bs s) := by
  simp [shardWrite, hg, he, hsh, hfmt, hsolo, hn, hb, logicalWidth_fp32, storeElems_fp32]

end

/-! ### STEP_RECORD_READ (R408) -/

section
variable {sq : BitVec 8} {d : Desc}

theorem exec_stepRecordRead (h : Taken s sq d 0x24)
    (hr : dRsvdOk d [(8, 1), (16, 8), (24, 8), (32, 4), (36, 4)] = true) :
    exec (.stepRecordRead sq d) s = .next (stepRecordRead d (tokOf s sq d) (taking s sq d)) := by
  change execStepRecordRead sq d s = _
  rw [execStepRecordRead, runCommand_taken h, if_pos hr]

variable {tok : Tok} (hl : leadRole s ≠ 0)
include hl

theorem stepRecordRead_not_kept (h : s.course.records.find? (·.step == field d 16 8) = none) :
    stepRecordRead d tok s = bad tok dtRange s := by
  simp [stepRecordRead, hl, h]

theorem stepRecordRead_kept (hw : field d 8 1 ≤ 1) {y : StepRec}
    (h : s.course.records.find? (·.step == field d 16 8) = some y) :
    let all := recordEntries y (field d 8 1 == 1)
    let es := (all.drop (field d 36 4)).take (field d 32 4 / 256)
    stepRecordRead d tok s = ok tok es.length (leBytes 4 all.length)
      (if es = [] then s else hostWrite (field d 24 8) es.flatten s) := by
  simp [stepRecordRead, hl, hw, h]

end

/-- Settles O48: SHARD_READ and STEP_RECORD_READ by their equations; SHARD_WRITE by that of a solo shard's write and by what
reads of an array give after `arrayPut`; the order of a step's entries by `placeAll`. -/
theorem shardAccessCommands : Obligations.ShardAccessCommands := by
  unfold Obligations.ShardAccessCommands
  intro s sq d h g sh u t0 x first n hanks cnt
  refine ⟨fun hg hphase hsh hr hn => ⟨?read, ?write⟩, fun ht hr hl hw => ⟨?notKept, ?kept⟩,
    fun y => ⟨?reports, ?notes⟩⟩
  case read =>
    intro ht he hset
    have hact : activeGroup u (dGroup d) = some g :=
      activeGroup_of_active ((findGroup_congr takeDesc_groups _).trans hg) hphase
    rw [exec_shardRead ht hr, shardRead_current hact hsh he hset hn]
  case write =>
    intro bs ht he hfmt hsolo _ hd hroom hprot hb
    have hact : activeGroup u (dGroup d) = some g :=
      activeGroup_of_active ((findGroup_congr takeDesc_groups _).trans hg) hphase
    have hidx : sh.index = field d 12 2 := by simpa using List.find?_some hsh
    have hrange : first + n ≤ cnt := by simpa only [cnt, hidx] using range_le_count he
    have hlen : bs.length = n * 4 := hostRead_length hb
    have hfit : first * 4 + bs.length ≤ hanks.length * hankBytes := by omega
    have hguard := guardedWrite_of_unprotected (priv := 1) (s := u) hfit fun k hk =>
      (isProtected_congr takeDesc_groups k).trans (hprot k hk)
    refine ⟨_, exec_shardWrite ht hr, ?_⟩
    rw [shardWrite_solo hact hsh he hfmt hsolo hn hb, hguard]
    set v := ok t0 0 [] (countSkein 0x21 1 hanks (first * 4) bs.length (arrayWrite hanks (first * 4) bs u)) with hv
    have hmem : v.skein.mem = arrayPut hanks (first * 4) bs s.skein.mem := by
      rw [hv, ok_skein, countSkein_skein, arrayWrite_mem u hfit, takeDesc_skein]
    refine ⟨?written, ?others, fun a ha => ?outside, finished_ok _ _ _ _⟩
    case written =>
      rw [loadElems_fp32, ← hlen]
      exact arrayRead_of_arrayPut hd hfit hmem
    case others =>
      intro m k hdis hk
      rw [loadElems_fp32, loadElems_fp32]
      exact arrayRead_of_arrayPut_disjoint hd hfit hmem (by omega) (by omega)
    case outside => rw [hmem, memGet_arrayPut_of_not_mem _ hfit ha]
  case notKept =>
    intro hnone
    have hlead : leadRole u ≠ 0 := by rwa [leadRole_congr takeDesc_course takeDesc_routing]
    rw [exec_stepRecordRead ht hr, stepRecordRead_not_kept hlead (by rwa [takeDesc_course])]
    rfl
  case kept =>
    intro y hy
    have hlead : leadRole u ≠ 0 := by rwa [leadRole_congr takeDesc_course takeDesc_routing]
    rw [exec_stepRecordRead ht hr, stepRecordRead_kept hlead hw (by rwa [takeDesc_course])]
  case reports => exact ⟨_, recordEntries_reports_perm y, rfl, recordEntries_reports_pairwise y⟩
  case notes => exact ⟨_, placeAll_perm y.notes, recordEntries_notes y, placeAll_pairwise y.notes⟩

end Sys2Proof.Machine
end
